-- ==== Sys2Proof/Word.lean ====
section
/-! DEFINITION. The units of memory and registers (R3 to R5): byte, half, word, quad. -/
namespace Sys2Proof

/-- R5: a byte is 8 bits. -/
abbrev Byte := BitVec 8
/-- R5: a half is 16 bits. -/
abbrev Half := BitVec 16
/-- R5: a word is 32 bits. -/
abbrev Word := BitVec 32
/-- R5: a quad is 64 bits. -/
abbrev Quad := BitVec 64
/-- A lane mask of up to 128 lanes (R231, R298). -/
abbrev Mask := BitVec 128

end Sys2Proof
end

