-- ==== Sys2Proof/Config.lean ====
section
/-! DEFINITION. What the part fixes (chapter 01) and the values the spec leaves open, which stay opaque. -/
namespace Sys2Proof.Config

/-- A free value of 64 bits, one for each draw (State.drawn counts the draws). Log entry 14. -/
opaque freeQuad : Nat → BitVec 64
/-- `CKPT_PUBKEYn`: the fused public key (R321). Log entry 13. -/
opaque fusedKey : Nat → BitVec 64
/-- The 7,856 bytes of the SLH-DSA-SHA2-128s signature of a message under the secret key (R332). Log entry 13. -/
opaque signature : List (BitVec 8) → List (BitVec 8)
/-- Whether a signature that the device did not make itself verifies (R337, R406). Log entry 13. -/
opaque verifyForeign : List (BitVec 8) → List (BitVec 8) → Bool

/-- R15: compute dies, cores and quads of the package. -/
abbrev dies : Nat := 10
abbrev cores : Nat := 640
abbrev quads : Nat := 160
/-- R21: memory stacks and channels of one stack. -/
abbrev stackCount : Nat := 12
abbrev stackChannels : Nat := 32
/-- R15, R185: tiles of one quad, and bytes of one tile. -/
abbrev quadTiles : Nat := 96
abbrev tileBytes : Nat := 6144
/-- R19: the ranges of the physical map. -/
abbrev dramEnd : Nat := 0x9000000000
abbrev cxlBase : Nat := 0x10000000000
abbrev cxlEnd : Nat := 0x8000000000000
abbrev devBase : Nat := 0xF000000000000
abbrev paEnd : Nat := 0x10000000000000

end Sys2Proof.Config
end

