-- ==== Sys2Proof/Syntax.lean ====
section
/-! DEFINITION. Syntax: the one inductive of instructions and events, one constructor per row of
spec/opcode_table.json, with the operand forms of chapters 03 and 04. -/
namespace Sys2Proof

/-- R84: the sixteen type codes. -/
inductive Ty
  | s8 | s16 | s32 | s64 | n8 | n16 | n32 | n64 | b32 | b64 | f16 | bf16 | f32 | f64 | f16x2 | bf16x2
  deriving DecidableEq, Repr
/-- R86: `fpctl.RM` or a fixed mode. -/
inductive RMode
  | ctl | rne | rtz | rup | rdn
  deriving DecidableEq, Repr
/-- R87, R134: the conditions of `cmp` (the first six) and `fcmp`. -/
inductive Cond
  | eq | ne | lt | le | gt | ge | un | ord
  deriving DecidableEq, Repr
/-- R90: elements moved by a load or store. -/
inductive Vec
  | one | two | four
  deriving DecidableEq, Repr
/-- R63: the ordering field of format M. -/
inductive MemOrd
  | plain | acq | rel | ar
  deriving DecidableEq, Repr
/-- R90: atomic operations. -/
inductive AOp
  | add | min | max | and | or | xor | xchg | cas | incw | decw
  deriving DecidableEq, Repr
/-- R125: the modes of `shfl`. -/
inductive ShflMode
  | idx | up | down | xor
  deriving DecidableEq, Repr
/-- R191: the space of a tile load or store. -/
inductive TSpace
  | sp | vt | gl
  deriving DecidableEq, Repr
/-- R57: an operand specifier; `p` is a predicate number in a field that holds one. -/
inductive Opd
  | v (n : BitVec 8) | l (n : BitVec 4) | s (n : BitVec 6) | t (n : BitVec 5) | k (n : BitVec 6) | z | p (n : BitVec 7)
  deriving DecidableEq, Repr
/-- R60: the guard: always, or the predicate n with the sense GN. -/
inductive Guard
  | always | pred (n : BitVec 7) (neg : Bool)
  deriving DecidableEq, Repr
/-- R56, R62: what every format has: guard, empty policy, operands, and the 32-bit immediate of format I. -/
structure Fields where
  g : Guard
  e : BitVec 3
  d : Opd
  a : Opd
  b : Opd
  c : Opd
  imm : Option Word
  deriving DecidableEq, Repr
/-- R63: the extension of format M; XF stands in the instruction that uses it. -/
structure MemExt where
  disp : BitVec 40
  scale : BitVec 3
  ord : MemOrd
  deriving DecidableEq, Repr
/-- R65: one half of a pair word, with its opcode, FN and 8-bit specifiers. -/
structure PairHalf where
  g : Guard
  op : BitVec 8
  fn : BitVec 7
  e : BitVec 3
  d : BitVec 8
  a : BitVec 8
  b : BitVec 8
  c : BitVec 8
  deriving DecidableEq, Repr
/-- R75, R222: the shape a kernel declares; width 0 is a width-free kernel. -/
structure Shape where
  width : Nat
  regs : Nat
  preds : Nat
  links : Nat
  tiles : Nat
  crew : Nat
  scratch : Nat
  qgroup : Nat
  dgroup : Nat
  deriving DecidableEq, Repr
/-- R271, R276: the kinds of access a translation asks for. -/
inductive Access
  | read | write | atomic | fetch
  deriving DecidableEq, Repr
/-- R277: the answers of a page request group. -/
inductive PrgCode
  | success | invalidRequest | responseFailure
  deriving DecidableEq, Repr
/-- R363: who finds an uncorrectable DRAM error. -/
inductive ErrReader
  | demand | scrubber | copy (crew entry : Nat) | tileLoad (crew id : Nat) | chervil (ctx : Nat) | migration (slot : Nat)
  deriving DecidableEq, Repr
/-- R363: the crew state an uncorrectable error strikes. -/
inductive CrewPart
  | regs | scratch | tile | engine (num : Nat)
  deriving DecidableEq, Repr

/-- The instructions and events of spec/opcode_table.json, in its order. The Arben instructions carry the
typed function fields of chapter 04 and their operands; the Sorrel bytecodes carry the fields of R385;
the events carry what names the unit they happen in. -/
inductive Instr
  | nopN (f : Fields)
  | nopI (f : Fields)
  | nopW (f : Fields)
  | pairWord (x y : PairHalf)
  | bra (f : Fields)
  | bri (f : Fields)
  | call (f : Fields)
  | calli (f : Fields)
  | ret (f : Fields)
  | exit (f : Fields)
  | park (f : Fields)
  | jset (j : BitVec 3) (f : Fields)
  | jwait (j : BitVec 3) (f : Fields)
  | mig (f : Fields)
  | migCommit (crew warp : Nat)
  | add (t : Ty) (sat : Bool) (f : Fields)
  | sub (t : Ty) (sat : Bool) (f : Fields)
  | min (t : Ty) (sat : Bool) (f : Fields)
  | max (t : Ty) (sat : Bool) (f : Fields)
  | abs (t : Ty) (sat : Bool) (f : Fields)
  | neg (t : Ty) (sat : Bool) (f : Fields)
  | and (t : Ty) (sat : Bool) (f : Fields)
  | or (t : Ty) (sat : Bool) (f : Fields)
  | xor (t : Ty) (sat : Bool) (f : Fields)
  | andn (t : Ty) (sat : Bool) (f : Fields)
  | not (t : Ty) (sat : Bool) (f : Fields)
  | shl (t : Ty) (sat : Bool) (f : Fields)
  | shr (t : Ty) (sat : Bool) (f : Fields)
  | sar (t : Ty) (sat : Bool) (f : Fields)
  | rot (t : Ty) (sat : Bool) (f : Fields)
  | mov (t : Ty) (sat : Bool) (f : Fields)
  | mul (t : Ty) (sat : Bool) (f : Fields)
  | mulh (t : Ty) (sat : Bool) (f : Fields)
  | mad (t : Ty) (sat : Bool) (f : Fields)
  | bfx (t : Ty) (sat : Bool) (f : Fields)
  | bfi (t : Ty) (sat : Bool) (f : Fields)
  | popc (t : Ty) (sat : Bool) (f : Fields)
  | clz (t : Ty) (sat : Bool) (f : Fields)
  | ctz (t : Ty) (sat : Bool) (f : Fields)
  | fnth (t : Ty) (sat : Bool) (f : Fields)
  | brev (t : Ty) (sat : Bool) (f : Fields)
  | cmp (t : Ty) (c : Cond) (f : Fields)
  | sel (t : Ty) (f : Fields)
  | moviB32 (f : Fields)
  | moviB64I (f : Fields)
  | moviB64W (x : Quad) (f : Fields)
  | pand (na nb : Bool) (f : Fields)
  | por (na nb : Bool) (f : Fields)
  | pxor (na nb : Bool) (f : Fields)
  | pnot (f : Fields)
  | pmov (f : Fields)
  | ppack (grp : BitVec 2) (f : Fields)
  | punpack (grp : BitVec 2) (f : Fields)
  | voteAll (f : Fields)
  | voteAny (f : Fields)
  | voteUni (f : Fields)
  | ballot (f : Fields)
  | shfl (t : Ty) (mode : ShflMode) (f : Fields)
  | redux (t : Ty) (rop : BitVec 3) (f : Fields)
  | elect (f : Fields)
  | lmov (t : Ty) (f : Fields)
  | zip2 (t : Ty) (f : Fields)
  | zip3 (t : Ty) (f : Fields)
  | zip4 (t : Ty) (f : Fields)
  | unzip2 (t : Ty) (f : Fields)
  | unzip3 (t : Ty) (f : Fields)
  | unzip4 (t : Ty) (f : Fields)
  | fadd (t : Ty) (rm : RMode) (f : Fields)
  | fsub (t : Ty) (rm : RMode) (f : Fields)
  | fmul (t : Ty) (rm : RMode) (f : Fields)
  | fma (t : Ty) (rm : RMode) (f : Fields)
  | fmin (t : Ty) (f : Fields)
  | fmax (t : Ty) (f : Fields)
  | fdiv (t : Ty) (rm : RMode) (f : Fields)
  | fsqrt (t : Ty) (rm : RMode) (f : Fields)
  | fcmp (t : Ty) (c : Cond) (f : Fields)
  | fsel (t : Ty) (f : Fields)
  | fclass (t : Ty) (f : Fields)
  | frcp (t : Ty) (rm : RMode) (f : Fields)
  | frsq (t : Ty) (rm : RMode) (f : Fields)
  | fexp2 (t : Ty) (rm : RMode) (f : Fields)
  | flog2 (t : Ty) (rm : RMode) (f : Fields)
  | fscale (t : Ty) (rm : RMode) (f : Fields)
  | frnd (t : Ty) (rm : RMode) (f : Fields)
  | fsin (t : Ty) (rm : RMode) (f : Fields)
  | fcos (t : Ty) (rm : RMode) (f : Fields)
  | cvt (td ts : Ty) (sat : Bool) (f : Fields)
  | fcvt (td ts : Ty) (rm : RMode) (f : Fields)
  | linkDigitDelivery (crew tid link : Nat)
  | ldp (t : Ty) (vec : Vec) (m : MemExt) (f : Fields)
  | stp (t : Ty) (vec : Vec) (m : MemExt) (f : Fields)
  | lds (t : Ty) (vec : Vec) (m : MemExt) (f : Fields)
  | sts (t : Ty) (vec : Vec) (m : MemExt) (f : Fields)
  | ldv (t : Ty) (vec : Vec) (m : MemExt) (f : Fields)
  | stv (t : Ty) (vec : Vec) (m : MemExt) (f : Fields)
  | ldg (t : Ty) (vec : Vec) (m : MemExt) (f : Fields)
  | stg (t : Ty) (vec : Vec) (m : MemExt) (f : Fields)
  | ldf (t : Ty) (vec : Vec) (m : MemExt) (f : Fields)
  | stf (t : Ty) (vec : Vec) (m : MemExt) (f : Fields)
  | ldd (t : Ty) (m : MemExt) (f : Fields)
  | std (t : Ty) (m : MemExt) (f : Fields)
  | pfg (m : MemExt) (f : Fields)
  | pfgLlc (m : MemExt) (f : Fields)
  | fenceAcq (f : Fields)
  | fenceRel (f : Fields)
  | fenceAr (f : Fields)
  | bar (f : Fields)
  | memoryReturn (id : Nat)
  | atms (t : Ty) (op : AOp) (m : MemExt) (f : Fields)
  | atmv (t : Ty) (op : AOp) (m : MemExt) (f : Fields)
  | atmg (t : Ty) (op : AOp) (m : MemExt) (f : Fields)
  | atmf (t : Ty) (op : AOp) (m : MemExt) (f : Fields)
  | swinit (m : MemExt) (f : Fields)
  | swarrive (m : MemExt) (f : Fields)
  | swait (m : MemExt) (f : Fields)
  | cpy (qpri : BitVec 2) (f : Fields)
  | copyGranule (crew entry : Nat)
  | cpyq (f : Fields)
  | tld (space : TSpace) (stride : BitVec 16) (disp : BitVec 32) (f : Fields)
  | tileLoadComplete (crew id : Nat)
  | tst (space : TSpace) (stride : BitVec 16) (disp : BitVec 32) (f : Fields)
  | tileStoreReadDone (crew id : Nat)
  | tzero (f : Fields)
  | mmx (mpri : BitVec 2) (f : Fields)
  | matrixPassGrant (quad : Nat)
  | matrixPassEnd (quad : Nat)
  | mmq (f : Fields)
  | csrr (num : BitVec 12) (f : Fields)
  | csrw (num : BitVec 12) (f : Fields)
  | trap (code : BitVec 16) (f : Fields)
  | assert (msg : Word) (f : Fields)
  | brk (code : BitVec 16) (f : Fields)
  | rte (f : Fields)
  | lrd (kind : BitVec 3) (f : Fields)
  | lwr (kind : BitVec 3) (f : Fields)
  | time (f : Fields)
  | timeOrd (f : Fields)
  | cstep (f : Fields)
  | vgat (f : Fields)
  | dmov (f : Fields)
  | lcpy (n : BitVec 5) (f : Fields)
  | microStep (crew warp : Nat)
  | illegalInstruction (cause : BitVec 8) (tval : Quad)
  | poolCycle (crew : Nat)
  | laneRefill (crew warp lane : Nat)
  | idleHandoff (crew warp entry : Nat)
  | pageWalk (die ctx va : Nat) (kind : Access)
  | pageRequest (die ctx vpage : Nat)
  | prgResponse (prgi : Nat) (code : PrgCode)
  | atsInvalidateRequest (pasid : BitVec 20) (addr : Quad) (pages : Nat)
  | invalidateRange (ctx : BitVec 8) (addr : Quad) (count : BitVec 20)
  | invalidateContext (ctx : BitVec 8)
  | invalidateAll
  | invalidationComplete
  | migrationGo (slot : Nat)
  | migrationLineCopy (slot : Nat)
  | migrationEnd (slot : Nat)
  | mcCommit (stack ch : Nat)
  | channelSlot (stack ch : Nat)
  | stopSaveContext (ctx : Nat) (reason : BitVec 4)
  | stopSaveCrew (ctx : Nat) (pos : BitVec 23) (reason : BitVec 4)
  | stopInPlace (ctx : Nat) (reason : BitVec 4)
  | resumeInPlace (ctx : Nat)
  | stopComplete (ctx : Nat)
  | debugHalt (ctx : Nat)
  | debugResume (ctx : Nat)
  | discardPendingTraps (ctx : Nat)
  | dumpRequest (ctx : Nat)
  | ckptEnable (ctx : Nat)
  | ckptCut (ctx : Nat)
  | ckptFull (ctx : Nat)
  | timerTrigger (ctx : Nat)
  | intervalCut (ctx : Nat)
  | protectedUnitWrite (ctx unit : Nat)
  | shardStream (ctx : Nat)
  | indexWaitTimeout (ctx : Nat)
  | intervalSeal (ctx : Nat)
  | costUpdate
  | restore (ctx : BitVec 8)
  | gangSwitchOut
  | gangInstant
  | sweepSealed
  | gangClose
  | gangSwitchIn
  | fabricLoadRequest (port vl : Nat)
  | fabricStoreRequest (port vl : Nat)
  | fabricAtomicRequest (port vl : Nat)
  | fabricReply (port vl : Nat)
  | fabricNegativeReply (port vl : Nat)
  | ready (job : Half) (peer : BitVec 12)
  | notready (job : Half) (peer : BitVec 12)
  | timeExchange
  | fabDomainWrite (v : Bool) (num : BitVec 12)
  | portTraining (port : Nat) (ok : Bool)
  | ueDirtyLlcLine (line : Nat) (set : BitVec 10) (way det : BitVec 4)
  | ueCleanLlcLine (line : Nat) (set : BitVec 10) (way det : BitVec 4)
  | ueDramGranule (addr : Nat) (reader : ErrReader)
  | ueVaultLine (quad off : Nat)
  | ueCrewState (crew : Nat) (part : CrewPart)
  | rollback (ctx : Nat)
  | scrubGranule (stack : Nat)
  | coreSpareMap (die quadrant : Nat) (v : Bool) (core : BitVec 4)
  | dieFence (dies : BitVec 10)
  | stackFenceGo (stack : BitVec 4)
  | stackFenceEnd
  | doorbell (q : Nat) (x : Quad)
  | queueEnable (q : Nat) (log2 : BitVec 5)
  | queueExamination
  | sorrelEnd
  | sorrelLi (ka : BitVec 3) (imm : BitVec 21)
  | sorrelPkw (ka : BitVec 3) (n : BitVec 21)
  | sorrelLdw (ka kb : BitVec 3) (w : BitVec 2) (off : BitVec 19)
  | sorrelStw (ka kb : BitVec 3) (w : BitVec 2) (off : BitVec 19)
  | sorrelAdd (ka kb : BitVec 3) (imm : BitVec 21)
  | sorrelAddk (ka kb : BitVec 3)
  | sorrelAndi (ka kb : BitVec 3) (imm : BitVec 21)
  | sorrelShr (ka kb : BitVec 3) (imm : BitVec 21)
  | sorrelBz (ka : BitVec 3) (n : BitVec 21)
  | sorrelBnz (ka : BitVec 3) (n : BitVec 21)
  | sorrelRep (n : BitVec 7) (len : BitVec 5)
  | sorrelCst (c : BitVec 6) (ka : BitVec 3)
  | sorrelDep (ka : BitVec 3)
  | sorrelCond (kb : BitVec 3) (w : BitVec 2) (off : BitVec 19)
  | sorrelEmit (w : BitVec 2) (off : BitVec 19)
  | nodeResolve (node : Nat)
  | bindCommit (core slot : Nat) (q0 q1 : Quad)
  | schedStart (launch : Word)
  | launchComplete (launch : Word)
  | boot (bad : List Nat) (hostOk : Bool)
  | firmwareImageUpdate (cls : Nat) (image sig : List Byte)
  | bankSwitch (cls : Nat)
  | resetContext (ctx : Nat)
  | resetCore (core : Nat)
  | resetMatrixEngine (quad : Nat)
  | resetCopyEngine (quad : Nat)
  | resetComputeDie (die : Nat)
  | resetMemoryStack (stack : Nat)
  | resetFabricPort (port : Nat)
  | resetFabricDie (die : Nat)
  | resetCommandPath
  | resetManagementComplex
  | resetHostDieFunctions
  | resetPackage
  | watchdogExpiry
  | hostFlr
  | linkErrorLimit (port : Nat)
  | junctionThrottle (island : Nat)
  | junctionTrip (socket : Nat)
  | telemetryPeriodic (schema : Nat)
  | registerWrite (addr : Nat) (wide : Bool) (x : Quad)
  | stackFenceGranuleCopy
  | priStoppedClear
  | atsCompletion (pasid : BitVec 20) (page host : Nat)
  | contextImageRestore (ctx : Nat) (addr : Nat)
  | standbyEntry
  deriving DecidableEq, Repr

end Sys2Proof
end

