-- ==== Sys2Proof/Decode.lean ====
section
/-! DEFINITION. The decoder and the encoder of Arben and Sorrel words, from chapters 03, 04 and 21. The decoder is
total: it answers an instruction or the illegal-instruction cause of R68. -/
namespace Sys2Proof

/-! ### Codes of the function fields -/

/-- R84. -/
def Ty.code : Ty → BitVec 4
  | .s8 => 0 | .s16 => 1 | .s32 => 2 | .s64 => 3 | .n8 => 4 | .n16 => 5 | .n32 => 6 | .n64 => 7
  | .b32 => 8 | .b64 => 9 | .f16 => 10 | .bf16 => 11 | .f32 => 12 | .f64 => 13 | .f16x2 => 14 | .bf16x2 => 15
/-- R84, read from the code. -/
def Ty.ofCode (c : BitVec 4) : Ty :=
  match c.toNat with
  | 0 => .s8 | 1 => .s16 | 2 => .s32 | 3 => .s64 | 4 => .n8 | 5 => .n16 | 6 => .n32 | 7 => .n64
  | 8 => .b32 | 9 => .b64 | 10 => .f16 | 11 => .bf16 | 12 => .f32 | 13 => .f64 | 14 => .f16x2 | _ => .bf16x2
/-- The width of an element in bits (R27, R29). -/
def Ty.bits : Ty → Nat
  | .s8 | .n8 => 8
  | .s16 | .n16 | .f16 | .bf16 => 16
  | .s32 | .n32 | .b32 | .f32 | .f16x2 | .bf16x2 => 32
  | .s64 | .n64 | .b64 | .f64 => 64
/-- `.sN` types. -/
def Ty.signed : Ty → Bool
  | .s8 | .s16 | .s32 | .s64 => true
  | _ => false
/-- `.f16` to `.f64`, the scalar floating types. -/
def Ty.isFloat : Ty → Bool
  | .f16 | .bf16 | .f32 | .f64 => true
  | _ => false
/-- The packed types of R27. -/
def Ty.packed : Ty → Bool
  | .f16x2 | .bf16x2 => true
  | _ => false
/-- The types a link can hold (R43, R129). -/
def Ty.linkable : Ty → Bool
  | .f32 | .f64 => true
  | _ => false
/-- Registers of one element: a pair for 64 bits (R27). -/
def Ty.regs (t : Ty) : Nat := if t.bits = 64 then 2 else 1
/-- R86. -/
def RMode.code : RMode → BitVec 3
  | .ctl => 0 | .rne => 4 | .rtz => 5 | .rup => 6 | .rdn => 7
def RMode.ofCode (c : BitVec 3) : RMode :=
  match c.toNat with
  | 4 => .rne | 5 => .rtz | 6 => .rup | 7 => .rdn | _ => .ctl
/-- R87, R134. -/
def Cond.code : Cond → BitVec 3
  | .eq => 0 | .ne => 1 | .lt => 2 | .le => 3 | .gt => 4 | .ge => 5 | .un => 6 | .ord => 7
def Cond.ofCode (c : BitVec 3) : Cond :=
  match c.toNat with
  | 0 => .eq | 1 => .ne | 2 => .lt | 3 => .le | 4 => .gt | 5 => .ge | 6 => .un | _ => .ord
/-- R90: VEC. -/
def Vec.code : Vec → BitVec 3
  | .one => 0 | .two => 1 | .four => 2
def Vec.ofCode (c : BitVec 3) : Vec :=
  match c.toNat with
  | 1 => .two | 2 => .four | _ => .one
def Vec.count : Vec → Nat
  | .one => 1 | .two => 2 | .four => 4
/-- R63: ORD. -/
def MemOrd.code : MemOrd → BitVec 2
  | .plain => 0 | .acq => 1 | .rel => 2 | .ar => 3
def MemOrd.ofCode (c : BitVec 2) : MemOrd :=
  match c.toNat with
  | 0 => .plain | 1 => .acq | 2 => .rel | _ => .ar
/-- R90: AOP. -/
def AOp.code : AOp → BitVec 8
  | .add => 0 | .min => 1 | .max => 2 | .and => 3 | .or => 4 | .xor => 5 | .xchg => 6 | .cas => 7 | .incw => 8 | .decw => 9
def AOp.ofCode (c : BitVec 8) : AOp :=
  match c.toNat with
  | 0 => .add | 1 => .min | 2 => .max | 3 => .and | 4 => .or | 5 => .xor | 6 => .xchg | 7 => .cas | 8 => .incw | _ => .decw
/-- R125: VAR of `shfl`. -/
def ShflMode.code : ShflMode → BitVec 2
  | .idx => 0 | .up => 1 | .down => 2 | .xor => 3
def ShflMode.ofCode (c : BitVec 2) : ShflMode :=
  match c.toNat with
  | 0 => .idx | 1 => .up | 2 => .down | _ => .xor
/-- R191: SPACE. -/
def TSpace.code : TSpace → BitVec 2
  | .sp => 0 | .vt => 1 | .gl => 2
def TSpace.ofCode (c : BitVec 2) : TSpace :=
  match c.toNat with
  | 0 => .sp | 1 => .vt | _ => .gl
/-- R57: the specifier of an operand. -/
def Opd.code : Opd → BitVec 9
  | .v n => n.setWidth 9
  | .l n => 0x100#9 + n.setWidth 9
  | .s n => 0x110#9 + n.setWidth 9
  | .t n => 0x160#9 + n.setWidth 9
  | .k n => 0x180#9 + n.setWidth 9
  | .z => 0x1FF#9
  | .p n => n.setWidth 9
/-- R57: the operand of a specifier; none for the reserved ranges. `isPred` marks a field that holds a
predicate number. -/
def Opd.ofCode (isPred : Bool) (c : BitVec 9) : Option Opd :=
  let n := c.toNat
  if n = 0x1FF then some .z
  else if isPred then (if n < 96 then some (.p (BitVec.ofNat 7 n)) else none)
  else if n < 0x100 then some (.v (BitVec.ofNat 8 n))
  else if n < 0x110 then some (.l (BitVec.ofNat 4 (n - 0x100)))
  else if n < 0x150 then some (.s (BitVec.ofNat 6 (n - 0x110)))
  else if n < 0x160 then none
  else if n < 0x180 then some (.t (BitVec.ofNat 5 (n - 0x160)))
  else if n < 0x1C0 then some (.k (BitVec.ofNat 6 (n - 0x180)))
  else none
/-- R56: GP and GN. -/
def Guard.code : Guard → BitVec 7 × Bool
  | .always => (127, false)
  | .pred n neg => (n, neg)
/-- R56, R60: 96 to 126 and GP 127 with GN 1 are reserved. -/
def Guard.ofCode (gp : BitVec 7) (gn : Bool) : Option Guard :=
  if gp = 127 then (if gn then none else some .always)
  else if gp.toNat < 96 then some (.pred gp gn) else none

/-- R87 layout T. -/
def fnT (t : Ty) (sat : Bool) (var : BitVec 2) : BitVec 7 := t.code ++ BitVec.ofBool sat ++ var
/-- R85 layouts F, C, M and R: a type and three bits. -/
def fnX (t : Ty) (x : BitVec 3) : BitVec 7 := t.code ++ x

/-! ### The raw word of R56 -/

/-- R56: the header fields and bits [127:64]; ext is zero where the format has none. -/
structure Raw where
  len : BitVec 2
  op : BitVec 8
  gp : BitVec 7
  gn : Bool
  d : BitVec 9
  a : BitVec 9
  b : BitVec 9
  c : BitVec 9
  e : BitVec 3
  fn : BitVec 7
  ext : Quad
  deriving DecidableEq, Repr

/-- The 128 bits of a raw word, bits above its length zero. -/
def Raw.bits (r : Raw) : BitVec 128 :=
  r.ext ++ r.fn ++ r.e ++ r.c ++ r.b ++ r.a ++ r.d ++ BitVec.ofBool r.gn ++ r.gp ++ r.op ++ r.len
/-- R52: bytes of a word by LEN. -/
def lenBytes (len : BitVec 2) : Nat :=
  match len.toNat with
  | 0 => 8 | 1 => 12 | _ => 16
/-- The fields of 128 bits, the extension cut to the word's length. -/
def Raw.ofBits (x : BitVec 128) : Raw :=
  let len := x.extractLsb' 0 2
  { len := len, op := x.extractLsb' 2 8, gp := x.extractLsb' 10 7, gn := x.getLsbD 17
    d := x.extractLsb' 18 9, a := x.extractLsb' 27 9, b := x.extractLsb' 36 9, c := x.extractLsb' 45 9
    e := x.extractLsb' 54 3, fn := x.extractLsb' 57 7
    ext := if len = 0 then 0 else if len = 1 then (x.extractLsb' 64 32).setWidth 64 else x.extractLsb' 64 64 }

/-! ### What the opcode map allows -/

/-- R82: the lengths an opcode accepts (not the pair word). -/
def lenLegal (op len : Nat) : Bool :=
  if op = 0x01 then len ≤ 2
  else if op = 0x02 || op = 0x04 then len == 1
  else if op = 0x03 || (0x05 ≤ op && op ≤ 0x0B) then len == 0
  else if 0x10 ≤ op && op ≤ 0x2B then len ≤ 1
  else if op = 0x2C then len == 1 || len == 2
  else if 0x30 ≤ op && op ≤ 0x36 then len == 0
  else if op = 0x42 then len ≤ 1
  else if 0x40 ≤ op && op ≤ 0x4B then len == 0
  else if (0x50 ≤ op && op ≤ 0x5A) || (0x60 ≤ op && op ≤ 0x67) then len ≤ 1
  else if (0x70 ≤ op && op ≤ 0x77) || (0x80 ≤ op && op ≤ 0x87) || (0x8A ≤ op && op ≤ 0x8D) then len == 0
  else if op = 0x9D || op = 0x9E then len == 0
  else if (0x90 ≤ op && op ≤ 0x9C) || (0xA0 ≤ op && op ≤ 0xA6) then len == 2
  else if op = 0xB4 then len == 0
  else if 0xB0 ≤ op && op ≤ 0xB6 then len == 2
  else if (0xC0 ≤ op && op ≤ 0xC9) || (0xE0 ≤ op && op ≤ 0xE2) then len == 2
  else false
/-- R81: the opcode is assigned. -/
def opAssigned (op : Nat) : Bool := lenLegal op 0 || lenLegal op 1 || lenLegal op 2
/-- R66, R81: the 38 pairable opcodes. -/
def pairable (op : Nat) : Bool :=
  (0x10 ≤ op && op ≤ 0x29) || (0x50 ≤ op && op ≤ 0x55) || (0x60 ≤ op && op ≤ 0x65)
/-- R83, R121: the cross-lane opcodes. -/
def crossLaneOp (op : Nat) : Bool := 0x40 ≤ op && op ≤ 0x4B
/-- Types of 32 or 64 bits among the integer and raw codes. -/
def tyWide (ty : Nat) : Bool := ty == 2 || ty == 3 || ty == 6 || ty == 7 || ty == 8 || ty == 9
/-- R86: an assigned RMODE. -/
def rmLegal (low : Nat) : Bool := low == 0 || 4 ≤ low
/-- R85 to R92: FN is legal for the opcode, the length and, for an atomic, the AOP. -/
def fnLegal (op len fn aop : Nat) : Bool :=
  let ty := fn / 8
  let low := fn % 8
  let sat := fn / 4 % 2
  let var := fn % 4
  let raw := ty == 8 || ty == 9
  let int4 := ty == 2 || ty == 3 || ty == 6 || ty == 7
  let flt := 10 ≤ ty && ty ≤ 13
  if op ≤ 0x08 || op = 0x0B then fn == 0
  else if op = 0x09 || op = 0x0A then ty == 0
  else if op = 0x10 || op = 0x11 || op = 0x20 || op = 0x22 then decide (ty < 8) && var == 0
  else if op = 0x12 || op = 0x13 then decide (ty < 8) && low == 0
  else if op = 0x14 || op = 0x15 then decide (ty < 4) && var == 0
  else if (0x16 ≤ op && op ≤ 0x1A) || (0x25 ≤ op && op ≤ 0x29) then raw && low == 0
  else if op = 0x1B then var == 0 && (if sat == 0 then tyWide ty else int4)
  else if op = 0x1C || op = 0x1E then tyWide ty && low == 0
  else if op = 0x1D then (ty == 2 || ty == 3) && low == 0
  else if op = 0x1F || op = 0x2B || op = 0x24 then raw && low == 0
  else if op = 0x21 || op = 0x23 then int4 && low == 0
  else if op = 0x2A then decide (ty < 10) && decide (low < 6) && (decide (ty < 8) || decide (low < 2))
  else if op = 0x2C then low == 0 && ((ty == 8 && len == 1) || ty == 9)
  else if 0x30 ≤ op && op ≤ 0x32 then decide (fn < 4)
  else if op = 0x33 || op = 0x34 then fn == 0
  else if op = 0x35 || op = 0x36 then decide (fn < 3)
  else if op = 0x40 then decide (fn < 3)
  else if op = 0x41 || op = 0x44 then fn == 0
  else if op = 0x42 then raw && sat == 0
  else if op = 0x43 then (int4 && decide (low ≤ 2)) || (raw && 3 ≤ low && low ≤ 5) || (flt && low != 3)
  else if 0x45 ≤ op && op ≤ 0x4B then raw && low == 0
  else if op = 0x50 || op = 0x52 || op = 0x53 then decide (10 ≤ ty) && rmLegal low
  else if op = 0x51 then flt && rmLegal low
  else if op = 0x54 || op = 0x55 || op = 0x59 || op = 0x5A then flt && low == 0
  else if op = 0x56 || op = 0x57 || (0x60 ≤ op && op ≤ 0x67) then (ty == 12 || ty == 13) && rmLegal low
  else if op = 0x58 then flt
  else if 0x70 ≤ op && op ≤ 0x77 then decide (ty < 8) && var == 0
  else if 0x80 ≤ op && op ≤ 0x8D then
    (decide (ty < 8) || flt) && rmLegal low && !(decide (ty < 8) && decide (op % 16 < 8)) && ty != op % 16
  else if 0x90 ≤ op && op ≤ 0x99 then decide (ty < 10) && (low == 0 || ((low == 1 || low == 2) && tyWide ty))
  else if op = 0x9A || op = 0x9B then raw && low == 0
  else if op = 0x9C then decide (fn < 2)
  else if op = 0x9D then 1 ≤ fn && fn ≤ 3
  else if op = 0x9E then fn == 0
  else if 0xA0 ≤ op && op ≤ 0xA3 then
    tyWide ty && low == 0 && !(raw && (decide (aop ≤ 2) || aop == 8 || aop == 9))
  else fn == 0
/-- R64, R90: the bits of the extension an opcode may set (formats M and W). -/
def extMask (op : Nat) : Quad :=
  if op = 0x01 || op = 0x2C then 0xFFFFFFFFFFFFFFFF
  else if 0xA0 ≤ op && op ≤ 0xA3 then 0xFFFFFFFFFFF800FF
  else if 0x90 ≤ op && op ≤ 0xA6 then 0xFFFFFFFFFFF80000
  else if op = 0xB0 || op = 0xB5 then 3
  else if op = 0xB2 || op = 0xB3 then 0x3FFFFFFFFFFFF
  else if op = 0xC0 || op = 0xC1 then 0xFFF
  else if op = 0xC2 || op = 0xC4 then 0xFFFF
  else if op = 0xC3 then 0xFFFFFFFF
  else if op = 0xC6 || op = 0xC7 then 7
  else if op = 0xC8 then 1
  else if op = 0xE2 then 0x1F
  else 0

/-! ### Raw word to instruction -/

/-- Which of the fields D, A, B, C hold a predicate number (R57, R104, R105, R108, R124, R133, R134, R210, R214). -/
def predFields (op : Nat) (ext : Quad) : Bool × Bool × Bool × Bool :=
  if op = 0x2A || op = 0x58 || op = 0x44 then (true, false, false, false)
  else if op = 0x2B || op = 0x59 then (false, false, false, true)
  else if 0x30 ≤ op && op ≤ 0x32 then (true, true, true, false)
  else if op = 0x33 || op = 0x34 || op = 0x40 then (true, true, false, false)
  else if op = 0x41 || op = 0xC3 then (false, true, false, false)
  else if op = 0xC6 then (false, ext.extractLsb' 0 3 == 4, false, false)
  else if op = 0xC7 then (ext.extractLsb' 0 3 == 4, false, false, false)
  else (false, false, false, false)
/-- Whether format I of the opcode carries an immediate that is read (not `nop`, R55). -/
def Raw.immOf (r : Raw) : Option Word :=
  if r.len = 1 ∧ r.op ≠ 1 then some (r.ext.setWidth 32) else none
/-- The common fields of a raw word; none where a specifier or the guard is reserved (cause 0x03). -/
def Raw.fields (r : Raw) : Option Fields :=
  let p := predFields r.op.toNat r.ext
  match Guard.ofCode r.gp r.gn, Opd.ofCode p.1 r.d, Opd.ofCode p.2.1 r.a, Opd.ofCode p.2.2.1 r.b, Opd.ofCode p.2.2.2 r.c with
  | some g, some d, some a, some b, some c => some ⟨g, r.e, d, a, b, c, r.immOf⟩
  | _, _, _, _, _ => none
/-- R63: the extension of format M. -/
def memExt (x : Quad) : MemExt := ⟨x.extractLsb' 24 40, x.extractLsb' 21 3, MemOrd.ofCode (x.extractLsb' 19 2)⟩
def MemExt.bits (m : MemExt) (xf : BitVec 8) : Quad := m.disp ++ m.scale ++ m.ord.code ++ (0 : BitVec 11) ++ xf
/-- R191: the extension of `tld` and `tst`. -/
def tileExt (space : TSpace) (stride : BitVec 16) (disp : BitVec 32) : Quad :=
  (0 : BitVec 14) ++ stride ++ space.code ++ disp

/-- R81 to R91: the instruction of an opcode, once its length and FN are legal; none where the extension holds a
reserved value (cause 0x03). -/
def Raw.instr (r : Raw) (f : Fields) : Option Instr :=
  let t := Ty.ofCode (r.fn.extractLsb' 3 4)
  let sat := r.fn.getLsbD 2
  let low := r.fn.extractLsb' 0 3
  let var := r.fn.extractLsb' 0 2
  if 0x70 ≤ r.op.toNat ∧ r.op.toNat ≤ 0x77 then some (.cvt t (Ty.ofCode (r.op.setWidth 4)) sat f)
  else if 0x80 ≤ r.op.toNat ∧ r.op.toNat ≤ 0x8D then some (.fcvt t (Ty.ofCode (r.op.setWidth 4)) (RMode.ofCode low) f)
  else match r.op.toNat with
  | 0x01 => some (if r.len = 0 then .nopN f else if r.len = 1 then .nopI f else .nopW f)
  | 0x02 => some (.bra f)
  | 0x03 => some (.bri f)
  | 0x04 => some (.call f)
  | 0x05 => some (.calli f)
  | 0x06 => some (.ret f)
  | 0x07 => some (.exit f)
  | 0x08 => some (.park f)
  | 0x09 => some (.jset low f)
  | 0x0A => some (.jwait low f)
  | 0x0B => some (.mig f)
  | 0x10 => some (.add t sat f)
  | 0x11 => some (.sub t sat f)
  | 0x12 => some (.min t sat f)
  | 0x13 => some (.max t sat f)
  | 0x14 => some (.abs t sat f)
  | 0x15 => some (.neg t sat f)
  | 0x16 => some (.and t sat f)
  | 0x17 => some (.or t sat f)
  | 0x18 => some (.xor t sat f)
  | 0x19 => some (.andn t sat f)
  | 0x1A => some (.not t sat f)
  | 0x1B => some (.shl t sat f)
  | 0x1C => some (.shr t sat f)
  | 0x1D => some (.sar t sat f)
  | 0x1E => some (.rot t sat f)
  | 0x1F => some (.mov t sat f)
  | 0x20 => some (.mul t sat f)
  | 0x21 => some (.mulh t sat f)
  | 0x22 => some (.mad t sat f)
  | 0x23 => some (.bfx t sat f)
  | 0x24 => some (.bfi t sat f)
  | 0x25 => some (.popc t sat f)
  | 0x26 => some (.clz t sat f)
  | 0x27 => some (.ctz t sat f)
  | 0x28 => some (.fnth t sat f)
  | 0x29 => some (.brev t sat f)
  | 0x2A => some (.cmp t (Cond.ofCode low) f)
  | 0x2B => some (.sel t f)
  | 0x2C => some (if r.len = 2 then .moviB64W r.ext f else if t = .b32 then .moviB32 f else .moviB64I f)
  | 0x30 => some (.pand (r.fn.getLsbD 0) (r.fn.getLsbD 1) f)
  | 0x31 => some (.por (r.fn.getLsbD 0) (r.fn.getLsbD 1) f)
  | 0x32 => some (.pxor (r.fn.getLsbD 0) (r.fn.getLsbD 1) f)
  | 0x33 => some (.pnot f)
  | 0x34 => some (.pmov f)
  | 0x35 => some (.ppack var f)
  | 0x36 => some (.punpack var f)
  | 0x40 => some (if var = 0 then .voteAll f else if var = 1 then .voteAny f else .voteUni f)
  | 0x41 => some (.ballot f)
  | 0x42 => some (.shfl t (ShflMode.ofCode var) f)
  | 0x43 => some (.redux t low f)
  | 0x44 => some (.elect f)
  | 0x45 => some (.lmov t f)
  | 0x46 => some (.zip2 t f)
  | 0x47 => some (.zip3 t f)
  | 0x48 => some (.zip4 t f)
  | 0x49 => some (.unzip2 t f)
  | 0x4A => some (.unzip3 t f)
  | 0x4B => some (.unzip4 t f)
  | 0x50 => some (.fadd t (RMode.ofCode low) f)
  | 0x51 => some (.fsub t (RMode.ofCode low) f)
  | 0x52 => some (.fmul t (RMode.ofCode low) f)
  | 0x53 => some (.fma t (RMode.ofCode low) f)
  | 0x54 => some (.fmin t f)
  | 0x55 => some (.fmax t f)
  | 0x56 => some (.fdiv t (RMode.ofCode low) f)
  | 0x57 => some (.fsqrt t (RMode.ofCode low) f)
  | 0x58 => some (.fcmp t (Cond.ofCode low) f)
  | 0x59 => some (.fsel t f)
  | 0x5A => some (.fclass t f)
  | 0x60 => some (.frcp t (RMode.ofCode low) f)
  | 0x61 => some (.frsq t (RMode.ofCode low) f)
  | 0x62 => some (.fexp2 t (RMode.ofCode low) f)
  | 0x63 => some (.flog2 t (RMode.ofCode low) f)
  | 0x64 => some (.fscale t (RMode.ofCode low) f)
  | 0x65 => some (.frnd t (RMode.ofCode low) f)
  | 0x66 => some (.fsin t (RMode.ofCode low) f)
  | 0x67 => some (.fcos t (RMode.ofCode low) f)
  | 0x90 => some (.ldp t (Vec.ofCode low) (memExt r.ext) f)
  | 0x91 => some (.stp t (Vec.ofCode low) (memExt r.ext) f)
  | 0x92 => some (.lds t (Vec.ofCode low) (memExt r.ext) f)
  | 0x93 => some (.sts t (Vec.ofCode low) (memExt r.ext) f)
  | 0x94 => some (.ldv t (Vec.ofCode low) (memExt r.ext) f)
  | 0x95 => some (.stv t (Vec.ofCode low) (memExt r.ext) f)
  | 0x96 => some (.ldg t (Vec.ofCode low) (memExt r.ext) f)
  | 0x97 => some (.stg t (Vec.ofCode low) (memExt r.ext) f)
  | 0x98 => some (.ldf t (Vec.ofCode low) (memExt r.ext) f)
  | 0x99 => some (.stf t (Vec.ofCode low) (memExt r.ext) f)
  | 0x9A => some (.ldd t (memExt r.ext) f)
  | 0x9B => some (.std t (memExt r.ext) f)
  | 0x9C => some (if low = 0 then .pfg (memExt r.ext) f else .pfgLlc (memExt r.ext) f)
  | 0x9D => some (if low = 1 then .fenceAcq f else if low = 2 then .fenceRel f else .fenceAr f)
  | 0x9E => some (.bar f)
  | 0xA0 => if (r.ext.extractLsb' 0 8).toNat < 10 then some (.atms t (AOp.ofCode (r.ext.extractLsb' 0 8)) (memExt r.ext) f) else none
  | 0xA1 => if (r.ext.extractLsb' 0 8).toNat < 10 then some (.atmv t (AOp.ofCode (r.ext.extractLsb' 0 8)) (memExt r.ext) f) else none
  | 0xA2 => if (r.ext.extractLsb' 0 8).toNat < 10 then some (.atmg t (AOp.ofCode (r.ext.extractLsb' 0 8)) (memExt r.ext) f) else none
  | 0xA3 => if (r.ext.extractLsb' 0 8).toNat < 10 then some (.atmf t (AOp.ofCode (r.ext.extractLsb' 0 8)) (memExt r.ext) f) else none
  | 0xA4 => some (.swinit (memExt r.ext) f)
  | 0xA5 => some (.swarrive (memExt r.ext) f)
  | 0xA6 => some (.swait (memExt r.ext) f)
  | 0xB0 => some (.cpy (r.ext.setWidth 2) f)
  | 0xB1 => some (.cpyq f)
  | 0xB2 => if r.ext.extractLsb' 32 2 = 3 then none else some (.tld (TSpace.ofCode (r.ext.extractLsb' 32 2)) (r.ext.extractLsb' 34 16) (r.ext.setWidth 32) f)
  | 0xB3 => if r.ext.extractLsb' 32 2 = 3 then none else some (.tst (TSpace.ofCode (r.ext.extractLsb' 32 2)) (r.ext.extractLsb' 34 16) (r.ext.setWidth 32) f)
  | 0xB4 => some (.tzero f)
  | 0xB5 => some (.mmx (r.ext.setWidth 2) f)
  | 0xB6 => some (.mmq f)
  | 0xC0 => some (.csrr (r.ext.setWidth 12) f)
  | 0xC1 => some (.csrw (r.ext.setWidth 12) f)
  | 0xC2 => some (.trap (r.ext.setWidth 16) f)
  | 0xC3 => some (.assert (r.ext.setWidth 32) f)
  | 0xC4 => some (.brk (r.ext.setWidth 16) f)
  | 0xC5 => some (.rte f)
  | 0xC6 => some (.lrd (r.ext.setWidth 3) f)
  | 0xC7 => some (.lwr (r.ext.setWidth 3) f)
  | 0xC8 => some (if r.ext.getLsbD 0 then .timeOrd f else .time f)
  | 0xC9 => some (.cstep f)
  | 0xE0 => some (.vgat f)
  | 0xE1 => some (.dmov f)
  | 0xE2 => some (.lcpy (r.ext.setWidth 5) f)
  | _ => none

/-- The raw word of an instruction from its opcode, FN, extension and length. -/
def mkRaw (len : BitVec 2) (op : BitVec 8) (fn : BitVec 7) (ext : Quad) (f : Fields) : Raw :=
  { len := len, op := op, gp := f.g.code.1, gn := f.g.code.2, d := f.d.code, a := f.a.code, b := f.b.code, c := f.c.code
    e := f.e, fn := fn
    ext := if len = 1 then (match f.imm with | some x => x.setWidth 64 | none => 0) else ext }
/-- Formats N and I: LEN is 01 when the instruction carries an immediate. -/
def niLen (f : Fields) : BitVec 2 := if f.imm.isSome then 1 else 0
/-- The encoding tables of R81 to R91, the other way: the raw word of an Arben instruction of one header, none for the
pair word, the Sorrel bytecodes and the events. -/
def Instr.raw : Instr → Option Raw
  | .nopN f => some (mkRaw 0 0x01 0 0 f)
  | .nopI f => some (mkRaw 1 0x01 0 0 f)
  | .nopW f => some (mkRaw 2 0x01 0 0 f)
  | .pairWord _ _ => none
  | .bra f => some (mkRaw 1 0x02 0 0 f)
  | .bri f => some (mkRaw 0 0x03 0 0 f)
  | .call f => some (mkRaw 1 0x04 0 0 f)
  | .calli f => some (mkRaw 0 0x05 0 0 f)
  | .ret f => some (mkRaw 0 0x06 0 0 f)
  | .exit f => some (mkRaw 0 0x07 0 0 f)
  | .park f => some (mkRaw 0 0x08 0 0 f)
  | .jset j f => some (mkRaw 0 0x09 ((0 : BitVec 4) ++ j) 0 f)
  | .jwait j f => some (mkRaw 0 0x0A ((0 : BitVec 4) ++ j) 0 f)
  | .mig f => some (mkRaw 0 0x0B 0 0 f)
  | .migCommit _ _ => none
  | .add t sat f => some (mkRaw (niLen f) 0x10 (fnT t sat 0) 0 f)
  | .sub t sat f => some (mkRaw (niLen f) 0x11 (fnT t sat 0) 0 f)
  | .min t sat f => some (mkRaw (niLen f) 0x12 (fnT t sat 0) 0 f)
  | .max t sat f => some (mkRaw (niLen f) 0x13 (fnT t sat 0) 0 f)
  | .abs t sat f => some (mkRaw (niLen f) 0x14 (fnT t sat 0) 0 f)
  | .neg t sat f => some (mkRaw (niLen f) 0x15 (fnT t sat 0) 0 f)
  | .and t sat f => some (mkRaw (niLen f) 0x16 (fnT t sat 0) 0 f)
  | .or t sat f => some (mkRaw (niLen f) 0x17 (fnT t sat 0) 0 f)
  | .xor t sat f => some (mkRaw (niLen f) 0x18 (fnT t sat 0) 0 f)
  | .andn t sat f => some (mkRaw (niLen f) 0x19 (fnT t sat 0) 0 f)
  | .not t sat f => some (mkRaw (niLen f) 0x1A (fnT t sat 0) 0 f)
  | .shl t sat f => some (mkRaw (niLen f) 0x1B (fnT t sat 0) 0 f)
  | .shr t sat f => some (mkRaw (niLen f) 0x1C (fnT t sat 0) 0 f)
  | .sar t sat f => some (mkRaw (niLen f) 0x1D (fnT t sat 0) 0 f)
  | .rot t sat f => some (mkRaw (niLen f) 0x1E (fnT t sat 0) 0 f)
  | .mov t sat f => some (mkRaw (niLen f) 0x1F (fnT t sat 0) 0 f)
  | .mul t sat f => some (mkRaw (niLen f) 0x20 (fnT t sat 0) 0 f)
  | .mulh t sat f => some (mkRaw (niLen f) 0x21 (fnT t sat 0) 0 f)
  | .mad t sat f => some (mkRaw (niLen f) 0x22 (fnT t sat 0) 0 f)
  | .bfx t sat f => some (mkRaw (niLen f) 0x23 (fnT t sat 0) 0 f)
  | .bfi t sat f => some (mkRaw (niLen f) 0x24 (fnT t sat 0) 0 f)
  | .popc t sat f => some (mkRaw (niLen f) 0x25 (fnT t sat 0) 0 f)
  | .clz t sat f => some (mkRaw (niLen f) 0x26 (fnT t sat 0) 0 f)
  | .ctz t sat f => some (mkRaw (niLen f) 0x27 (fnT t sat 0) 0 f)
  | .fnth t sat f => some (mkRaw (niLen f) 0x28 (fnT t sat 0) 0 f)
  | .brev t sat f => some (mkRaw (niLen f) 0x29 (fnT t sat 0) 0 f)
  | .cmp t c f => some (mkRaw (niLen f) 0x2A (fnX t c.code) 0 f)
  | .sel t f => some (mkRaw (niLen f) 0x2B (fnT t false 0) 0 f)
  | .moviB32 f => some (mkRaw 1 0x2C 0x40 0 f)
  | .moviB64I f => some (mkRaw 1 0x2C 0x48 0 f)
  | .moviB64W x f => some (mkRaw 2 0x2C 0x48 x f)
  | .pand na nb f => some (mkRaw 0 0x30 ((0 : BitVec 5) ++ BitVec.ofBool nb ++ BitVec.ofBool na) 0 f)
  | .por na nb f => some (mkRaw 0 0x31 ((0 : BitVec 5) ++ BitVec.ofBool nb ++ BitVec.ofBool na) 0 f)
  | .pxor na nb f => some (mkRaw 0 0x32 ((0 : BitVec 5) ++ BitVec.ofBool nb ++ BitVec.ofBool na) 0 f)
  | .pnot f => some (mkRaw 0 0x33 0 0 f)
  | .pmov f => some (mkRaw 0 0x34 0 0 f)
  | .ppack grp f => some (mkRaw 0 0x35 ((0 : BitVec 5) ++ grp) 0 f)
  | .punpack grp f => some (mkRaw 0 0x36 ((0 : BitVec 5) ++ grp) 0 f)
  | .voteAll f => some (mkRaw 0 0x40 0 0 f)
  | .voteAny f => some (mkRaw 0 0x40 1 0 f)
  | .voteUni f => some (mkRaw 0 0x40 2 0 f)
  | .ballot f => some (mkRaw 0 0x41 0 0 f)
  | .shfl t mode f => some (mkRaw (niLen f) 0x42 (fnT t false mode.code) 0 f)
  | .redux t rop f => some (mkRaw 0 0x43 (fnX t rop) 0 f)
  | .elect f => some (mkRaw 0 0x44 0 0 f)
  | .lmov t f => some (mkRaw 0 0x45 (fnT t false 0) 0 f)
  | .zip2 t f => some (mkRaw 0 0x46 (fnT t false 0) 0 f)
  | .zip3 t f => some (mkRaw 0 0x47 (fnT t false 0) 0 f)
  | .zip4 t f => some (mkRaw 0 0x48 (fnT t false 0) 0 f)
  | .unzip2 t f => some (mkRaw 0 0x49 (fnT t false 0) 0 f)
  | .unzip3 t f => some (mkRaw 0 0x4A (fnT t false 0) 0 f)
  | .unzip4 t f => some (mkRaw 0 0x4B (fnT t false 0) 0 f)
  | .fadd t rm f => some (mkRaw (niLen f) 0x50 (fnX t rm.code) 0 f)
  | .fsub t rm f => some (mkRaw (niLen f) 0x51 (fnX t rm.code) 0 f)
  | .fmul t rm f => some (mkRaw (niLen f) 0x52 (fnX t rm.code) 0 f)
  | .fma t rm f => some (mkRaw (niLen f) 0x53 (fnX t rm.code) 0 f)
  | .fmin t f => some (mkRaw (niLen f) 0x54 (fnX t 0) 0 f)
  | .fmax t f => some (mkRaw (niLen f) 0x55 (fnX t 0) 0 f)
  | .fdiv t rm f => some (mkRaw (niLen f) 0x56 (fnX t rm.code) 0 f)
  | .fsqrt t rm f => some (mkRaw (niLen f) 0x57 (fnX t rm.code) 0 f)
  | .fcmp t c f => some (mkRaw (niLen f) 0x58 (fnX t c.code) 0 f)
  | .fsel t f => some (mkRaw (niLen f) 0x59 (fnX t 0) 0 f)
  | .fclass t f => some (mkRaw (niLen f) 0x5A (fnX t 0) 0 f)
  | .frcp t rm f => some (mkRaw (niLen f) 0x60 (fnX t rm.code) 0 f)
  | .frsq t rm f => some (mkRaw (niLen f) 0x61 (fnX t rm.code) 0 f)
  | .fexp2 t rm f => some (mkRaw (niLen f) 0x62 (fnX t rm.code) 0 f)
  | .flog2 t rm f => some (mkRaw (niLen f) 0x63 (fnX t rm.code) 0 f)
  | .fscale t rm f => some (mkRaw (niLen f) 0x64 (fnX t rm.code) 0 f)
  | .frnd t rm f => some (mkRaw (niLen f) 0x65 (fnX t rm.code) 0 f)
  | .fsin t rm f => some (mkRaw (niLen f) 0x66 (fnX t rm.code) 0 f)
  | .fcos t rm f => some (mkRaw (niLen f) 0x67 (fnX t rm.code) 0 f)
  | .cvt td ts sat f => some (mkRaw 0 (0x70#8 + ts.code.setWidth 8) (fnT td sat 0) 0 f)
  | .fcvt td ts rm f => some (mkRaw 0 (0x80#8 + ts.code.setWidth 8) (fnX td rm.code) 0 f)
  | .linkDigitDelivery _ _ _ => none
  | .ldp t vec m f => some (mkRaw 2 0x90 (fnX t vec.code) (m.bits 0) f)
  | .stp t vec m f => some (mkRaw 2 0x91 (fnX t vec.code) (m.bits 0) f)
  | .lds t vec m f => some (mkRaw 2 0x92 (fnX t vec.code) (m.bits 0) f)
  | .sts t vec m f => some (mkRaw 2 0x93 (fnX t vec.code) (m.bits 0) f)
  | .ldv t vec m f => some (mkRaw 2 0x94 (fnX t vec.code) (m.bits 0) f)
  | .stv t vec m f => some (mkRaw 2 0x95 (fnX t vec.code) (m.bits 0) f)
  | .ldg t vec m f => some (mkRaw 2 0x96 (fnX t vec.code) (m.bits 0) f)
  | .stg t vec m f => some (mkRaw 2 0x97 (fnX t vec.code) (m.bits 0) f)
  | .ldf t vec m f => some (mkRaw 2 0x98 (fnX t vec.code) (m.bits 0) f)
  | .stf t vec m f => some (mkRaw 2 0x99 (fnX t vec.code) (m.bits 0) f)
  | .ldd t m f => some (mkRaw 2 0x9A (fnX t 0) (m.bits 0) f)
  | .std t m f => some (mkRaw 2 0x9B (fnX t 0) (m.bits 0) f)
  | .pfg m f => some (mkRaw 2 0x9C 0 (m.bits 0) f)
  | .pfgLlc m f => some (mkRaw 2 0x9C 1 (m.bits 0) f)
  | .fenceAcq f => some (mkRaw 0 0x9D 1 0 f)
  | .fenceRel f => some (mkRaw 0 0x9D 2 0 f)
  | .fenceAr f => some (mkRaw 0 0x9D 3 0 f)
  | .bar f => some (mkRaw 0 0x9E 0 0 f)
  | .memoryReturn _ => none
  | .atms t op m f => some (mkRaw 2 0xA0 (fnX t 0) (m.bits op.code) f)
  | .atmv t op m f => some (mkRaw 2 0xA1 (fnX t 0) (m.bits op.code) f)
  | .atmg t op m f => some (mkRaw 2 0xA2 (fnX t 0) (m.bits op.code) f)
  | .atmf t op m f => some (mkRaw 2 0xA3 (fnX t 0) (m.bits op.code) f)
  | .swinit m f => some (mkRaw 2 0xA4 0 (m.bits 0) f)
  | .swarrive m f => some (mkRaw 2 0xA5 0 (m.bits 0) f)
  | .swait m f => some (mkRaw 2 0xA6 0 (m.bits 0) f)
  | .cpy qpri f => some (mkRaw 2 0xB0 0 (qpri.setWidth 64) f)
  | .copyGranule _ _ => none
  | .cpyq f => some (mkRaw 2 0xB1 0 0 f)
  | .tld space stride disp f => some (mkRaw 2 0xB2 0 (tileExt space stride disp) f)
  | .tileLoadComplete _ _ => none
  | .tst space stride disp f => some (mkRaw 2 0xB3 0 (tileExt space stride disp) f)
  | .tileStoreReadDone _ _ => none
  | .tzero f => some (mkRaw 0 0xB4 0 0 f)
  | .mmx mpri f => some (mkRaw 2 0xB5 0 (mpri.setWidth 64) f)
  | .matrixPassGrant _ => none
  | .matrixPassEnd _ => none
  | .mmq f => some (mkRaw 2 0xB6 0 0 f)
  | .csrr num f => some (mkRaw 2 0xC0 0 (num.setWidth 64) f)
  | .csrw num f => some (mkRaw 2 0xC1 0 (num.setWidth 64) f)
  | .trap code f => some (mkRaw 2 0xC2 0 (code.setWidth 64) f)
  | .assert msg f => some (mkRaw 2 0xC3 0 (msg.setWidth 64) f)
  | .brk code f => some (mkRaw 2 0xC4 0 (code.setWidth 64) f)
  | .rte f => some (mkRaw 2 0xC5 0 0 f)
  | .lrd kind f => some (mkRaw 2 0xC6 0 (kind.setWidth 64) f)
  | .lwr kind f => some (mkRaw 2 0xC7 0 (kind.setWidth 64) f)
  | .time f => some (mkRaw 2 0xC8 0 0 f)
  | .timeOrd f => some (mkRaw 2 0xC8 0 1 f)
  | .cstep f => some (mkRaw 2 0xC9 0 0 f)
  | .vgat f => some (mkRaw 2 0xE0 0 0 f)
  | .dmov f => some (mkRaw 2 0xE1 0 0 f)
  | .lcpy n f => some (mkRaw 2 0xE2 0 (n.setWidth 64) f)
  | .microStep _ _ => none
  | .illegalInstruction _ _ => none
  | .poolCycle _ => none
  | .laneRefill _ _ _ => none
  | .idleHandoff _ _ _ => none
  | .pageWalk _ _ _ _ => none
  | .pageRequest _ _ _ => none
  | .prgResponse _ _ => none
  | .atsInvalidateRequest _ _ _ => none
  | .invalidateRange _ _ _ => none
  | .invalidateContext _ => none
  | .invalidateAll => none
  | .invalidationComplete => none
  | .migrationGo _ => none
  | .migrationLineCopy _ => none
  | .migrationEnd _ => none
  | .mcCommit _ _ => none
  | .channelSlot _ _ => none
  | .stopSaveContext _ _ => none
  | .stopSaveCrew _ _ _ => none
  | .stopInPlace _ _ => none
  | .resumeInPlace _ => none
  | .stopComplete _ => none
  | .debugHalt _ => none
  | .debugResume _ => none
  | .discardPendingTraps _ => none
  | .dumpRequest _ => none
  | .ckptEnable _ => none
  | .ckptCut _ => none
  | .ckptFull _ => none
  | .timerTrigger _ => none
  | .intervalCut _ => none
  | .protectedUnitWrite _ _ => none
  | .shardStream _ => none
  | .indexWaitTimeout _ => none
  | .intervalSeal _ => none
  | .costUpdate => none
  | .restore _ => none
  | .gangSwitchOut => none
  | .gangInstant => none
  | .sweepSealed => none
  | .gangClose => none
  | .gangSwitchIn => none
  | .fabricLoadRequest _ _ => none
  | .fabricStoreRequest _ _ => none
  | .fabricAtomicRequest _ _ => none
  | .fabricReply _ _ => none
  | .fabricNegativeReply _ _ => none
  | .ready _ _ => none
  | .notready _ _ => none
  | .timeExchange => none
  | .fabDomainWrite _ _ => none
  | .portTraining _ _ => none
  | .ueDirtyLlcLine _ _ _ _ => none
  | .ueCleanLlcLine _ _ _ _ => none
  | .ueDramGranule _ _ => none
  | .ueVaultLine _ _ => none
  | .ueCrewState _ _ => none
  | .rollback _ => none
  | .scrubGranule _ => none
  | .coreSpareMap _ _ _ _ => none
  | .dieFence _ => none
  | .stackFenceGo _ => none
  | .stackFenceEnd => none
  | .doorbell _ _ => none
  | .queueEnable _ _ => none
  | .queueExamination => none
  | .sorrelEnd => none
  | .sorrelLi _ _ => none
  | .sorrelPkw _ _ => none
  | .sorrelLdw _ _ _ _ => none
  | .sorrelStw _ _ _ _ => none
  | .sorrelAdd _ _ _ => none
  | .sorrelAddk _ _ => none
  | .sorrelAndi _ _ _ => none
  | .sorrelShr _ _ _ => none
  | .sorrelBz _ _ => none
  | .sorrelBnz _ _ => none
  | .sorrelRep _ _ => none
  | .sorrelCst _ _ => none
  | .sorrelDep _ => none
  | .sorrelCond _ _ _ => none
  | .sorrelEmit _ _ => none
  | .nodeResolve _ => none
  | .bindCommit _ _ _ _ => none
  | .schedStart _ => none
  | .launchComplete _ => none
  | .boot _ _ => none
  | .firmwareImageUpdate _ _ _ => none
  | .bankSwitch _ => none
  | .resetContext _ => none
  | .resetCore _ => none
  | .resetMatrixEngine _ => none
  | .resetCopyEngine _ => none
  | .resetComputeDie _ => none
  | .resetMemoryStack _ => none
  | .resetFabricPort _ => none
  | .resetFabricDie _ => none
  | .resetCommandPath => none
  | .resetManagementComplex => none
  | .resetHostDieFunctions => none
  | .resetPackage => none
  | .watchdogExpiry => none
  | .hostFlr => none
  | .linkErrorLimit _ => none
  | .junctionThrottle _ => none
  | .junctionTrip _ => none
  | .telemetryPeriodic _ => none
  | .registerWrite _ _ _ => none
  | .stackFenceGranuleCopy => none
  | .priStoppedClear => none
  | .atsCompletion _ _ _ => none
  | .contextImageRestore _ _ => none
  | .standbyEntry => none

/-! ### Operand roles: R57 to R59 and each instruction's description -/

/-- What a field may name. `v` is how many consecutive registers a `v` operand stands for (0: none allowed) and
`al` what its index is a multiple of; `sAl` the same for an `s` operand that names several. -/
structure Role where
  used : Bool
  pred : Bool := false
  v : Nat := 0
  al : Nat := 1
  s : Bool := false
  sAl : Nat := 1
  k : Bool := false
  z : Bool := false
  l : Bool := false
  t : Bool := false
  deriving DecidableEq, Repr
/-- R59: an unused field holds `0x1FF`. -/
def Role.none : Role := { used := false }
/-- A predicate number (R57). -/
def Role.predicate : Role := { used := true, pred := true }
/-- A source of n registers: `v`, `s`, small constant or zero. -/
def Role.src (n : Nat) : Role := { used := true, v := n, al := n, s := true, k := true, z := true }
/-- R97: a destination of the integer chapter. -/
def Role.dst (n : Nat) (zero : Bool := true) : Role := { used := true, v := n, al := n, s := true, z := zero }
/-- A `v` destination, or `0x1FF` to discard (R124, R157). -/
def Role.vdst (n : Nat) : Role := { used := true, v := n, al := n, z := true }
/-- R158: the registers of a vector load. -/
def Role.vdstr (n al : Nat) : Role := { used := true, v := n, al := al, z := true }
/-- A `v` register of n, aligned to n, and nothing else (R124, R182, R203). -/
def Role.vreg (n : Nat) : Role := { used := true, v := n, al := n }
/-- A range of n registers (R126, R165, R215, R217). -/
def Role.vrange (n al : Nat) : Role := { used := true, v := n, al := al }
/-- R128, R129: a floating-point source. -/
def Role.fsrc (n : Nat) (link : Bool) : Role := { used := true, v := n, al := n, s := true, k := true, z := true, l := link }
/-- R128, R129: a floating-point destination. -/
def Role.fdst (n : Nat) (link : Bool) : Role := { used := true, v := n, al := n, z := true, l := link }
/-- R112, R114, R120, R215, R216: an even pair or an `s` register. -/
def Role.addr : Role := { used := true, v := 2, al := 2, s := true }
/-- R63: base and index. -/
def Role.base : Role := { used := true, v := 2, al := 2, s := true, z := true }
def Role.index : Role := { used := true, v := 1, s := true, z := true }
/-- R157: store data; an `s` register only for one element. -/
def Role.data (n al : Nat) (s : Bool) : Role := { used := true, v := n, al := al, s := s, k := true, z := true }
/-- R172, R174, R196, R208: a `v` or `s` register or a small constant. -/
def Role.count : Role := { used := true, v := 1, s := true, k := true }
/-- R182, R203: a handle. -/
def Role.handle : Role := { used := true, v := 1, s := true }
/-- A tile. -/
def Role.tile : Role := { used := true, t := true }
/-- R122: the member mask. -/
def Role.mask (sh : Shape) : Role := { used := true, s := true, sAl := if sh.width = 128 then 2 else 1, z := true }
/-- R124, R217: a lane, uniform over the group. -/
def Role.lane : Role := { used := true, s := true, k := true }
def Role.laneNo : Role := { used := true, s := true, k := true }
/-- R204, R207: a `v` register or pair, or an `s` register. -/
def Role.regS (n : Nat) : Role := { used := true, v := n, al := n, s := true }
/-- R214: the `s` registers of one KIND. -/
def Role.sregs (kind : Nat) : Role := { used := true, s := true, sAl := if kind = 2 then 2 else if kind = 3 then 4 else 1 }
/-- R214: the lane register of one KIND. -/
def Role.laneReg (kind : Nat) : Role :=
  if kind = 0 then { used := true, v := 1 } else if kind = 1 then { used := true, v := 2, al := 2 }
  else if kind = 4 then Role.predicate else { used := true, l := true }
/-- The roles of the four fields. -/
structure FieldRoles where
  d : Role
  a : Role
  b : Role
  c : Role
  deriving DecidableEq, Repr
/-- R62, R98: format I puts the immediate in the field's place. -/
def immOr (f : Fields) (r : Role) : Role := if f.imm.isSome then Role.none else r
/-- R205: registers a control register fills: two for 64 bits. -/
def csrRegs (num : Nat) : Nat :=
  if num = 0x019 || num = 0x020 || num = 0x030 || num = 0x031 || (0x041 ≤ num && num ≤ 0x044) then 2 else 1
/-- R205: the number names a control register. -/
def csrExists (num : Nat) : Bool :=
  decide (num ≤ 4) || num == 0x010 || num == 0x011 || num == 0x018 || num == 0x019 || num == 0x020 || num == 0x030
    || num == 0x031 || (0x040 ≤ num && num ≤ 0x044) || (0x100 ≤ num && num ≤ 0x11F)
/-- R205: the register may be written. -/
def csrWritable (num : Nat) : Bool :=
  num == 0x010 || num == 0x011 || num == 0x019 || num == 0x041 || (0x100 ≤ num && num ≤ 0x11F)

/-- The operand kinds each instruction's description states, field by field. A field that is not used is `.none`. `punpack`'s A takes what
any 32-bit source takes (R109, log entry 152), and `ballot`'s D names registers, never `0x1FF` (R124, log entry 153). -/
def roles (sh : Shape) : Instr → FieldRoles
  | .nopN _ => ⟨.none, .none, .none, .none⟩
  | .nopI _ => ⟨.none, .none, .none, .none⟩
  | .nopW _ => ⟨.none, .none, .none, .none⟩
  | .pairWord _ _ => ⟨.none, .none, .none, .none⟩
  | .bra _ => ⟨.none, .none, .none, .none⟩
  | .bri _ => ⟨.none, .addr, .none, .none⟩
  | .call _ => ⟨.none, .none, .none, .none⟩
  | .calli _ => ⟨.none, .addr, .none, .none⟩
  | .ret _ => ⟨.none, .none, .none, .none⟩
  | .exit _ => ⟨.none, .none, .none, .none⟩
  | .park _ => ⟨.none, .none, .none, .none⟩
  | .jset _ _ => ⟨.none, .none, .none, .none⟩
  | .jwait _ _ => ⟨.none, .none, .none, .none⟩
  | .mig _ => ⟨.none, .addr, .none, .none⟩
  | .migCommit _ _ => ⟨.none, .none, .none, .none⟩
  | .add t _ f => ⟨.dst t.regs, .src t.regs, (immOr f (.src t.regs)), .none⟩
  | .sub t _ f => ⟨.dst t.regs, .src t.regs, (immOr f (.src t.regs)), .none⟩
  | .min t _ f => ⟨.dst t.regs, .src t.regs, (immOr f (.src t.regs)), .none⟩
  | .max t _ f => ⟨.dst t.regs, .src t.regs, (immOr f (.src t.regs)), .none⟩
  | .abs t _ f => ⟨.dst t.regs, (immOr f (.src t.regs)), .none, .none⟩
  | .neg t _ f => ⟨.dst t.regs, (immOr f (.src t.regs)), .none, .none⟩
  | .and t _ f => ⟨.dst t.regs, .src t.regs, (immOr f (.src t.regs)), .none⟩
  | .or t _ f => ⟨.dst t.regs, .src t.regs, (immOr f (.src t.regs)), .none⟩
  | .xor t _ f => ⟨.dst t.regs, .src t.regs, (immOr f (.src t.regs)), .none⟩
  | .andn t _ f => ⟨.dst t.regs, .src t.regs, (immOr f (.src t.regs)), .none⟩
  | .not t _ f => ⟨.dst t.regs, (immOr f (.src t.regs)), .none, .none⟩
  | .shl t _ f => ⟨.dst t.regs, .src t.regs, immOr f (.src 1), .none⟩
  | .shr t _ f => ⟨.dst t.regs, .src t.regs, immOr f (.src 1), .none⟩
  | .sar t _ f => ⟨.dst t.regs, .src t.regs, immOr f (.src 1), .none⟩
  | .rot t _ f => ⟨.dst t.regs, .src t.regs, immOr f (.src 1), .none⟩
  | .mov t _ f => ⟨.dst t.regs, (immOr f (.src t.regs)), .none, .none⟩
  | .mul t _ f => ⟨.dst t.regs, .src t.regs, (immOr f (.src t.regs)), .none⟩
  | .mulh t _ f => ⟨.dst t.regs, .src t.regs, (immOr f (.src t.regs)), .none⟩
  | .mad t _ f => ⟨.dst t.regs, .src t.regs, (immOr f (.src t.regs)), .src t.regs⟩
  | .bfx t _ f => ⟨.dst t.regs, .src t.regs, immOr f (.src 1), .none⟩
  | .bfi t _ f => ⟨.dst t.regs, .src t.regs, immOr f (.src 1), .src t.regs⟩
  | .popc t _ f => ⟨.dst 1, (immOr f (.src t.regs)), .none, .none⟩
  | .clz t _ f => ⟨.dst 1, (immOr f (.src t.regs)), .none, .none⟩
  | .ctz t _ f => ⟨.dst 1, (immOr f (.src t.regs)), .none, .none⟩
  | .fnth t _ f => ⟨.dst 1, .src t.regs, immOr f (.src 1), .none⟩
  | .brev t _ f => ⟨.dst t.regs, (immOr f (.src t.regs)), .none, .none⟩
  | .cmp t _ f => ⟨.predicate, .src t.regs, (immOr f (.src t.regs)), .none⟩
  | .sel t f => ⟨.dst t.regs, .src t.regs, (immOr f (.src t.regs)), .predicate⟩
  | .moviB32 _ => ⟨.dst 1, .none, .none, .none⟩
  | .moviB64I _ => ⟨.dst 2, .none, .none, .none⟩
  | .moviB64W _ _ => ⟨.dst 2, .none, .none, .none⟩
  | .pand _ _ _ => ⟨.predicate, .predicate, .predicate, .none⟩
  | .por _ _ _ => ⟨.predicate, .predicate, .predicate, .none⟩
  | .pxor _ _ _ => ⟨.predicate, .predicate, .predicate, .none⟩
  | .pnot _ => ⟨.predicate, .predicate, .none, .none⟩
  | .pmov _ => ⟨.predicate, .predicate, .none, .none⟩
  | .ppack _ _ => ⟨.dst 1 false, .none, .none, .none⟩
  | .punpack _ _ => ⟨.none, .src 1, .none, .none⟩
  | .voteAll _ => ⟨.predicate, .predicate, .none, .mask sh⟩
  | .voteAny _ => ⟨.predicate, .predicate, .none, .mask sh⟩
  | .voteUni _ => ⟨.predicate, .predicate, .none, .mask sh⟩
  | .ballot _ => ⟨.vreg ((sh.width + 31) / 32), .predicate, .none, .mask sh⟩
  | .shfl t _ f => ⟨.vdst t.regs, .src t.regs, immOr f (.src 1), .mask sh⟩
  | .redux t _ _ => ⟨.vdst t.regs, .src t.regs, .none, .mask sh⟩
  | .elect _ => ⟨.predicate, .none, .none, .mask sh⟩
  | .lmov t _ => ⟨.vdst t.regs, .src t.regs, .lane, .mask sh⟩
  | .zip2 t _ => ⟨.vrange (2 * t.regs) t.regs, .vrange (2 * t.regs) t.regs, .none, .mask sh⟩
  | .zip3 t _ => ⟨.vrange (3 * t.regs) t.regs, .vrange (3 * t.regs) t.regs, .none, .mask sh⟩
  | .zip4 t _ => ⟨.vrange (4 * t.regs) t.regs, .vrange (4 * t.regs) t.regs, .none, .mask sh⟩
  | .unzip2 t _ => ⟨.vrange (2 * t.regs) t.regs, .vrange (2 * t.regs) t.regs, .none, .mask sh⟩
  | .unzip3 t _ => ⟨.vrange (3 * t.regs) t.regs, .vrange (3 * t.regs) t.regs, .none, .mask sh⟩
  | .unzip4 t _ => ⟨.vrange (4 * t.regs) t.regs, .vrange (4 * t.regs) t.regs, .none, .mask sh⟩
  | .fadd t _ f => ⟨.fdst t.regs t.linkable, (.fsrc t.regs t.linkable), (immOr f (.fsrc t.regs t.linkable)), .none⟩
  | .fsub t _ f => ⟨.fdst t.regs t.linkable, (.fsrc t.regs t.linkable), (immOr f (.fsrc t.regs t.linkable)), .none⟩
  | .fmul t _ f => ⟨.fdst t.regs t.linkable, (.fsrc t.regs t.linkable), (immOr f (.fsrc t.regs t.linkable)), .none⟩
  | .fma t _ f => ⟨.fdst t.regs t.linkable, (.fsrc t.regs t.linkable), (immOr f (.fsrc t.regs t.linkable)), (.fsrc t.regs t.linkable)⟩
  | .fmin t f => ⟨.fdst t.regs false, (.fsrc t.regs t.linkable), (immOr f (.fsrc t.regs t.linkable)), .none⟩
  | .fmax t f => ⟨.fdst t.regs false, (.fsrc t.regs t.linkable), (immOr f (.fsrc t.regs t.linkable)), .none⟩
  | .fdiv t _ f => ⟨.fdst t.regs t.linkable, (.fsrc t.regs t.linkable), (immOr f (.fsrc t.regs t.linkable)), .none⟩
  | .fsqrt t _ f => ⟨.fdst t.regs t.linkable, (immOr f (.fsrc t.regs t.linkable)), .none, .none⟩
  | .fcmp t _ f => ⟨.predicate, (.fsrc t.regs t.linkable), (immOr f (.fsrc t.regs t.linkable)), .none⟩
  | .fsel t f => ⟨.fdst t.regs false, (.fsrc t.regs t.linkable), (immOr f (.fsrc t.regs t.linkable)), .predicate⟩
  | .fclass t _ => ⟨.fdst 1 false, .fsrc t.regs false, .none, .none⟩
  | .frcp t _ f => ⟨.fdst t.regs false, immOr f (.fsrc t.regs false), .none, .none⟩
  | .frsq t _ f => ⟨.fdst t.regs false, immOr f (.fsrc t.regs false), .none, .none⟩
  | .fexp2 t _ f => ⟨.fdst t.regs false, immOr f (.fsrc t.regs false), .none, .none⟩
  | .flog2 t _ f => ⟨.fdst t.regs false, immOr f (.fsrc t.regs false), .none, .none⟩
  | .fscale t _ f => ⟨.fdst t.regs false, .fsrc t.regs false, immOr f (.src 1), .none⟩
  | .frnd t _ f => ⟨.fdst t.regs false, immOr f (.fsrc t.regs false), .none, .none⟩
  | .fsin t _ f => ⟨.fdst t.regs false, immOr f (.fsrc t.regs false), .none, .none⟩
  | .fcos t _ f => ⟨.fdst t.regs false, immOr f (.fsrc t.regs false), .none, .none⟩
  | .cvt td ts _ _ => ⟨.dst td.regs, .src ts.regs, .none, .none⟩
  | .fcvt td ts _ _ => ⟨.fdst td.regs false, .fsrc ts.regs ts.linkable, .none, .none⟩
  | .linkDigitDelivery _ _ _ => ⟨.none, .none, .none, .none⟩
  | .ldp t vec _ _ => ⟨.vdstr (vec.count * t.regs) t.regs, .base, .index, .none⟩
  | .stp t vec _ _ => ⟨.none, .base, .index, .data (vec.count * t.regs) t.regs (vec == .one)⟩
  | .lds t vec _ _ => ⟨.vdstr (vec.count * t.regs) t.regs, .base, .index, .none⟩
  | .sts t vec _ _ => ⟨.none, .base, .index, .data (vec.count * t.regs) t.regs (vec == .one)⟩
  | .ldv t vec _ _ => ⟨.vdstr (vec.count * t.regs) t.regs, .base, .index, .none⟩
  | .stv t vec _ _ => ⟨.none, .base, .index, .data (vec.count * t.regs) t.regs (vec == .one)⟩
  | .ldg t vec _ _ => ⟨.vdstr (vec.count * t.regs) t.regs, .base, .index, .none⟩
  | .stg t vec _ _ => ⟨.none, .base, .index, .data (vec.count * t.regs) t.regs (vec == .one)⟩
  | .ldf t vec _ _ => ⟨.vdstr (vec.count * t.regs) t.regs, .base, .index, .none⟩
  | .stf t vec _ _ => ⟨.none, .base, .index, .data (vec.count * t.regs) t.regs (vec == .one)⟩
  | .ldd t _ _ => ⟨.vdst t.regs, .base, .index, .none⟩
  | .std t _ _ => ⟨.none, .base, .index, .data t.regs t.regs true⟩
  | .pfg _ _ => ⟨.none, .base, .index, .none⟩
  | .pfgLlc _ _ => ⟨.none, .base, .index, .none⟩
  | .fenceAcq _ => ⟨.none, .none, .none, .none⟩
  | .fenceRel _ => ⟨.none, .none, .none, .none⟩
  | .fenceAr _ => ⟨.none, .none, .none, .none⟩
  | .bar _ => ⟨.none, .none, .none, .none⟩
  | .memoryReturn _ => ⟨.none, .none, .none, .none⟩
  | .atms t op _ _ => ⟨.vdst t.regs, .base, .index, if op = .cas then .vrange (2 * t.regs) t.regs else .src t.regs⟩
  | .atmv t op _ _ => ⟨.vdst t.regs, .base, .index, if op = .cas then .vrange (2 * t.regs) t.regs else .src t.regs⟩
  | .atmg t op _ _ => ⟨.vdst t.regs, .base, .index, if op = .cas then .vrange (2 * t.regs) t.regs else .src t.regs⟩
  | .atmf t op _ _ => ⟨.vdst t.regs, .base, .index, if op = .cas then .vrange (2 * t.regs) t.regs else .src t.regs⟩
  | .swinit _ _ => ⟨.none, .base, .index, .count⟩
  | .swarrive _ _ => ⟨.vdst 1, .base, .index, .count⟩
  | .swait _ _ => ⟨.vdst 2, .base, .index, .count⟩
  | .cpy _ _ => ⟨.vdst 1, .count, .none, .none⟩
  | .copyGranule _ _ => ⟨.none, .none, .none, .none⟩
  | .cpyq _ => ⟨.vreg 2, .handle, .none, .none⟩
  | .tld _ _ _ _ => ⟨.tile, .src 2, .none, .none⟩
  | .tileLoadComplete _ _ => ⟨.none, .none, .none, .none⟩
  | .tst _ _ _ _ => ⟨.none, .tile, .src 2, .none⟩
  | .tileStoreReadDone _ _ => ⟨.none, .none, .none, .none⟩
  | .tzero _ => ⟨.tile, .none, .none, .none⟩
  | .mmx _ _ => ⟨.vdst 1, .count, .none, .none⟩
  | .matrixPassGrant _ => ⟨.none, .none, .none, .none⟩
  | .matrixPassEnd _ => ⟨.none, .none, .none, .none⟩
  | .mmq _ => ⟨.vreg 2, .handle, .none, .none⟩
  | .csrr num _ => ⟨.regS (csrRegs num.toNat), .none, .none, .none⟩
  | .csrw num _ => ⟨.none, .src (csrRegs num.toNat), .none, .none⟩
  | .trap _ _ => ⟨.none, .none, .none, .none⟩
  | .assert _ _ => ⟨.none, .predicate, .none, .none⟩
  | .brk _ _ => ⟨.none, .none, .none, .none⟩
  | .rte _ => ⟨.none, .none, .none, .none⟩
  | .lrd kind _ => ⟨.sregs kind.toNat, .laneReg kind.toNat, .laneNo, .none⟩
  | .lwr kind _ => ⟨.laneReg kind.toNat, .sregs kind.toNat, .laneNo, .none⟩
  | .time _ => ⟨.regS 2, .none, .none, .none⟩
  | .timeOrd _ => ⟨.regS 2, .none, .none, .none⟩
  | .cstep _ => ⟨.none, .count, .none, .none⟩
  | .vgat _ => ⟨.vrange 4 1, .addr, .vrange 4 1, .none⟩
  | .dmov _ => ⟨.none, .addr, .addr, .none⟩
  | .lcpy n _ => ⟨.vrange n.toNat 1, .vrange n.toNat 1, .lane, .none⟩
  | .microStep _ _ => ⟨.none, .none, .none, .none⟩
  | .illegalInstruction _ _ => ⟨.none, .none, .none, .none⟩
  | .poolCycle _ => ⟨.none, .none, .none, .none⟩
  | .laneRefill _ _ _ => ⟨.none, .none, .none, .none⟩
  | .idleHandoff _ _ _ => ⟨.none, .none, .none, .none⟩
  | .pageWalk _ _ _ _ => ⟨.none, .none, .none, .none⟩
  | .pageRequest _ _ _ => ⟨.none, .none, .none, .none⟩
  | .prgResponse _ _ => ⟨.none, .none, .none, .none⟩
  | .atsInvalidateRequest _ _ _ => ⟨.none, .none, .none, .none⟩
  | .invalidateRange _ _ _ => ⟨.none, .none, .none, .none⟩
  | .invalidateContext _ => ⟨.none, .none, .none, .none⟩
  | .invalidateAll => ⟨.none, .none, .none, .none⟩
  | .invalidationComplete => ⟨.none, .none, .none, .none⟩
  | .migrationGo _ => ⟨.none, .none, .none, .none⟩
  | .migrationLineCopy _ => ⟨.none, .none, .none, .none⟩
  | .migrationEnd _ => ⟨.none, .none, .none, .none⟩
  | .mcCommit _ _ => ⟨.none, .none, .none, .none⟩
  | .channelSlot _ _ => ⟨.none, .none, .none, .none⟩
  | .stopSaveContext _ _ => ⟨.none, .none, .none, .none⟩
  | .stopSaveCrew _ _ _ => ⟨.none, .none, .none, .none⟩
  | .stopInPlace _ _ => ⟨.none, .none, .none, .none⟩
  | .resumeInPlace _ => ⟨.none, .none, .none, .none⟩
  | .stopComplete _ => ⟨.none, .none, .none, .none⟩
  | .debugHalt _ => ⟨.none, .none, .none, .none⟩
  | .debugResume _ => ⟨.none, .none, .none, .none⟩
  | .discardPendingTraps _ => ⟨.none, .none, .none, .none⟩
  | .dumpRequest _ => ⟨.none, .none, .none, .none⟩
  | .ckptEnable _ => ⟨.none, .none, .none, .none⟩
  | .ckptCut _ => ⟨.none, .none, .none, .none⟩
  | .ckptFull _ => ⟨.none, .none, .none, .none⟩
  | .timerTrigger _ => ⟨.none, .none, .none, .none⟩
  | .intervalCut _ => ⟨.none, .none, .none, .none⟩
  | .protectedUnitWrite _ _ => ⟨.none, .none, .none, .none⟩
  | .shardStream _ => ⟨.none, .none, .none, .none⟩
  | .indexWaitTimeout _ => ⟨.none, .none, .none, .none⟩
  | .intervalSeal _ => ⟨.none, .none, .none, .none⟩
  | .costUpdate => ⟨.none, .none, .none, .none⟩
  | .restore _ => ⟨.none, .none, .none, .none⟩
  | .gangSwitchOut => ⟨.none, .none, .none, .none⟩
  | .gangInstant => ⟨.none, .none, .none, .none⟩
  | .sweepSealed => ⟨.none, .none, .none, .none⟩
  | .gangClose => ⟨.none, .none, .none, .none⟩
  | .gangSwitchIn => ⟨.none, .none, .none, .none⟩
  | .fabricLoadRequest _ _ => ⟨.none, .none, .none, .none⟩
  | .fabricStoreRequest _ _ => ⟨.none, .none, .none, .none⟩
  | .fabricAtomicRequest _ _ => ⟨.none, .none, .none, .none⟩
  | .fabricReply _ _ => ⟨.none, .none, .none, .none⟩
  | .fabricNegativeReply _ _ => ⟨.none, .none, .none, .none⟩
  | .ready _ _ => ⟨.none, .none, .none, .none⟩
  | .notready _ _ => ⟨.none, .none, .none, .none⟩
  | .timeExchange => ⟨.none, .none, .none, .none⟩
  | .fabDomainWrite _ _ => ⟨.none, .none, .none, .none⟩
  | .portTraining _ _ => ⟨.none, .none, .none, .none⟩
  | .ueDirtyLlcLine _ _ _ _ => ⟨.none, .none, .none, .none⟩
  | .ueCleanLlcLine _ _ _ _ => ⟨.none, .none, .none, .none⟩
  | .ueDramGranule _ _ => ⟨.none, .none, .none, .none⟩
  | .ueVaultLine _ _ => ⟨.none, .none, .none, .none⟩
  | .ueCrewState _ _ => ⟨.none, .none, .none, .none⟩
  | .rollback _ => ⟨.none, .none, .none, .none⟩
  | .scrubGranule _ => ⟨.none, .none, .none, .none⟩
  | .coreSpareMap _ _ _ _ => ⟨.none, .none, .none, .none⟩
  | .dieFence _ => ⟨.none, .none, .none, .none⟩
  | .stackFenceGo _ => ⟨.none, .none, .none, .none⟩
  | .stackFenceEnd => ⟨.none, .none, .none, .none⟩
  | .doorbell _ _ => ⟨.none, .none, .none, .none⟩
  | .queueEnable _ _ => ⟨.none, .none, .none, .none⟩
  | .queueExamination => ⟨.none, .none, .none, .none⟩
  | .sorrelEnd => ⟨.none, .none, .none, .none⟩
  | .sorrelLi _ _ => ⟨.none, .none, .none, .none⟩
  | .sorrelPkw _ _ => ⟨.none, .none, .none, .none⟩
  | .sorrelLdw _ _ _ _ => ⟨.none, .none, .none, .none⟩
  | .sorrelStw _ _ _ _ => ⟨.none, .none, .none, .none⟩
  | .sorrelAdd _ _ _ => ⟨.none, .none, .none, .none⟩
  | .sorrelAddk _ _ => ⟨.none, .none, .none, .none⟩
  | .sorrelAndi _ _ _ => ⟨.none, .none, .none, .none⟩
  | .sorrelShr _ _ _ => ⟨.none, .none, .none, .none⟩
  | .sorrelBz _ _ => ⟨.none, .none, .none, .none⟩
  | .sorrelBnz _ _ => ⟨.none, .none, .none, .none⟩
  | .sorrelRep _ _ => ⟨.none, .none, .none, .none⟩
  | .sorrelCst _ _ => ⟨.none, .none, .none, .none⟩
  | .sorrelDep _ => ⟨.none, .none, .none, .none⟩
  | .sorrelCond _ _ _ => ⟨.none, .none, .none, .none⟩
  | .sorrelEmit _ _ => ⟨.none, .none, .none, .none⟩
  | .nodeResolve _ => ⟨.none, .none, .none, .none⟩
  | .bindCommit _ _ _ _ => ⟨.none, .none, .none, .none⟩
  | .schedStart _ => ⟨.none, .none, .none, .none⟩
  | .launchComplete _ => ⟨.none, .none, .none, .none⟩
  | .boot _ _ => ⟨.none, .none, .none, .none⟩
  | .firmwareImageUpdate _ _ _ => ⟨.none, .none, .none, .none⟩
  | .bankSwitch _ => ⟨.none, .none, .none, .none⟩
  | .resetContext _ => ⟨.none, .none, .none, .none⟩
  | .resetCore _ => ⟨.none, .none, .none, .none⟩
  | .resetMatrixEngine _ => ⟨.none, .none, .none, .none⟩
  | .resetCopyEngine _ => ⟨.none, .none, .none, .none⟩
  | .resetComputeDie _ => ⟨.none, .none, .none, .none⟩
  | .resetMemoryStack _ => ⟨.none, .none, .none, .none⟩
  | .resetFabricPort _ => ⟨.none, .none, .none, .none⟩
  | .resetFabricDie _ => ⟨.none, .none, .none, .none⟩
  | .resetCommandPath => ⟨.none, .none, .none, .none⟩
  | .resetManagementComplex => ⟨.none, .none, .none, .none⟩
  | .resetHostDieFunctions => ⟨.none, .none, .none, .none⟩
  | .resetPackage => ⟨.none, .none, .none, .none⟩
  | .watchdogExpiry => ⟨.none, .none, .none, .none⟩
  | .hostFlr => ⟨.none, .none, .none, .none⟩
  | .linkErrorLimit _ => ⟨.none, .none, .none, .none⟩
  | .junctionThrottle _ => ⟨.none, .none, .none, .none⟩
  | .junctionTrip _ => ⟨.none, .none, .none, .none⟩
  | .telemetryPeriodic _ => ⟨.none, .none, .none, .none⟩
  | .registerWrite _ _ _ => ⟨.none, .none, .none, .none⟩
  | .stackFenceGranuleCopy => ⟨.none, .none, .none, .none⟩
  | .priStoppedClear => ⟨.none, .none, .none, .none⟩
  | .atsCompletion _ _ _ => ⟨.none, .none, .none, .none⟩
  | .contextImageRestore _ _ => ⟨.none, .none, .none, .none⟩
  | .standbyEntry => ⟨.none, .none, .none, .none⟩

/-- The common fields of an Arben instruction of one header. -/
def Instr.fields? : Instr → Option Fields
  | .nopN f => some f
  | .nopI f => some f
  | .nopW f => some f
  | .pairWord _ _ => none
  | .bra f => some f
  | .bri f => some f
  | .call f => some f
  | .calli f => some f
  | .ret f => some f
  | .exit f => some f
  | .park f => some f
  | .jset _ f => some f
  | .jwait _ f => some f
  | .mig f => some f
  | .migCommit _ _ => none
  | .add _ _ f => some f
  | .sub _ _ f => some f
  | .min _ _ f => some f
  | .max _ _ f => some f
  | .abs _ _ f => some f
  | .neg _ _ f => some f
  | .and _ _ f => some f
  | .or _ _ f => some f
  | .xor _ _ f => some f
  | .andn _ _ f => some f
  | .not _ _ f => some f
  | .shl _ _ f => some f
  | .shr _ _ f => some f
  | .sar _ _ f => some f
  | .rot _ _ f => some f
  | .mov _ _ f => some f
  | .mul _ _ f => some f
  | .mulh _ _ f => some f
  | .mad _ _ f => some f
  | .bfx _ _ f => some f
  | .bfi _ _ f => some f
  | .popc _ _ f => some f
  | .clz _ _ f => some f
  | .ctz _ _ f => some f
  | .fnth _ _ f => some f
  | .brev _ _ f => some f
  | .cmp _ _ f => some f
  | .sel _ f => some f
  | .moviB32 f => some f
  | .moviB64I f => some f
  | .moviB64W _ f => some f
  | .pand _ _ f => some f
  | .por _ _ f => some f
  | .pxor _ _ f => some f
  | .pnot f => some f
  | .pmov f => some f
  | .ppack _ f => some f
  | .punpack _ f => some f
  | .voteAll f => some f
  | .voteAny f => some f
  | .voteUni f => some f
  | .ballot f => some f
  | .shfl _ _ f => some f
  | .redux _ _ f => some f
  | .elect f => some f
  | .lmov _ f => some f
  | .zip2 _ f => some f
  | .zip3 _ f => some f
  | .zip4 _ f => some f
  | .unzip2 _ f => some f
  | .unzip3 _ f => some f
  | .unzip4 _ f => some f
  | .fadd _ _ f => some f
  | .fsub _ _ f => some f
  | .fmul _ _ f => some f
  | .fma _ _ f => some f
  | .fmin _ f => some f
  | .fmax _ f => some f
  | .fdiv _ _ f => some f
  | .fsqrt _ _ f => some f
  | .fcmp _ _ f => some f
  | .fsel _ f => some f
  | .fclass _ f => some f
  | .frcp _ _ f => some f
  | .frsq _ _ f => some f
  | .fexp2 _ _ f => some f
  | .flog2 _ _ f => some f
  | .fscale _ _ f => some f
  | .frnd _ _ f => some f
  | .fsin _ _ f => some f
  | .fcos _ _ f => some f
  | .cvt _ _ _ f => some f
  | .fcvt _ _ _ f => some f
  | .linkDigitDelivery _ _ _ => none
  | .ldp _ _ _ f => some f
  | .stp _ _ _ f => some f
  | .lds _ _ _ f => some f
  | .sts _ _ _ f => some f
  | .ldv _ _ _ f => some f
  | .stv _ _ _ f => some f
  | .ldg _ _ _ f => some f
  | .stg _ _ _ f => some f
  | .ldf _ _ _ f => some f
  | .stf _ _ _ f => some f
  | .ldd _ _ f => some f
  | .std _ _ f => some f
  | .pfg _ f => some f
  | .pfgLlc _ f => some f
  | .fenceAcq f => some f
  | .fenceRel f => some f
  | .fenceAr f => some f
  | .bar f => some f
  | .memoryReturn _ => none
  | .atms _ _ _ f => some f
  | .atmv _ _ _ f => some f
  | .atmg _ _ _ f => some f
  | .atmf _ _ _ f => some f
  | .swinit _ f => some f
  | .swarrive _ f => some f
  | .swait _ f => some f
  | .cpy _ f => some f
  | .copyGranule _ _ => none
  | .cpyq f => some f
  | .tld _ _ _ f => some f
  | .tileLoadComplete _ _ => none
  | .tst _ _ _ f => some f
  | .tileStoreReadDone _ _ => none
  | .tzero f => some f
  | .mmx _ f => some f
  | .matrixPassGrant _ => none
  | .matrixPassEnd _ => none
  | .mmq f => some f
  | .csrr _ f => some f
  | .csrw _ f => some f
  | .trap _ f => some f
  | .assert _ f => some f
  | .brk _ f => some f
  | .rte f => some f
  | .lrd _ f => some f
  | .lwr _ f => some f
  | .time f => some f
  | .timeOrd f => some f
  | .cstep f => some f
  | .vgat f => some f
  | .dmov f => some f
  | .lcpy _ f => some f
  | .microStep _ _ => none
  | .illegalInstruction _ _ => none
  | .poolCycle _ => none
  | .laneRefill _ _ _ => none
  | .idleHandoff _ _ _ => none
  | .pageWalk _ _ _ _ => none
  | .pageRequest _ _ _ => none
  | .prgResponse _ _ => none
  | .atsInvalidateRequest _ _ _ => none
  | .invalidateRange _ _ _ => none
  | .invalidateContext _ => none
  | .invalidateAll => none
  | .invalidationComplete => none
  | .migrationGo _ => none
  | .migrationLineCopy _ => none
  | .migrationEnd _ => none
  | .mcCommit _ _ => none
  | .channelSlot _ _ => none
  | .stopSaveContext _ _ => none
  | .stopSaveCrew _ _ _ => none
  | .stopInPlace _ _ => none
  | .resumeInPlace _ => none
  | .stopComplete _ => none
  | .debugHalt _ => none
  | .debugResume _ => none
  | .discardPendingTraps _ => none
  | .dumpRequest _ => none
  | .ckptEnable _ => none
  | .ckptCut _ => none
  | .ckptFull _ => none
  | .timerTrigger _ => none
  | .intervalCut _ => none
  | .protectedUnitWrite _ _ => none
  | .shardStream _ => none
  | .indexWaitTimeout _ => none
  | .intervalSeal _ => none
  | .costUpdate => none
  | .restore _ => none
  | .gangSwitchOut => none
  | .gangInstant => none
  | .sweepSealed => none
  | .gangClose => none
  | .gangSwitchIn => none
  | .fabricLoadRequest _ _ => none
  | .fabricStoreRequest _ _ => none
  | .fabricAtomicRequest _ _ => none
  | .fabricReply _ _ => none
  | .fabricNegativeReply _ _ => none
  | .ready _ _ => none
  | .notready _ _ => none
  | .timeExchange => none
  | .fabDomainWrite _ _ => none
  | .portTraining _ _ => none
  | .ueDirtyLlcLine _ _ _ _ => none
  | .ueCleanLlcLine _ _ _ _ => none
  | .ueDramGranule _ _ => none
  | .ueVaultLine _ _ => none
  | .ueCrewState _ _ => none
  | .rollback _ => none
  | .scrubGranule _ => none
  | .coreSpareMap _ _ _ _ => none
  | .dieFence _ => none
  | .stackFenceGo _ => none
  | .stackFenceEnd => none
  | .doorbell _ _ => none
  | .queueEnable _ _ => none
  | .queueExamination => none
  | .sorrelEnd => none
  | .sorrelLi _ _ => none
  | .sorrelPkw _ _ => none
  | .sorrelLdw _ _ _ _ => none
  | .sorrelStw _ _ _ _ => none
  | .sorrelAdd _ _ _ => none
  | .sorrelAddk _ _ => none
  | .sorrelAndi _ _ _ => none
  | .sorrelShr _ _ _ => none
  | .sorrelBz _ _ => none
  | .sorrelBnz _ _ => none
  | .sorrelRep _ _ => none
  | .sorrelCst _ _ => none
  | .sorrelDep _ => none
  | .sorrelCond _ _ _ => none
  | .sorrelEmit _ _ => none
  | .nodeResolve _ => none
  | .bindCommit _ _ _ _ => none
  | .schedStart _ => none
  | .launchComplete _ => none
  | .boot _ _ => none
  | .firmwareImageUpdate _ _ _ => none
  | .bankSwitch _ => none
  | .resetContext _ => none
  | .resetCore _ => none
  | .resetMatrixEngine _ => none
  | .resetCopyEngine _ => none
  | .resetComputeDie _ => none
  | .resetMemoryStack _ => none
  | .resetFabricPort _ => none
  | .resetFabricDie _ => none
  | .resetCommandPath => none
  | .resetManagementComplex => none
  | .resetHostDieFunctions => none
  | .resetPackage => none
  | .watchdogExpiry => none
  | .hostFlr => none
  | .linkErrorLimit _ => none
  | .junctionThrottle _ => none
  | .junctionTrip _ => none
  | .telemetryPeriodic _ => none
  | .registerWrite _ _ _ => none
  | .stackFenceGranuleCopy => none
  | .priStoppedClear => none
  | .atsCompletion _ _ _ => none
  | .contextImageRestore _ _ => none
  | .standbyEntry => none

/-! ### The checks of R59, R62, R63, R66 and of the descriptions -/

/-- R68: the causes of an illegal instruction. -/
inductive Cause
  | opcode | function | reserved | pairing | boundary | kind
  deriving DecidableEq, Repr
def Cause.code : Cause → BitVec 8
  | .opcode => 1 | .function => 2 | .reserved => 3 | .pairing => 4 | .boundary => 5 | .kind => 6

/-- R59: cause 0x03 of one field: an unused field that is not `0x1FF`, or an E bit where no full or empty register
is named. -/
def fieldReserved (r : Role) (o : Opd) (e : Bool) : Bool :=
  if r.used then e && (match o with | .v _ | .l _ | .t _ => r.pred | _ => true) else o != .z || e
/-- R59: the destination has no E bit; cause 0x03 only for an unused field. -/
def destReserved (r : Role) (o : Opd) : Bool := !r.used && o != .z
/-- R59: cause 0x06 of one field. -/
def fieldKind (sh : Shape) (dest : Bool) (r : Role) (o : Opd) : Bool :=
  if !r.used then false
  else if r.pred then (match o with | .p n => decide (sh.preds ≤ n.toNat) | _ => true)
  else match o with
    | .v n => r.v == 0 || n.toNat % r.al != 0 || decide (sh.regs < n.toNat + r.v)
    | .l n => !r.l || decide (sh.links ≤ n.toNat)
    | .s n => !r.s || n.toNat % r.sAl != 0 || (dest && sh.width == 0)
    | .t n => !r.t || decide (sh.tiles ≤ n.toNat)
    | .k _ => !r.k
    | .z => !r.z
    | .p _ => true
/-- R62: an immediate that does not fit its operand type. -/
def immReserved (t : Ty) (x : Word) : Bool :=
  match t with
  | .s8 => (x.setWidth 8).signExtend 32 != x
  | .s16 => (x.setWidth 16).signExtend 32 != x
  | .n8 => (x.setWidth 8).setWidth 32 != x
  | .n16 | .f16 | .bf16 => (x.setWidth 16).setWidth 32 != x
  | _ => false
/-- The type the immediate of an instruction is read as; `.n32` for shift counts and the like (R98, R136). -/
def immTy : Instr → Ty
  | .add t _ _ | .sub t _ _ | .min t _ _ | .max t _ _ | .abs t _ _ | .neg t _ _ | .and t _ _ | .or t _ _ | .xor t _ _
  | .andn t _ _ | .not t _ _ | .mov t _ _ | .mul t _ _ | .mulh t _ _ | .mad t _ _ | .popc t _ _ | .clz t _ _ | .ctz t _ _
  | .brev t _ _ | .cmp t _ _ | .sel t _ | .fadd t _ _ | .fsub t _ _ | .fmul t _ _ | .fma t _ _ | .fmin t _ | .fmax t _
  | .fdiv t _ _ | .fsqrt t _ _ | .fcmp t _ _ | .fsel t _ | .fclass t _ | .frcp t _ _ | .frsq t _ _ | .fexp2 t _ _
  | .flog2 t _ _ | .frnd t _ _ | .fsin t _ _ | .fcos t _ _ => t
  | _ => .n32
/-- Whether the length of the instruction fits its immediate: format I has one, the others none. -/
def immFits (r : Raw) (f : Fields) : Bool := f.imm.isSome == (r.len == 1 && r.op != 1)
/-- R90: the ORD values an instruction allows. -/
def ordLegal : Instr → Bool
  | .ldp _ _ m _ | .stp _ _ m _ | .ldd _ m _ | .std _ m _ | .pfg m _ | .pfgLlc m _ | .swinit m _ | .swarrive m _ | .swait m _ =>
    m.ord == .plain
  | .lds _ _ m _ | .ldv _ _ m _ | .ldg _ _ m _ | .ldf _ _ m _ => m.ord == .plain || m.ord == .acq
  | .sts _ _ m _ | .stv _ _ m _ | .stg _ _ m _ | .stf _ _ m _ => m.ord == .plain || m.ord == .rel
  | _ => true
/-- R63: the scale of format M. -/
def scaleLegal : Instr → Bool
  | .ldp _ _ m _ | .stp _ _ m _ | .ldd _ m _ | .std _ m _ | .pfg m _ | .pfgLlc m _ | .swinit m _ | .swarrive m _ | .swait m _
  | .lds _ _ m _ | .ldv _ _ m _ | .ldg _ _ m _ | .ldf _ _ m _ | .sts _ _ m _ | .stv _ _ m _ | .stg _ _ m _ | .stf _ _ m _
  | .atms _ _ m _ | .atmv _ _ m _ | .atmg _ _ m _ | .atmf _ _ m _ => decide (m.scale.toNat ≤ 4)
  | _ => true
/-- The remaining cause-0x03 rules: R129 (a link producer has RMODE 000), R204 (control register numbers), R214 (KIND),
R217 (n). -/
def restReserved : Instr → Bool
  | .fadd _ rm f | .fsub _ rm f | .fmul _ rm f | .fma _ rm f | .fdiv _ rm f | .fsqrt _ rm f =>
    rm != .ctl && (match f.d with | .l _ => true | _ => false)
  | .csrr num _ => !csrExists num.toNat
  | .csrw num _ => !csrExists num.toNat || !csrWritable num.toNat
  | .lrd kind _ | .lwr kind _ => decide (5 ≤ kind.toNat)
  | .lcpy n _ => n == 0 || decide (17 ≤ n.toNat)
  | _ => false
/-- R129: two fields that name one link. -/
def linkTwice (f : Fields) : Bool :=
  let isL : Opd → Bool := fun o => match o with | .l _ => true | _ => false
  (isL f.a && (f.a == f.b || f.a == f.c || f.a == f.d)) || (isL f.b && (f.b == f.c || f.b == f.d)) || (isL f.c && f.c == f.d)
/-- The remaining cause-0x06 rules: R109 (a group at or above `.preds`), R204 (`tcfgN`), R217 (width-free `lcpy`), R121
with R122 (the mask pair of width 128 is checked by its role). -/
def restKind (sh : Shape) : Instr → Bool
  | .ppack g _ | .punpack g _ => decide (sh.preds ≤ 32 * g.toNat)
  | .csrr num _ | .csrw num _ => decide (0x100 ≤ num.toNat) && decide (sh.tiles ≤ num.toNat - 0x100)
  | .lcpy _ _ => sh.width == 0
  | _ => false
/-- R59: the guard predicate lies below `.preds`. -/
def guardKind (sh : Shape) : Guard → Bool
  | .always => false
  | .pred n _ => decide (sh.preds ≤ n.toNat)
/-- R60. -/
def guardReserved : Guard → Bool
  | .always => false
  | .pred n _ => decide (96 ≤ n.toNat)

/-- The checks of an instruction of one header, in the order of R68 after the boundary check. -/
def checkOne (sh : Shape) (i : Instr) (r : Raw) (f : Fields) : Option Cause :=
  let q := roles sh i
  if !lenLegal r.op.toNat r.len.toNat || (sh.width == 0 && crossLaneOp r.op.toNat) then some .opcode
  else if !fnLegal r.op.toNat r.len.toNat r.fn.toNat (r.ext.extractLsb' 0 8).toNat then some .function
  else if guardReserved f.g || destReserved q.d f.d || fieldReserved q.a f.a (f.e.getLsbD 0)
      || fieldReserved q.b f.b (f.e.getLsbD 1) || fieldReserved q.c f.c (f.e.getLsbD 2) || !immFits r f
      || (match f.imm with | some x => immReserved (immTy i) x | none => false)
      || !ordLegal i || !scaleLegal i || restReserved i then some .reserved
  else if guardKind sh f.g || fieldKind sh true q.d f.d || fieldKind sh false q.a f.a || fieldKind sh false q.b f.b
      || fieldKind sh false q.c f.c || linkTwice f || restKind sh i then some .kind
  else none

/-! ### The pair word: R65 to R67, R92 -/

/-- The N-format word that a half reduces, its unused fields at `0x1FF` (R65). -/
def PairHalf.rawAll (h : PairHalf) : Raw :=
  { len := 0, op := h.op, gp := h.g.code.1, gn := h.g.code.2, d := h.d.setWidth 9, a := h.a.setWidth 9, b := h.b.setWidth 9
    c := h.c.setWidth 9, e := h.e, fn := h.fn, ext := 0 }
/-- The instruction of a half with all four fields as `v` registers. -/
def PairHalf.full (h : PairHalf) : Option Instr :=
  h.rawAll.instr ⟨h.g, h.e, .v h.d, .v h.a, .v h.b, .v h.c, none⟩
/-- The roles of a half (its shape is never width-dependent: no cross-lane operation is pairable). -/
def PairHalf.roles (h : PairHalf) : FieldRoles :=
  match h.full with
  | some i => Sys2Proof.roles ⟨0, 0, 0, 0, 0, 0, 0, 0, 0⟩ i
  | none => ⟨.none, .none, .none, .none⟩
/-- The N-format instruction a half reduces: its unused fields become `0x1FF` (R65). -/
def PairHalf.instr (h : PairHalf) : Option Instr :=
  let q := h.roles
  h.rawAll.instr ⟨h.g, h.e, .v h.d, if q.a.used then .v h.a else .z, if q.b.used then .v h.b else .z,
    if q.c.used then .v h.c else .z, none⟩
/-- R65: an unused source holds the half's own destination and its E bit is 0. -/
def PairHalf.reserved (h : PairHalf) : Bool :=
  let q := h.roles
  guardReserved h.g || (!q.a.used && (h.a != h.d || h.e.getLsbD 0)) || (!q.b.used && (h.b != h.d || h.e.getLsbD 1))
    || (!q.c.used && (h.c != h.d || h.e.getLsbD 2))
/-- R59 for a half. -/
def PairHalf.kind (sh : Shape) (h : PairHalf) : Bool :=
  let q := h.roles
  guardKind sh h.g || fieldKind sh true q.d (.v h.d) || fieldKind sh false q.a (.v h.a) || fieldKind sh false q.b (.v h.b)
    || fieldKind sh false q.c (.v h.c)
/-- R66: the pipe of a pairable opcode. -/
def pipeOf (op : Nat) : Nat := if op < 0x20 then 0 else if op < 0x30 then 1 else if op < 0x60 then 2 else 3
/-- R66 condition 2: 32-bit elements. -/
def pairTy (fn : BitVec 7) : Bool :=
  match Ty.ofCode (fn.extractLsb' 3 4) with
  | .s32 | .n32 | .b32 | .f32 | .f16x2 | .bf16x2 => true
  | _ => false
/-- The used sources of a half, as register numbers. -/
def PairHalf.sources (h : PairHalf) : List Nat :=
  let q := h.roles
  (if q.a.used then [h.a.toNat] else []) ++ (if q.b.used then [h.b.toNat] else []) ++ (if q.c.used then [h.c.toNat] else [])
/-- R66 conditions 2 to 6, for two pairable halves. -/
def pairLegal (x y : PairHalf) : Bool :=
  let fx := decide (0x50 ≤ x.op.toNat)
  let fy := decide (0x50 ≤ y.op.toNat)
  let src := (x.sources ++ y.sources).dedup
  pairTy x.fn && pairTy y.fn && (pipeOf x.op.toNat != pipeOf y.op.toNat || fx != fy)
    && x.d.toNat % 4 != y.d.toNat % 4
    && decide (src.length ≤ 3) && decide ((src.map (· % 4)).Nodup)
/-- R66, R68: the checks of a pair word, in the order of R68. In a width-free kernel a half with a cross-lane opcode gives cause 0x01,
as R83 says of those opcodes, and not the 0x04 of an assigned half that is not pairable (DESIGN CHOICE, log entry 145). -/
def checkPair (sh : Shape) (x y : PairHalf) : Option Cause :=
  let px := pairable x.op.toNat
  let py := pairable y.op.toNat
  if !opAssigned x.op.toNat || !opAssigned y.op.toNat || (sh.width == 0 && (crossLaneOp x.op.toNat || crossLaneOp y.op.toNat)) then
    some .opcode
  else if (px && !fnLegal x.op.toNat 0 x.fn.toNat 0) || (py && !fnLegal y.op.toNat 0 y.fn.toNat 0) then some .function
  else if (px && x.reserved) || (py && y.reserved) then some .reserved
  else if (px && x.kind sh) || (py && y.kind sh) then some .kind
  else if !px || !py || !pairLegal x y then some .pairing
  else none
/-- R65: the bits of a half, from bit 2 of the word on (OP, GP, GN, D, A, B, C, E, FN). -/
def PairHalf.bits (h : PairHalf) : BitVec 58 :=
  h.fn ++ h.e ++ h.c ++ h.b ++ h.a ++ h.d ++ BitVec.ofBool h.g.code.2 ++ h.g.code.1 ++ h.op
/-- R65. -/
def PairHalf.ofBits (x : BitVec 58) : Option PairHalf :=
  match Guard.ofCode (x.extractLsb' 8 7) (x.getLsbD 15) with
  | some g => some ⟨g, x.extractLsb' 0 8, x.extractLsb' 51 7, x.extractLsb' 48 3, x.extractLsb' 16 8, x.extractLsb' 24 8,
      x.extractLsb' 32 8, x.extractLsb' 40 8⟩
  | none => none

/-! ### Decoding and encoding -/

/-- Whether the instruction is encodable and passes every check of R68 in a kernel of this shape. -/
def check (sh : Shape) (i : Instr) : Option Cause :=
  match i with
  | .pairWord x y => checkPair sh x y
  | _ =>
    match i.raw, i.fields? with
    | some r, some f => checkOne sh i r f
    | _, _ => some .opcode
/-- R68 for a word of formats N, I, M and W. -/
def decodeRaw (sh : Shape) (r : Raw) : Except Cause Instr :=
  if !lenLegal r.op.toNat r.len.toNat || (sh.width == 0 && crossLaneOp r.op.toNat) then .error .opcode
  else if !fnLegal r.op.toNat r.len.toNat r.fn.toNat (r.ext.extractLsb' 0 8).toNat then .error .function
  else if r.len = 2 ∧ r.ext &&& ~~~(extMask r.op.toNat) ≠ 0 then .error .reserved
  else
    match r.fields with
    | none => .error .reserved
    | some f =>
      match r.instr f with
      | none => .error .reserved
      | some i => match check sh i with
        | none => .ok i
        | some c => .error c
/-- R65, R66, R68 for a pair word. -/
def decodePair (sh : Shape) (x : BitVec 128) : Except Cause Instr :=
  let bx := x.extractLsb' 2 58
  let wy := x.extractLsb' 66 58
  let opx := (bx.extractLsb' 0 8).toNat
  let opy := (wy.extractLsb' 0 8).toNat
  let fnOk := fun (op : Nat) (b : BitVec 58) => !pairable op || fnLegal op 0 (b.extractLsb' 51 7).toNat 0
  if !opAssigned opx || !opAssigned opy || (sh.width == 0 && (crossLaneOp opx || crossLaneOp opy)) then .error .opcode
  else if !fnOk opx bx || !fnOk opy wy then .error .function
  else if x.extractLsb' 60 6 ≠ 0 ∨ x.extractLsb' 124 4 ≠ 0 then .error .reserved
  else
    match PairHalf.ofBits bx, PairHalf.ofBits wy with
    | some h, some k => match checkPair sh h k with
      | none => .ok (.pairWord h k)
      | some c => .error c
    | hx, hy =>
      let bad (op : Nat) (h : Option PairHalf) : Bool := pairable op && (h.map PairHalf.reserved).getD true
      let kind (op : Nat) (h : Option PairHalf) : Bool := pairable op && (h.map (PairHalf.kind sh)).getD false
      .error (if bad opx hx || bad opy hy then .reserved else if kind opx hx || kind opy hy then .kind else .pairing)
/-- R52, R53, R68: the word that begins at block offset `off` with the given bits (bits past its length are not read). -/
def decode (sh : Shape) (off : Nat) (x : BitVec 128) : Except Cause Instr :=
  let len := x.extractLsb' 0 2
  if 32 < off + lenBytes len then .error .boundary
  else if len = 3 then decodePair sh x
  else decodeRaw sh (Raw.ofBits x)
/-- The 128 bits of an Arben instruction (bits above its length zero); none for Sorrel bytecodes and events. -/
def encode : Instr → Option (BitVec 128)
  | .pairWord x y => some ((0 : BitVec 4) ++ y.bits ++ (0 : BitVec 6) ++ x.bits ++ (3 : BitVec 2))
  | i => i.raw.map Raw.bits
/-- The length in bytes of an encoded instruction (R52). -/
def Instr.bytes (i : Instr) : Nat :=
  match i with
  | .pairWord _ _ => 16
  | _ => match i.raw with | some r => lenBytes r.len | none => 0

/-! ### Sorrel: R385 -/

/-- R385: OPC, KA, KB and IMM of a bytecode, and the fields it marks zero. -/
def decodeSorrel (x : Word) : Option Instr :=
  let ka := x.extractLsb' 24 3
  let kb := x.extractLsb' 21 3
  let imm := x.extractLsb' 0 21
  let w := x.extractLsb' 19 2
  let off := x.extractLsb' 0 19
  match (x.extractLsb' 27 5).toNat with
  | 0x00 => if x = 0 then some .sorrelEnd else none
  | 0x01 => if kb = 0 then some (.sorrelLi ka imm) else none
  | 0x02 => if kb = 0 then some (.sorrelPkw ka imm) else none
  | 0x03 => some (.sorrelLdw ka kb w off)
  | 0x04 => some (.sorrelStw ka kb w off)
  | 0x05 => some (.sorrelAdd ka kb imm)
  | 0x06 => if imm = 0 then some (.sorrelAddk ka kb) else none
  | 0x07 => some (.sorrelAndi ka kb imm)
  | 0x08 => some (.sorrelShr ka kb imm)
  | 0x09 => if kb = 0 then some (.sorrelBz ka imm) else none
  | 0x0A => if kb = 0 then some (.sorrelBnz ka imm) else none
  | 0x0B => if ka = 0 ∧ kb = 0 ∧ x.extractLsb' 12 9 = 0 then some (.sorrelRep (x.extractLsb' 0 7) (x.extractLsb' 7 5)) else none
  | 0x0C => if kb = 0 ∧ x.extractLsb' 6 15 = 0 then some (.sorrelCst (x.extractLsb' 0 6) ka) else none
  | 0x0D => if kb = 0 ∧ imm = 0 then some (.sorrelDep ka) else none
  | 0x0E => if ka = 0 then some (.sorrelCond kb w off) else none
  | 0x0F => if ka = 0 ∧ kb = 0 then some (.sorrelEmit w off) else none
  | _ => none
/-- R385, the other way. -/
def encodeSorrel : Instr → Option Word
  | .sorrelEnd => some 0
  | .sorrelLi ka imm => some ((0x01 : BitVec 5) ++ ka ++ (0 : BitVec 3) ++ imm)
  | .sorrelPkw ka n => some ((0x02 : BitVec 5) ++ ka ++ (0 : BitVec 3) ++ n)
  | .sorrelLdw ka kb w off => some ((0x03 : BitVec 5) ++ ka ++ kb ++ w ++ off)
  | .sorrelStw ka kb w off => some ((0x04 : BitVec 5) ++ ka ++ kb ++ w ++ off)
  | .sorrelAdd ka kb imm => some ((0x05 : BitVec 5) ++ ka ++ kb ++ imm)
  | .sorrelAddk ka kb => some ((0x06 : BitVec 5) ++ ka ++ kb ++ (0 : BitVec 21))
  | .sorrelAndi ka kb imm => some ((0x07 : BitVec 5) ++ ka ++ kb ++ imm)
  | .sorrelShr ka kb imm => some ((0x08 : BitVec 5) ++ ka ++ kb ++ imm)
  | .sorrelBz ka n => some ((0x09 : BitVec 5) ++ ka ++ (0 : BitVec 3) ++ n)
  | .sorrelBnz ka n => some ((0x0A : BitVec 5) ++ ka ++ (0 : BitVec 3) ++ n)
  | .sorrelRep n len => some ((0x0B : BitVec 5) ++ (0 : BitVec 15) ++ len ++ n)
  | .sorrelCst c ka => some ((0x0C : BitVec 5) ++ ka ++ (0 : BitVec 18) ++ c)
  | .sorrelDep ka => some ((0x0D : BitVec 5) ++ ka ++ (0 : BitVec 24))
  | .sorrelCond kb w off => some ((0x0E : BitVec 5) ++ (0 : BitVec 3) ++ kb ++ w ++ off)
  | .sorrelEmit w off => some ((0x0F : BitVec 5) ++ (0 : BitVec 6) ++ w ++ off)
  | _ => none

/-- A shape that allows every operand (the table's words are decoded in no particular kernel). -/
def openShape : Shape := ⟨8, 256, 96, 16, 32, 8, 262144, 4, 16⟩
/-- The instruction this decoder reads from a word of spec/opcode_table.json: 32 bits are a Sorrel bytecode, more are an
Arben word at block offset 0. -/
def decodeTableWord (nbits w : Nat) : Option Instr :=
  if nbits ≤ 32 then decodeSorrel (BitVec.ofNat 32 w)
  else (decode openShape 0 (BitVec.ofNat 128 w)).toOption

end Sys2Proof
end

