-- ==== Sys2Proof/Machine/State.lean ====
section
/-! DEFINITION. The state of the module as plain data: every piece of state the spec gives the machine, the reasons a
step can stop, and the state after reset. INVENTORY.md lists each field with its rule and its reset value. -/
namespace Sys2Proof.Machine

/-- Why a step can end in a fault. No rule of the spec stops the module itself: every trap, stop and error of
chapters 15 and 19 is a next state. -/
inductive Fault
  /-- Raised by `doMove` when the module is in standby (R26, R14): nothing runs until the board controller ends it.
  Safe: the model stops where the hardware waits. -/
  | standby
  deriving DecidableEq, Repr

/-- Why a step can be refused. -/
inductive Refusal
  /-- An instruction without a meaning. Safe. -/
  | notModelled (mnemonic : String)
  /-- Raised by an Arben meaning when no warp issues it (the cursor names none). `step` never does this. Safe. -/
  | noWarp
  /-- Raised by an event whose precondition the state does not meet: the event cannot happen there. Safe. -/
  | notEnabled
  deriving DecidableEq, Repr

/-- Memory: address and byte pairs in canonical form (log entry 1). -/
abbrev Mem := List Host.Cell

/-! ### Threads and warps -/

/-- R47: STATE. -/
inductive LState
  | empty | part | full | consumed
  deriving DecidableEq, Repr
/-- R47: CLASS. -/
inductive LClass
  | finite | pzero | nzero | pinf | ninf | nan
  deriving DecidableEq, Repr
/-- R43, R47: a link; `digits` are the delivered digits, each -1, 0 or 1; K is their count; `wide` is CF64. -/
structure LinkReg where
  wide : Bool
  st : LState
  cls : LClass
  pf : BitVec 3
  e : Int
  digits : List Int
  deriving DecidableEq, Repr
/-- R138: the consumed link. -/
def LinkReg.clear : LinkReg := ⟨false, .consumed, .finite, 0, 0, []⟩
/-- R148: the kinds of a source of a chain record. -/
inductive ChainSrc
  | unused | value (x : Quad) | link (n : Nat)
  deriving DecidableEq, Repr
/-- R148: a link producer or consumer in flight; `rm` is `fpctl.RM` at issue (R46), `early` whether it decides early (R143). -/
structure ChainRec where
  op : BitVec 8
  fn : BitVec 7
  d : BitVec 9
  a : ChainSrc
  b : ChainSrc
  c : ChainSrc
  rm : BitVec 2
  early : Bool
  deriving DecidableEq, Repr
/-- R312: a thread. `rstack` is the on-chip return stack, newest first; `facq` and `frel` are the fence marks of R167
with the identifiers of the accesses they wait for; `finv` says that the acquire mark invalidates the core's L1, which an
`.acq` of a space without L1 words does not (R160). -/
structure Thread where
  v : List Word
  full : List Bool
  p : BitVec 96
  links : List LinkReg
  chain : List ChainRec
  fpctl : Word
  fpflags : Word
  rsdepth : Nat
  rsbase : Quad
  rstack : List Quad
  capture : List Byte
  exited : Bool
  facq : Option (List Nat)
  frel : Option (List Nat)
  finv : Bool
  deriving DecidableEq, Repr

/-- R127, R150, R218: what the record of a trap holds beside its 64 bytes: the format held of a link-format trap; the destination
groups that did not fit; lanes with their targets or depths; absent lanes; lanes whose assertion failed, with their threads
(log entry 127). -/
inductive TrapNote
  | none
  | format (wide : Bool)
  | groups (gs : List (BitVec 56 × Mask))
  | values (xs : List (Nat × Nat))
  | absent (m : Mask)
  deriving DecidableEq, Repr
/-- R298: the trap record. -/
structure TrapRec where
  tcause : Word
  tpc : Quad
  tval : Quad
  tinst : Quad
  tmask : Mask
  time : Quad
  note : TrapNote
  deriving DecidableEq, Repr
/-- R313: the hold of a frontier entry. -/
inductive Hold
  | none | jwait (j : Nat) | bar | swait
  deriving DecidableEq, Repr
/-- R110: a frontier entry. `eid` names it while it lives; `yield` lists the entries a `park` still waits for (R118);
`idle` counts the cycles of R236. -/
structure Entry where
  eid : Nat
  pc : BitVec 56
  mask : Mask
  prio : Nat
  hold : Hold
  yield : List Nat
  idle : Nat
  deriving DecidableEq, Repr
/-- R119: a join register. -/
structure Join where
  members : Mask
  arrived : Mask
  deriving DecidableEq, Repr
/-- R212, R301: handler mode, with the trapping entry. -/
structure Handler where
  pc : BitVec 56
  record : TrapRec
  eid : Nat
  deriving DecidableEq, Repr
/-- R93, R94: the micro-operation record of a warp: the executing lanes, and all lanes that stood at the instruction. -/
structure Micro where
  instr : Instr
  eid : Nat
  mask : Mask
  all : Mask
  mstep : Nat
  vals : List Word
  deriving DecidableEq, Repr
/-- R278: what a deferred lane waits for; `flight` is a lane whose access is on its way and has not been performed (log entry 3). -/
inductive LaneWait
  | page | ats | table | captured (x : Quad) | dead | flight
  deriving DecidableEq, Repr
/-- R278: a deferred lane, with its captured operands. -/
structure LogLane where
  lane : Nat
  tid : Nat
  addr : Quad
  ops : List Quad
  cause : Nat
  tries : Nat
  wait : LaneWait
  deriving DecidableEq, Repr
/-- R278: an operand-log entry; `wid` is the warp slot whose log holds it (log entry 128). -/
structure LogEntry where
  id : Nat
  wid : Nat
  instr : Instr
  pc : BitVec 56
  lanes : List LogLane
  deriving DecidableEq, Repr
/-- R116, R120, R280: a warp that waits for a page outside the operand log. -/
structure Stall where
  va : Nat
  kind : Access
  tries : Nat
  cause : Nat
  waiting : Bool
  deriving DecidableEq, Repr
/-- R120, R241: where an away warp is. -/
structure Away where
  core : Nat
  slot : Nat
  deriving DecidableEq, Repr
/-- R174: a `cpy` at an address that waits for free entries after some of its copies were issued: the descriptors of the lanes to
come and the handles of those issued, by thread (log entry 132). -/
structure CpyPart where
  pc : BitVec 56
  todo : List (Nat × List Byte)
  done : List (Nat × Nat)
  deriving DecidableEq, Repr
/-- R229 to R231, R313: a warp. `wid` is its place among the crew's warps; `lanes` gives the thread of each lane; `migWait` is the cycle
from which a `mig` waits for a landing slot, and its die (R241). -/
structure Warp where
  wid : Nat
  lanes : List (Option Nat)
  entries : List Entry
  s : List Quad
  joins : List Join
  trap : Option TrapRec
  trapEid : Nat
  handler : Option Handler
  micro : Option Micro
  stall : Option Stall
  away : Option Away
  migWait : Option (Nat × Nat)
  cpy : Option CpyPart
  waiting : Nat
  deriving DecidableEq, Repr

/-! ### Crews -/

/-- R390: a loaded kernel; `code` holds the bytes of its code segment by offset, fixed from load (R250), for the pages of
`pages`; the bytes of a page that was not present at load are taken when it is first fetched (log entry 25). -/
structure Kernel where
  desc : Nat
  codeVA : Nat
  codeLen : Nat
  dataVA : Quad
  shape : Shape
  trapVA : Nat
  rstVA : Nat
  rstTiles : Word
  prio : List (Nat × Nat)
  code : Mem
  pages : List Nat
  deriving DecidableEq, Repr
/-- R232: a continuation record. -/
structure PoolRec where
  pc : BitVec 56
  prio : Nat
  tid : Nat
  cycle : Nat
  deriving DecidableEq, Repr
/-- R233: a bin. -/
structure Bin where
  key : BitVec 56
  recs : List PoolRec
  deriving DecidableEq, Repr
/-- R168, R173: a width-free thread held outside every bin. -/
structure HeldRec where
  pc : BitVec 56
  tid : Nat
  hold : Hold
  deriving DecidableEq, Repr
/-- R173: a lane held at an `swait`: the sync word, the expected generation and the destination. -/
structure SwWait where
  tid : Nat
  wid : Nat
  lane : Nat
  pc : BitVec 56
  vault : Bool
  off : Nat
  expect : Word
  d : Opd
  deriving DecidableEq, Repr
/-- R182: STATE of a copy. -/
inductive CopySt
  | running | done | part | faulted
  deriving DecidableEq, Repr
/-- R174, R311: an entry of the copy table. `wait` is set while the copy waits for a page (R181). -/
structure CopyEnt where
  handle : Word
  qpri : BitVec 2
  st : CopySt
  pmask : BitVec 4
  cause : Byte
  prog : Nat
  faultAddr : Quad
  desc : List Byte
  reported : Bool
  wait : Option Stall
  deriving DecidableEq, Repr
/-- R203: STATE of a matrix request. -/
inductive MatSt
  | queued | running | done | faulted
  deriving DecidableEq, Repr
/-- R196, R311: a matrix request. `marks` is its identifier in the lists of R189; `since` is the cycle from which it has
had a ready pass (R199); `w` holds the values of a saved or running pass (R200, R202). -/
structure MatReq where
  num : Nat
  handle : Word
  mpri : BitVec 2
  st : MatSt
  cur : Nat
  beat : Nat
  block : Nat
  header : List Byte
  passes : List Quad
  shapes : List (Nat × Word)
  mark : Nat
  since : Nat
  start : Nat
  w : List (BitVec 128)
  deriving DecidableEq, Repr
/-- R186, R189: a tile of the window. -/
structure Tile where
  data : Mem
  cfg : Word
  writers : List Nat
  lends : Nat
  deriving DecidableEq, Repr
/-- R192, R193, R195: a `tld` or `tst` that has not completed. -/
structure Transfer where
  id : Nat
  instr : Instr
  pc : BitVec 56
  wid : Nat
  lane : Nat
  tid : Nat
  tile : Nat
  base : Quad
  cfg : Word
  wait : Option Stall
  dead : Bool
  deriving DecidableEq, Repr
/-- R168: the barrier of a crew. -/
structure Barrier where
  expect : Nat
  arrived : Nat
  mask : BitVec 2048
  deriving DecidableEq, Repr
/-- A bound crew: where it is (R397), what it runs (R390), and its state; `log` holds the operand logs of its warp slots. -/
structure Crew where
  id : Nat
  ctx : Nat
  pos : Nat
  launch : Nat
  cls : Nat
  core : Nat
  slot : Nat
  kernel : Kernel
  privBase : Quad
  privSize : Nat
  consts : List Quad
  started : Bool
  threads : List Thread
  warps : List Warp
  bins : List (Option Bin)
  queue : List PoolRec
  held : List HeldRec
  waits : List SwWait
  barrier : Barrier
  scratch : Mem
  tiles : List Tile
  copies : List (Option CopyEnt)
  copySerial : Nat
  mats : List (Option MatReq)
  matSerial : Nat
  transfers : List Transfer
  log : List LogEntry
  stopped : Bool
  deriving DecidableEq, Repr

/-! ### Memory system -/

/-- R249: an L1 line of a core. -/
structure L1Line where
  core : Nat
  line : Nat
  valid : BitVec 32
  owned : BitVec 32
  data : List Byte
  deriving DecidableEq, Repr
/-- R274: an entry of a TLB: a leaf of a context; `core` names the core of a first-level TLB, or none the die's second level;
`level` is 3 or 4; a host leaf holds its ATS translation. -/
structure TlbEnt where
  die : Nat
  core : Option Nat
  ctx : Nat
  vpage : Nat
  level : Nat
  leaf : Quad
  host : Option Nat
  deriving DecidableEq, Repr
/-- R276: who waits for a page. -/
inductive Waiter
  | log (crew id lane : Nat) | warp (crew wid : Nat) | copy (crew entry : Nat) | tile (crew id : Nat)
  deriving DecidableEq, Repr
/-- R276, R277: a merge-table entry; `prgi` is its index once its request was sent. -/
structure MergeEnt where
  die : Nat
  ctx : Nat
  pasid : Nat
  vpage : Nat
  rd : Bool
  wr : Bool
  ex : Bool
  waiters : List Waiter
  prgi : Option Nat
  deriving DecidableEq, Repr
/-- R277, R281, R270, R386: messages to the host; and what a register read by the host, a management core or the sideband returned
(R12, R20). -/
inductive HostMsg
  | pageRequest (pasid prgi page : Nat) (rd wr ex : Bool)
  | atsRequest (pasid page : Nat)
  | invalidateCompletion (pasid : Nat)
  | queueSignal (q : Nat)
  | barData (x : Nat)
  | coreData (x : Nat)
  | sidebandData (x : Nat)
  | measurement (block : Nat) (bytes : List Byte)
  deriving DecidableEq, Repr
/-- R281: an invalidation in progress, of so many pages from one on; `ats` is the PASID when the host asked for it. -/
structure Inval where
  scope : Nat
  ctx : Nat
  page : Nat
  count : Nat
  ats : Option Nat
  deriving DecidableEq, Repr
/-- R284, R285: a migration slot at work: frames as memory keys, lines copied so far. -/
structure MigSlot where
  slot : Nat
  src : Nat
  dst : Nat
  copied : Nat
  deriving DecidableEq, Repr
/-- R288: a request in a channel's queues. -/
structure ChanReq where
  part : Nat
  addr : Nat
  size : Nat
  deriving DecidableEq, Repr
/-- R287, R288: a channel: live slot table, slot counter, queues in arrival order, last partition given a donated
slot. -/
structure Chan where
  stack : Nat
  ch : Nat
  live : List Quad
  slot : Nat
  queue : List ChanReq
  lastDon : Nat
  deriving DecidableEq, Repr
/-- R328: a write by a unit of the module that waits at its point of service for a page of the pool: for which context, where, how many
bytes, and the bytes as cells from 0 on (log entry 141). -/
structure HeldWrite where
  ctx : Option Nat
  key : Nat
  len : Nat
  data : Mem
  deriving DecidableEq, Repr
/-- R362: a dirty last-level line: its owner tag and the bytes behind it. -/
structure DirtyLine where
  line : Nat
  ctx : Nat
  back : List Byte
  deriving DecidableEq, Repr
/-- R354: the access of one lane that data on its way to registers comes from. -/
structure RetSrc where
  wid : Nat
  lane : Nat
  id : Nat
  instr : Instr
  pc : BitVec 56
  addr : Quad
  ops : List Quad
  deriving DecidableEq, Repr
/-- R158: data on its way to registers. `acc` marks the return of a memory access (R167), `src` one of global, private or vault
space. -/
structure Ret where
  id : Nat
  crew : Nat
  tid : Nat
  writes : List (Nat × Word)
  acc : Bool
  src : Option RetSrc
  deriving DecidableEq, Repr

/-! ### Contexts -/

/-- R323: a unit of dirty tracking. Pages carry the virtual page and the physical frame. -/
inductive CkUnit
  | row (pos slot row : Nat) | tile (pos t : Nat) | scratch (pos line : Nat) | vault (lq line : Nat) | page (vpage frame : Nat)
  deriving DecidableEq, Repr
/-- R329, R332: a shard of a closed interval, before (loc none) and after it is streamed. -/
structure Shard where
  kind : Nat
  unit : Nat
  base : Nat
  members : List CkUnit
  staged : List Byte
  loc : Option Nat
  ref : Bool
  digest : List Byte
  length : Nat
  slot : Option Nat
  deriving DecidableEq, Repr
/-- R320 to R333: Chervil's state for a context. `old` holds the old images of protected units that were written;
each with the pool page it uses; `waitUntil`
the index slot that the next shard waits for, and until when (R331). -/
structure Ckpt where
  timerMark : Nat
  stepMark : Nat
  closing : Option Nat
  next : Nat
  base : Nat
  fullNow : Bool
  prevLoc : Nat
  prevDig : List Byte
  dirty : List CkUnit
  streaming : List CkUnit
  protect : List CkUnit
  old : List (CkUnit × List Byte × Option Nat)
  shards : List Shard
  header : List Byte
  xlat : List Byte
  pauseTime : Quad
  waitUntil : Option (Nat × Nat)
  deriving DecidableEq, Repr
/-- R303, R304: a stop under way. -/
structure StopJob where
  kind : Nat
  reason : Nat
  pos : Nat
  deriving DecidableEq, Repr
/-- What a context is, beside its registers: the values it took up at binding (R268, R398, R326), its stops and traps
(R302, R317), the crew, warp and address that a `brk` reported (R211), its step counter (R208), its log marks (R365). -/
structure Ctx where
  num : Nat
  bound : Bool
  xlat : List Quad
  job : Quad
  dwin : List Quad
  token : Word
  vres : Nat
  quadMap : List Nat
  stepcount : Quad
  kernel : Option Kernel
  groups : Nat
  privBase : Quad
  privSize : Nat
  stop : Option StopJob
  inPlace : Bool
  halted : Bool
  halting : Bool
  brkAt : Option (Nat × Nat × Quad)
  defer : Option StopJob
  trapStop : Bool
  errStop : Bool
  errLine : Nat
  primary : Option (TrapRec × Nat × Nat)
  seconds : List (Nat × TrapRec)
  nsecond : Nat
  rollWait : Bool
  heldIn : Bool
  cutPause : Bool
  logOn : Bool
  firstBits : List Nat
  poisoned : List Nat
  ckpt : Ckpt
  deriving DecidableEq, Repr

/-! ### Fabric -/

/-- R341: a packet. -/
structure Packet where
  job : Half
  type : Nat
  src : Nat
  dst : Nat
  injtb : Quad
  off : Nat
  vl : Nat
  ord : BitVec 2
  op : Byte
  tag : Word
  len : Nat
  status : Nat
  be : BitVec 256
  data : List Byte
  deriving DecidableEq, Repr
/-- R344, R348, R415, R420: a fabric port. -/
structure Port where
  num : Nat
  up : Bool
  lanes : Nat
  spareUsed : Bool
  corrected : Nat
  dropped : Nat
  egress : List Packet
  xbar : List Packet
  ingress : List Packet
  deriving DecidableEq, Repr
/-- R342: a fabric request that awaits its reply. -/
structure FabOut where
  tag : Word
  id : Nat
  ctx : Nat
  crew : Nat
  wid : Nat
  lane : Nat
  tid : Nat
  instr : Instr
  pc : BitVec 56
  elem : Nat
  addr : Quad
  deriving DecidableEq, Repr
/-- R352: the parts of a switch-in: a saved packet to deliver from a port, a held reply to match, a packet to queue at a port. -/
inductive InPart
  | deliver (port : Nat) (p : Packet) | held (p : Packet) | queue (port : Nat) (p : Packet)
  deriving DecidableEq, Repr
/-- R345 to R352: Fescue's work on one job: swept records with their WHERE byte, late records and held replies in
arrival order; `inq` is what a switch-in has still to do, and `answers` holds its answers to requests it delivered. -/
structure Gang where
  phase : Nat
  status : Nat
  swept : List (Byte × Packet)
  late : List Packet
  nlate : Nat
  nreply : Nat
  viol : Nat
  sealTime : Quad
  fault : Bool
  lateLen : Nat
  lateOff : Nat
  badAreas : List Nat
  inq : List InPart
  answers : List Packet
  deriving DecidableEq, Repr

/-! ### Command path -/

/-- R391: a launch, from its `emit` on. `st`: 0 node, 1 accepted, 2 started. -/
structure Launch where
  num : Nat
  ctx : Nat
  cls : Nat
  g : Nat
  privSize : Nat
  privBase : Quad
  consts : List Quad
  comp : Nat
  xdom : Bool
  kdesc : Nat
  kernel : Option Kernel
  st : Nat
  deriving DecidableEq, Repr
/-- R394: a node. -/
structure Node where
  launch : Launch
  ring : Nat
  slot : Nat
  lap : Word
  digest : List Byte
  deps : List Word
  cond : Option Nat
  deriving DecidableEq, Repr
/-- R385, R387: a packet in progress. `loop` is the body's start, its end and the runs left. -/
structure Sorrel where
  queue : Nat
  ring : Nat
  slot : Nat
  lap : Word
  words : List Word
  prog : List Word
  pc : Nat
  steps : Nat
  k : List Quad
  loop : Option (Nat × Nat × Nat)
  csts : List (Nat × Quad)
  deps : List Word
  cond : Option Nat
  last : Word
  disp : Nat
  deriving DecidableEq, Repr

/-! ### Errors and platform -/

/-- R371, R372: the scrubber of a stack: next granule and the granule under its lock. -/
structure Scrub where
  stack : Nat
  pos : Nat
  lock : Option Nat
  deriving DecidableEq, Repr
/-- R358 to R377: what the error units keep beside their registers. -/
structure Ras where
  dirty : List DirtyLine
  poisonLines : List Nat
  poison : List Nat
  vaultPoison : List Nat
  spareRows : List (Nat × Nat)
  quarantine : List (Nat × Nat × Nat)
  waysOut : List (Nat × Nat)
  errSeq : Nat
  scrubs : List Scrub
  stkCopied : Nat
  stkLive : Option (Nat × Nat)
  deriving DecidableEq, Repr
/-- R407, R408: a firmware class: the digests of its active and its other bank. -/
structure FwClass where
  active : List Byte
  other : List Byte
  deriving DecidableEq, Repr
/-- R406, R414, R416: what the management complex keeps beside its registers; `cxl` lists the parts of the CXL window that the
host backs, as base and length (R19); `points` are the voltage and frequency points that firmware set (R416); the `rec` fields are firmware's records of retirement and quarantine (R370). -/
structure Plat where
  standby : Bool
  fenced : List Nat
  islandsOff : List Nat
  freqDown : List (Nat × Nat)
  points : List (Nat × Nat × Nat)
  temps : List (Nat × Nat)
  fw : List FwClass
  telemSeq : List Nat
  telem : List (Nat × List Byte)
  cxl : List (Nat × Nat)
  recUnits : List (Nat × Quad)
  recPairs : List (Nat × Nat × Nat)
  recWays : List (Nat × Nat)
  deriving DecidableEq, Repr

/-! ### Who moves, and the whole machine -/

/-- Which warp issues. -/
structure Cursor where
  crew : Nat
  wid : Nat
  eid : Nat
  pc : BitVec 56
  bits : BitVec 128
  deriving DecidableEq, Repr
/-- Log entry 4: what may move next. -/
inductive Move
  | issue (crew wid : Nat)
  | issueLate (crew wid : Nat)
  | lanePerform (crew id : Nat)
  | sorrel
  | event (i : Instr)
  | pass (cycles : Nat)
  | hostWrite (addr : Nat) (bytes : List Byte)
  | arrive (port : Nat) (bytes : List Byte)
  | transmit (port vl : Nat)
  | writeBack (line : Nat)
  | l1Replace (core line : Nat)
  | tlbReplace (i : Nat)
  | dramRequest (ctx : Option Nat) (touched : List Nat)
  | route (dst port : Nat)
  | scrubEnd (stack : Nat)
  | tokenMap (token : Word) (desc : Nat)
  | island (n : Nat) (on : Bool)
  | temperature (socket : Nat) (x : Nat)
  | barWrite (bar off : Nat) (bytes : List Byte)
  | linkErrors (port n : Nat)
  | laneFail (port : Nat)
  | cxlBacked (parts : List (Nat × Nat))
  | barRead (bar off n : Nat)
  | coreRead (addr : Nat) (wide : Bool)
  | sidebandRead (die : Nat)
  | sidebandWrite (die : Nat)
  | measure (block : Nat)
  | islandPoint (n volt freq : Nat)
  deriving DecidableEq, Repr

/-- The whole module. -/
structure State where
  cycle : Nat
  tbBase : Nat
  uid : Nat
  drawn : Nat
  agenda : List Move
  cur : Option Cursor
  waited : Bool
  mem : Mem
  dev : List (Nat × Quad)
  ctxs : List Ctx
  crews : List Crew
  rets : List Ret
  l1 : List L1Line
  icache : List (Nat × Nat × Nat)
  qicache : List (Nat × Nat)
  tlb : List TlbEnt
  merge : List MergeEnt
  prgFree : List Nat
  priStopped : Bool
  priAlloc : Nat
  hostOut : List HostMsg
  inval : List Inval
  mig : List MigSlot
  chans : List Chan
  lateWrites : List HeldWrite
  ports : List Port
  routes : List (Nat × Nat)
  ready : List (Half × Nat × Bool)
  holdq : List Packet
  fabOut : List FabOut
  tagNext : Nat
  gang : Gang
  queueProg : List (Nat × List Word)
  due : List Nat
  served : Nat
  sorrel : Option Sorrel
  nodes : List Node
  launches : List Launch
  nextLaunch : Nat
  disp : List (Nat × Nat)
  startPend : List Nat
  tokens : List (Word × Nat)
  ras : Ras
  plat : Plat
  deriving DecidableEq, Repr

/-! ### Values at reset and at launch -/

/-- R324, log entry 15: Chervil's state of a context that never checkpointed. -/
def Ckpt.clear : Ckpt :=
  ⟨0, 0, none, 0, 0, false, 0, [], [], [], [], [], [], [], [], 0, none⟩
/-- A context that nothing has bound. -/
def Ctx.clear (n : Nat) : Ctx :=
  { num := n, bound := false, xlat := List.replicate 13 0, job := 0, dwin := List.replicate 8 0, token := 0, vres := 0
    quadMap := [], stepcount := 0, kernel := none, groups := 0, privBase := 0, privSize := 0, stop := none
    inPlace := false, halted := false, halting := false, brkAt := none, defer := none, trapStop := false, errStop := false, errLine := 0
    primary := none, seconds := [], nsecond := 0, rollWait := false, heldIn := false, cutPause := false, logOn := false
    firstBits := [], poisoned := [], ckpt := Ckpt.clear }
/-- No gang switch at work. -/
def Gang.idle : Gang := ⟨0, 0, [], [], 0, 0, 0, 0, false, 0, 0, [], [], []⟩
/-- R420: a port that has not trained. -/
def Port.down (n : Nat) : Port := ⟨n, false, 4, false, 0, 0, [], [], []⟩
/-- R287: the live slot table at reset: every slot owned by partition 0. -/
def Chan.idle (stack ch : Nat) : Chan := ⟨stack, ch, List.replicate 8 0x8080808080808080#64, 0, [], 0⟩
/-- No error has happened. -/
def Ras.clear : Ras := ⟨[], [], [], [], [], [], [], 0, [], 0, none⟩
/-- Nothing fenced, nothing sent (log entry 15). -/
def Plat.clear : Plat :=
  ⟨false, [], [], [], [], [], List.replicate 6 ⟨List.replicate 32 0, List.replicate 32 0⟩, List.replicate 8 0, [], [], [], [], []⟩

/-- The module right after a package reset: every register at the reset value of its table (absent from `dev`), no
context bound, no memory written, launch numbers from 1 (R393). -/
def State.reset : State :=
  { cycle := 0, tbBase := 0, uid := 0, drawn := 0, agenda := [], cur := none, waited := false
    mem := [], dev := [], ctxs := [], crews := [], rets := [], l1 := [], icache := [], qicache := [], tlb := [], merge := []
    prgFree := List.range 512, priStopped := false, priAlloc := 512, hostOut := [], inval := [], mig := [], chans := [], lateWrites := []
    ports := (List.range 36).map Port.down, routes := [], ready := [], holdq := [], fabOut := [], tagNext := 0
    gang := Gang.idle, queueProg := [], due := [], served := 63, sorrel := none, nodes := [], launches := []
    nextLaunch := 1, disp := [], startPend := [], tokens := [], ras := Ras.clear, plat := Plat.clear }

end Sys2Proof.Machine
end

