-- ==== Sys2Proof/Machine/Memory.lean ====
section
/-! DEFINITION. Memory in canonical form, and the bytes of words (R5). -/
namespace Sys2Proof.Machine

/-- The canonical form: addresses strictly rise and no listed byte is the byte an unlisted address reads as
(log entry 1). -/
def Mem.wf : Mem → Bool
  | [] => true
  | (_, b) :: [] => b != 0
  | (a, b) :: (a', b') :: r => b != 0 && decide (a < a') && Mem.wf ((a', b') :: r)
/-- The byte at an address; an unlisted address reads 0 (log entry 1). -/
def Mem.read : Mem → Nat → Byte
  | [], _ => 0
  | (k, b) :: r, a => if k = a then b else Mem.read r a
/-- The memory with one byte written, in canonical form. -/
def Mem.write : Mem → Nat → Byte → Mem
  | [], a, x => if x = 0 then [] else [(a, x)]
  | (k, b) :: r, a, x =>
    if a < k then (if x = 0 then (k, b) :: r else (a, x) :: (k, b) :: r)
    else if a = k then (if x = 0 then r else (a, x) :: r)
    else (k, b) :: Mem.write r a x
/-- n bytes from an address on. -/
def Mem.bytes (m : Mem) (a n : Nat) : List Byte := (List.range n).map fun i => m.read (a + i)
/-- Bytes written from an address on. -/
def Mem.store : Mem → Nat → List Byte → Mem
  | m, _, [] => m
  | m, a, b :: bs => Mem.store (m.write a b) (a + 1) bs
/-- The cells of [a, a + n) moved to 0. -/
def Mem.section (m : Mem) (a n : Nat) : Mem :=
  (m.filter fun c => decide (a ≤ c.1) && decide (c.1 < a + n)).map fun c => (c.1 - a, c.2)
/-- The memory without [a, a + n). -/
def Mem.erase (m : Mem) (a n : Nat) : Mem := m.filter fun c => !(decide (a ≤ c.1) && decide (c.1 < a + n))
/-- [a, a + n) overwritten by the section `x`, whose cells lie below n. -/
def Mem.overwrite (m : Mem) (a n : Nat) (x : Mem) : Mem :=
  (m.filter fun c => decide (c.1 < a)) ++ (x.filter fun c => decide (c.1 < n)).map (fun c => (c.1 + a, c.2))
    ++ m.filter fun c => decide (a + n ≤ c.1)

/-- R5: little-endian bytes of a number. -/
def leBytes : Nat → Nat → List Byte
  | 0, _ => []
  | n + 1, x => BitVec.ofNat 8 x :: leBytes n (x / 256)
/-- R5: the number of little-endian bytes. -/
def leNat : List Byte → Nat
  | [] => 0
  | b :: bs => b.toNat + 256 * leNat bs
/-- A little-endian number in memory. -/
def Mem.nat (m : Mem) (a n : Nat) : Nat := leNat (m.bytes a n)
/-- The slice [a, a + n) of a list of bytes, read as a number. -/
def sliceNat (bs : List Byte) (a n : Nat) : Nat := leNat ((bs.drop a).take n)

/-- Keys of memory: physical addresses as they are, vault bytes above 2^52 (R18), host memory above 2^53 (R270). -/
def vaultKey (quad off : Nat) : Nat := 2 ^ 52 + quad * 2 ^ 23 + off
def hostKey (a : Nat) : Nat := 2 ^ 53 + a

end Sys2Proof.Machine
end

