-- ==== Sys2Proof/Machine/Num.lean ====
section
/-! DEFINITION. Integer helpers: the readings of R27 and R28, counts and fields. -/
namespace Sys2Proof.Machine

/-- The two's complement reading of the low n bits. -/
def sInt (n : Nat) (x : Nat) : Int :=
  let y := x % 2 ^ n
  if n = 0 then 0 else if y < 2 ^ (n - 1) then (y : Int) else (y : Int) - (2 ^ n : Nat)
/-- The low n bits of an integer, as a natural number (R28: wrapping). -/
def wrapN (n : Nat) (x : Int) : Nat := (x % ((2 ^ n : Nat) : Int)).toNat
/-- R28: the exact result clamped to the range of an n-bit type. -/
def satInt (n : Nat) (signed : Bool) (x : Int) : Int :=
  let lo : Int := if signed then -((2 ^ (n - 1) : Nat) : Int) else 0
  let hi : Int := if signed then ((2 ^ (n - 1) : Nat) : Int) - 1 else ((2 ^ n : Nat) : Int) - 1
  if x < lo then lo else if hi < x then hi else x
/-- The number of 1 bits among the low n. -/
def popcount : Nat → Nat → Nat
  | 0, _ => 0
  | n + 1, x => x % 2 + popcount n (x / 2)
/-- R103: zeros above the highest 1 of n bits. -/
def clzN (n x : Nat) : Nat := if x % 2 ^ n = 0 then n else n - 1 - Nat.log2 (x % 2 ^ n)
/-- R103: zeros below the lowest 1 of n bits. -/
def ctzN : Nat → Nat → Nat
  | 0, _ => 0
  | n + 1, x => if x % 2 = 1 then 0 else 1 + ctzN n (x / 2)
/-- R103: the position, from `p` on, of the 1 bit with exactly i ones below it among n bits. -/
def fnthN : Nat → Nat → Nat → Nat → Option Nat
  | 0, _, _, _ => none
  | n + 1, p, x, i => if x % 2 = 1 then (if i = 0 then some p else fnthN n (p + 1) (x / 2) (i - 1)) else fnthN n (p + 1) (x / 2) i
/-- R103: n bits reversed. -/
def brevN : Nat → Nat → Nat
  | 0, _ => 0
  | n + 1, x => (x % 2) * 2 ^ n + brevN n (x / 2)
/-- ceil(a / b). -/
def ceilDiv (a b : Nat) : Nat := if b = 0 then 0 else (a + b - 1) / b
/-- Bits [hi:lo] of a number. -/
def bitsOf (x hi lo : Nat) : Nat := x / 2 ^ lo % 2 ^ (hi + 1 - lo)
/-- The number with bits [hi:lo] replaced. -/
def putBits (x hi lo v : Nat) : Nat := x - bitsOf x hi lo * 2 ^ lo + v % 2 ^ (hi + 1 - lo) * 2 ^ lo
/-- Insertion into a sorted list, after its equals. -/
def insertBy {α : Type} (le : α → α → Bool) (x : α) : List α → List α
  | [] => [x]
  | y :: r => if le x y then x :: y :: r else y :: insertBy le x r
/-- A stable sort: `le` says which of two goes first. -/
def sortBy {α : Type} (le : α → α → Bool) (l : List α) : List α := l.foldr (insertBy le) []

end Sys2Proof.Machine
end

