-- ==== Sys2Proof/Machine/Ops.lean ====
section
/-! DEFINITION. Named operations over the state: crews, warps, threads, contexts, registers, the frontier, and taking an
exception (R296 to R302) with the return from it (R213). -/
namespace Sys2Proof.Machine

/-! ### Parts of the state -/

/-- The timebase: 1 GHz ticks of the 3.3 GHz cycle count (R6, log entry 2). -/
def State.timebase (s : State) : Quad := BitVec.ofNat 64 (s.tbBase + s.cycle * 10 / 33)
/-- R268: the physical address of a register of a die. -/
def devAddr (die off : Nat) : Nat := Config.devBase + die * 2 ^ 32 + off
/-- The stored value of a device register, `d` where it was never written. -/
def State.devD (s : State) (a : Nat) (d : Quad) : Quad := ((s.dev.find? fun x => x.1 == a).map (·.2)).getD d
/-- A host-die register whose reset value is 0. -/
def State.host (s : State) (off : Nat) : Quad := s.devD (devAddr 0 off) 0
/-- Insert into a list of keyed values with rising keys. -/
def putKey (k : Nat) (v : Quad) : List (Nat × Quad) → List (Nat × Quad)
  | [] => [(k, v)]
  | (a, b) :: r => if k < a then (k, v) :: (a, b) :: r else if k = a then (k, v) :: r else (a, b) :: putKey k v r
/-- A device register set to a value, whatever its access codes (the device's own writes). -/
def State.setDev (s : State) (a : Nat) (v : Quad) : State := { s with dev := putKey a v s.dev }
/-- The same for a host-die register. -/
def State.setHost (s : State) (off : Nat) (v : Quad) : State := s.setDev (devAddr 0 off) v
/-- Bits [hi:lo] of a host-die register. -/
def State.hostF (s : State) (off hi lo : Nat) : Nat := bitsOf (s.host off).toNat hi lo
/-- Bits [hi:lo] of a host-die register set. -/
def State.setHostF (s : State) (off hi lo v : Nat) : State :=
  s.setHost off (BitVec.ofNat 64 (putBits (s.host off).toNat hi lo v))

/-- The block bases of host-die registers: R268, R284, R303, R320, R364, R377, R378. -/
def xlatOff (n : Nat) : Nat := 0x200000 + 0x100 * n
def migOff (n : Nat) : Nat := 0x400000 + 0x20 * n
def ctxOff (n : Nat) : Nat := 0x500000 + 0x100 * n
def ckptOff (n : Nat) : Nat := 0x600000 + 0x100 * n
def logOff (n : Nat) : Nat := 0xA00000 + 0x100 * n
def aperOff (n : Nat) : Nat := 0x880000 + 0x100 * n
def queueOff (n : Nat) : Nat := 0xC00000 + 0x100 * n
/-- R397: quad 0 of a bind record. -/
def bindAddr (core slot : Nat) : Nat := devAddr (3 + core / 64) (0x300000 + 0x200 * (core % 64) + 0x10 * slot)

/-- A context; one that nothing touched is clear. -/
def State.ctx (s : State) (n : Nat) : Ctx := (s.ctxs.find? fun c => c.num == n).getD (Ctx.clear n)
/-- A context put back. -/
def putCtx (x : Ctx) : List Ctx → List Ctx
  | [] => [x]
  | c :: r => if x.num < c.num then x :: c :: r else if x.num = c.num then x :: r else c :: putCtx x r
def State.setCtx (s : State) (x : Ctx) : State := { s with ctxs := putCtx x s.ctxs }
def State.modCtx (s : State) (n : Nat) (g : Ctx → Ctx) : State := s.setCtx (g (s.ctx n))
/-- A crew by identifier. -/
def State.crew? (s : State) (id : Nat) : Option Crew := s.crews.find? fun c => c.id == id
def State.setCrew (s : State) (c : Crew) : State := { s with crews := s.crews.map fun k => if k.id = c.id then c else k }
def State.modCrew (s : State) (id : Nat) (g : Crew → Crew) : State :=
  { s with crews := s.crews.map fun k => if k.id = id then g k else k }
/-- A warp of a crew. -/
def Crew.warp? (c : Crew) (wid : Nat) : Option Warp := c.warps.find? fun w => w.wid == wid
def Crew.setWarp (c : Crew) (w : Warp) : Crew := { c with warps := c.warps.map fun k => if k.wid = w.wid then w else k }
def Crew.modWarp (c : Crew) (wid : Nat) (g : Warp → Warp) : Crew :=
  { c with warps := c.warps.map fun k => if k.wid = wid then g k else k }
/-- A thread of a crew. -/
def Crew.modThread (c : Crew) (tid : Nat) (g : Thread → Thread) : Crew := { c with threads := c.threads.modify tid g }
def Crew.shape (c : Crew) : Shape := c.kernel.shape
/-- R15: the compute die (0 to 9) and the package quad of a core. -/
def dieOf (core : Nat) : Nat := core / 64
def quadOf (core : Nat) : Nat := core / 4
/-- The core a warp runs on: its landing core while it is away (R241). -/
def Crew.warpCore (c : Crew) (w : Warp) : Nat := match w.away with | some a => a.core | none => c.core
/-- R304: the warps of a context's crews may issue; a stop of one crew leaves the others running (R308). -/
def Ctx.runs (x : Ctx) : Bool := x.bound && (match x.stop with | some j => j.kind == 1 | none => true) && !x.inPlace && !x.halted && !x.rollWait && !x.heldIn && !x.cutPause
def Crew.runs (s : State) (c : Crew) : Bool := (s.ctx c.ctx).runs && c.started && !c.stopped
/-- R304: a stop that is under way has not reached the crew's warps yet: until it completes, some of them may still issue (log entry
136). -/
def Crew.lags (s : State) (c : Crew) : Bool :=
  let x := s.ctx c.ctx
  x.bound && c.started && !x.inPlace && !x.halted && !x.rollWait && !x.heldIn && !x.cutPause
    && (match x.stop with | some j => !c.stopped || (j.kind == 1 && j.pos == c.pos) | none => false)
/-- A unit added to the dirty units of a context. -/
def markDirty (s : State) (ctx : Nat) (u : CkUnit) : State :=
  let x := s.ctx ctx
  if x.ckpt.dirty.contains u then s else s.setCtx { x with ckpt := { x.ckpt with dirty := x.ckpt.dirty ++ [u] } }
/-- Units added to them. -/
def markAll (s : State) (ctx : Nat) (us : List CkUnit) : State := us.foldl (fun s u => markDirty s ctx u) s
/-- R225: lanes of one warp slot: a width-8 slot holds two warps, and a width-128 warp takes two slots. -/
def slotLanes (sh : Shape) : Nat := match sh.width with | 0 => 32 | 8 => 16 | 128 => 64 | w => w
/-- R323: the register rows that registers of a thread lie in; a thread's registers stand in the slot of its number (log entry 28). -/
def Crew.rowsOf (c : Crew) (tid : Nat) (regs : List Nat) : List CkUnit :=
  regs.map fun r => CkUnit.row c.pos (tid / slotLanes c.kernel.shape) (r / 16)
/-- A fresh identifier. -/
def State.fresh (s : State) : Nat × State := (s.uid, { s with uid := s.uid + 1 })
/-- A free value (log entry 14). -/
def State.draw (s : State) : Quad × State := (Config.freeQuad s.drawn, { s with drawn := s.drawn + 1 })

/-! ### Registers of a thread -/

/-- A `v` register; an index the thread does not have reads 0. -/
def Thread.reg (t : Thread) (n : Nat) : Word := t.v.getD n 0
/-- The pair vn, vn+1 (R27). -/
def Thread.pair (t : Thread) (n : Nat) : Quad := t.reg (n + 1) ++ t.reg n
/-- Whether the registers n to n + k - 1 are all full. -/
def Thread.isFull (t : Thread) (n k : Nat) : Bool := (List.range k).all fun i => t.full.getD (n + i) true
/-- A register written and full. -/
def Thread.setReg (t : Thread) (n : Nat) (x : Word) : Thread := { t with v := t.v.set n x, full := t.full.set n true }
/-- A register marked empty. -/
def Thread.setEmpty (t : Thread) (n k : Nat) : Thread :=
  { t with full := (List.range k).foldl (fun f i => f.set (n + i) false) t.full }
/-- The words of a list written to consecutive registers. -/
def Thread.setRegs (t : Thread) (ws : List (Nat × Word)) : Thread := ws.foldl (fun t w => t.setReg w.1 w.2) t
def Thread.pred (t : Thread) (n : Nat) : Bool := t.p.getLsbD n
def Thread.setPred (t : Thread) (n : Nat) (b : Bool) : Thread :=
  { t with p := if b then t.p ||| (1 : BitVec 96) <<< n else t.p &&& ~~~((1 : BitVec 96) <<< n) }
def Thread.link (t : Thread) (n : Nat) : LinkReg := t.links.getD n LinkReg.clear
def Thread.setLink (t : Thread) (n : Nat) (l : LinkReg) : Thread := { t with links := t.links.set n l }
/-- Sticky flags set (R36). -/
def Thread.raise (t : Thread) (fl : BitVec 5) : Thread := { t with fpflags := t.fpflags ||| fl.setWidth 32 }
/-- R37: the flags among `fl` whose enables are set. -/
def Thread.enabled (t : Thread) (fl : BitVec 5) : BitVec 5 := fl &&& (t.fpctl >>> 8).setWidth 5
/-- R145: any trap enable is set. -/
def Thread.anyEnable (t : Thread) : Bool := (t.fpctl >>> 8).setWidth 5 != (0 : BitVec 5)

/-! ### The frontier: R110 -/

def maskOf (lanes : List Nat) : Mask := lanes.foldl (fun m i => m ||| (1 : Mask) <<< i) 0
def lanesOf (w : Nat) (m : Mask) : List Nat := (List.range w).filter fun i => m.getLsbD i
/-- R390: the priority recorded for an address. -/
def Kernel.prioAt (k : Kernel) (pc : BitVec 56) : Nat :=
  k.prio.foldl (fun p x => if x.1 ≤ pc.toNat then x.2 else p) 0
/-- Lanes placed at an address: they merge with an entry there that is not held (R110). -/
def placeLanes (k : Kernel) (eid : Nat) (pc : BitVec 56) (m : Mask) (es : List Entry) : List Entry :=
  if m = 0 then es
  else if es.any fun e => e.hold == .none && e.pc == pc then
    es.map fun e => if e.hold == .none && e.pc == pc then { e with mask := e.mask ||| m, prio := k.prioAt pc } else e
  else es ++ [⟨eid, pc, m, k.prioAt pc, .none, [], 0⟩]
/-- A held entry placed; it never merges (R110). -/
def placeHeld (eid : Nat) (pc : BitVec 56) (prio : Nat) (h : Hold) (m : Mask) (es : List Entry) : List Entry :=
  if m = 0 then es else es ++ [⟨eid, pc, m, prio, h, [], 0⟩]
/-- Lanes removed from every entry; an entry without lanes goes. -/
def dropLanes (m : Mask) (es : List Entry) : List Entry :=
  (es.map fun e => { e with mask := e.mask &&& ~~~m }).filter fun e => e.mask != 0
/-- A non-control instruction moves its entry on; it merges with an entry that is not held and stands there (R110). -/
def advanceEntry (k : Kernel) (eid len : Nat) (es : List Entry) : List Entry :=
  match es.find? fun e => e.eid == eid with
  | none => es
  | some e =>
    let pc := e.pc + BitVec.ofNat 56 len
    if es.any fun x => x.eid != eid && x.hold == .none && x.pc == pc then
      placeLanes k eid pc e.mask (es.filter fun x => x.eid != eid)
    else es.map fun x => if x.eid = eid then { x with pc := pc } else x
/-- R236, R118: the entries after one issue from entry `eid`; only those of `old` stood beside it. -/
def noteIssue (eid : Nat) (old : List Nat) (es : List Entry) : List Entry :=
  es.map fun e => { e with idle := if e.eid = eid || !old.contains e.eid then 0 else e.idle + 1, yield := e.yield.filter (· != eid) }
/-- R118: the entry may issue: not held, and every entry it yields to has issued or can no longer issue. -/
def Entry.issuable (e : Entry) (es : List Entry) : Bool :=
  e.hold == .none && !(e.yield.any fun y => es.any fun x => x.eid == y && x.hold == .none)
/-- R238: the current entry: the highest priority, then the lowest address, among those that may issue. -/
def currentEntry (es : List Entry) : Option Entry :=
  (es.filter fun e => e.issuable es).foldl (fun b e =>
    match b with
    | none => some e
    | some x => if x.prio < e.prio ∨ (x.prio = e.prio ∧ e.pc.toNat < x.pc.toNat) then some e else some x) none
/-- The live lanes of a warp. -/
def Warp.live (w : Warp) : Mask := w.entries.foldl (fun m e => m ||| e.mask) 0

/-! ### Results of a meaning -/

/-- A trap that an instruction raises (R297). `after` restarts after the instruction; `tinst` names another
instruction than the one that surfaces it (R279). -/
structure Trap where
  cls : Nat
  cause : Nat
  tval : Quad
  lanes : Mask
  after : Bool := false
  mstep : Nat := 0
  tinst : Option (BitVec 56) := none
  note : TrapNote := .none
  deriving DecidableEq, Repr
/-- What a meaning's body answers: go on, wait at issue (in the same state, or in one that notes what it waits for), trap (in a
state where only flags were set), or stop. -/
inductive Res
  | go (s : State)
  | wait
  | stall (s : State)
  | trap (s : State) (t : Trap)
  | refuse (r : Refusal)

/-! ### Taking an exception: R296 to R302 -/

/-- R296: `tcause`. -/
def tcauseOf (t : Trap) : Word := BitVec.ofNat 32 (t.cls * 2 ^ 24 + t.cause % 256 * 2 ^ 16 + t.mstep % 32 * 2 ^ 8)
/-- R298: the record of a trap at an instruction at `pc` of `len` bytes. -/
def trapRec (s : State) (t : Trap) (pc : BitVec 56) (len : Nat) : TrapRec :=
  { tcause := tcauseOf t, tpc := ((if t.after then pc + BitVec.ofNat 56 len else pc)).setWidth 64, tval := t.tval
    tinst := ((t.tinst.getD pc)).setWidth 64, tmask := t.lanes, time := s.timebase, note := t.note }
/-- R302, R363: causes that never enter a user handler. -/
def errorTrap (cls cause : Nat) : Bool := cls == 9 && (cause == 2 || cause == 3)
/-- R301: the kernel has a handler that takes this trap. -/
def handled (c : Crew) (cls cause : Nat) : Bool :=
  c.kernel.trapVA != 0 && c.kernel.shape.width != 0 && decide (1 ≤ cls) && decide (cls ≤ 10) && !errorTrap cls cause
/-- R303: `CTX_DBG.HALTEN` of a context. -/
def State.haltEn (s : State) (ctx : Nat) : Bool := s.hostF (ctxOff ctx + 0x18) 0 0 == 1
/-- R317: the first four secondary traps are recorded, the rest are counted. -/
def Ctx.addSecond (x : Ctx) (crew : Nat) (r : TrapRec) : Ctx :=
  { x with nsecond := x.nsecond + 1, seconds := if x.seconds.length < 4 then x.seconds ++ [(crew, r)] else x.seconds }
/-- R302: a trap stop begins; a debugger halt instead of a termination when HALTEN is 1. -/
def trapStop (s : State) (ctx pos wid reason : Nat) (err : Bool) (r : TrapRec) : State :=
  let kind := if s.haltEn ctx then 5 else 4
  let s := s.modCtx ctx fun x =>
    { x with trapStop := true, errStop := err, primary := some (r, pos, wid), stop := some ⟨kind, reason, 0⟩
             halting := kind == 5 }
  let s := s.setHostF (ctxOff ctx) 55 52 reason
  if kind = 5 then (s.setHostF (ctxOff ctx + 0x18) 6 5 1).setHostF (ctxOff ctx + 0x18) 7 7 1 else s
/-- R300: a stop under way that takes in the crew at a position: a stop of the whole context, or of that crew (R303). -/
def Ctx.holds (x : Ctx) (pos : Nat) : Bool := match x.stop with | some j => j.kind != 1 || j.pos == pos | none => false
/-- R300, R305: a trap recorded in its warp and left pending; its entry stands at the restart point. -/
def Warp.keepTrap (w : Warp) (r : TrapRec) (eid : Nat) : Warp :=
  { w with trap := some r, trapEid := eid
           entries := if w.handler.isSome then w.entries
             else w.entries.map fun e => if e.eid = eid then { e with pc := r.tpc.setWidth 56 } else e }
/-- R302, R317: a trap that no warp can hold, of an access whose warp is gone or of a thread in the pool. -/
def warplessTrap (s : State) (c : Crew) (wid : Nat) (r : TrapRec) : State :=
  let x := s.ctx c.ctx
  if x.trapStop then s.setCtx (x.addSecond c.pos r) else trapStop s c.ctx c.pos wid 5 false r
/-- R301, R302, R317, R300: a trap of a warp: a secondary of a trap stop, pending under another stop, into the user
handler, or a trap stop of the whole context. A trap raised in handler mode is a handler-state trap (R212), but for the
illegal link state of `lwr` (R214, log entry 21). -/
def takeTrap (s : State) (crew wid eid : Nat) (pc : BitVec 56) (len : Nat) (t : Trap) : State :=
  match s.crew? crew with
  | none => s
  | some c =>
    match c.warp? wid with
    | none => s
    | some w =>
      let t := if w.handler.isSome && !errorTrap t.cls t.cause && !(t.cls == 5 && t.cause == 4) then
          { t with cls := 12, cause := 0, tval := pc.setWidth 64, mstep := 0, after := false, tinst := none } else t
      let r := trapRec s t pc len
      let x := s.ctx c.ctx
      let keep := w.keepTrap r eid
      if x.trapStop then (s.setCrew (c.setWarp keep)).setCtx (x.addSecond c.pos r)
      else if x.holds c.pos then s.setCrew (c.setWarp keep)
      else if handled c t.cls t.cause && w.handler.isNone then
        s.setCrew (c.setWarp { w with handler := some ⟨BitVec.ofNat 56 c.kernel.trapVA, r, eid⟩, trap := none })
      else
        trapStop (s.setCrew (c.setWarp keep)) c.ctx c.pos wid (if t.cls = 11 then 6 else 5) (errorTrap t.cls t.cause) r
/-- R110: an entry put at an address, merging with one that is not held there. -/
def landEntry (k : Kernel) (eid : Nat) (pc : BitVec 56) (es : List Entry) : List Entry :=
  match es.find? fun e => e.eid == eid with
  | none => es
  | some e =>
    let rest := es.filter fun x => x.eid != eid
    if e.hold == .none && rest.any fun x => x.hold == .none && x.pc == pc then placeLanes k eid pc e.mask rest
    else es.map fun x => if x.eid = eid then { x with pc := pc } else x
/-- R213: leaving handler mode: the trapping entry continues at `tpc`, the others as they stood. `tpc` is taken as a
program counter: bits [55:2] (log entry 16). A deprecated instruction that the handler leaves keeps no record (log entry 22). -/
def returnFromTrap (k : Kernel) (w : Warp) (h : Handler) : Warp :=
  let pc : BitVec 56 := h.record.tpc.setWidth 56 &&& ~~~3
  let moved := w.entries.any fun e => e.eid == h.eid && e.pc != pc
  let drop := match w.micro with | some m => m.eid == h.eid && moved | none => false
  { w with handler := none, entries := landEntry k h.eid pc w.entries, micro := if drop then none else w.micro }
/-- R300: a pending trap discarded: the warp goes on from the trap's restart point. -/
def dropTrap (k : Kernel) (w : Warp) : Warp :=
  match w.trap with
  | none => w
  | some r => { w with trap := none, entries := if w.handler.isSome then w.entries else landEntry k w.trapEid (r.tpc.setWidth 56) w.entries }
/-- R300, R315: a trap that was pending at a stop is delivered before any issue, with SAVED = 1. -/
def deliverPending (s : State) (crew wid : Nat) : State :=
  match s.crew? crew with
  | none => s
  | some c =>
    match c.warp? wid with
    | none => s
    | some w =>
      match w.trap with
      | none => s
      | some r =>
        let r := { r with tcause := r.tcause ||| 1 }
        let cls := bitsOf r.tcause.toNat 27 24
        let cause := bitsOf r.tcause.toNat 23 16
        if handled c cls cause && w.handler.isNone then
          s.setCrew (c.setWarp { w with handler := some ⟨BitVec.ofNat 56 c.kernel.trapVA, r, w.trapEid⟩, trap := none })
        else trapStop (s.setCrew (c.setWarp { w with trap := some r })) c.ctx c.pos wid (if cls = 11 then 6 else 5)
          (errorTrap cls cause) r

end Sys2Proof.Machine
end

