-- ==== Sys2Proof/Machine/Devregs.lean ====
section
/-! DEFINITION. The device registers: the field maps of R268 to R409 with their access codes and reset values (R7), reads
and the generic part of a write. -/
namespace Sys2Proof.Machine

/-- R7: the access codes. -/
inductive Acc
  | ro | rw | w1c | w1s | wo
  deriving DecidableEq, Repr
/-- A field: most significant bit, least significant bit, access, reset value. -/
structure Fld where
  hi : Nat
  lo : Nat
  acc : Acc
  reset : Nat := 0
  deriving DecidableEq, Repr

/-- Fields that are read and written. -/
def rwF (l : List (Nat × Nat)) : List Fld := l.map fun x => ⟨x.1, x.2, .rw, 0⟩
/-- Fields that are read only. -/
def roF (l : List (Nat × Nat)) : List Fld := l.map fun x => ⟨x.1, x.2, .ro, 0⟩
def w1s (b : Nat) : Fld := ⟨b, b, .w1s, 0⟩
def w1c (b : Nat) : Fld := ⟨b, b, .w1c, 0⟩
/-- Offset inside a block of `count` records of `size` bytes that starts at `base`. -/
def inBlock (off base size count : Nat) : Option Nat :=
  if base ≤ off ∧ off < base + size * count then some ((off - base) % size) else none

/-- R268, R272. -/
def xlatFields (o : Nat) : Option (List Fld) :=
  if o = 0x00 then some (rwF [(51, 8)])
  else if o = 0x08 then some (rwF [(25, 25), (23, 20), (19, 0)])
  else if o = 0x10 ∨ o = 0x18 then some (rwF [(55, 16)])
  else if o = 0x20 then some (rwF [(63, 16)])
  else if 0x28 ≤ o ∧ o ≤ 0x60 ∧ o % 8 = 0 then some (rwF [(55, 16), (0, 0)])
  else none
/-- R303, R398, R419. -/
def ctxFields (o : Nat) : Option (List Fld) :=
  if o = 0x00 then some (roF [(63, 63), (61, 59)] ++ [w1c 62, w1s 0] ++ rwF [(58, 56), (55, 52), (28, 6)])
  else if o = 0x08 then some (rwF [(51, 12)])
  else if o = 0x10 then some (rwF [(47, 12)])
  else if o = 0x18 then some ([w1s 8, w1s 3, w1s 2] ++ roF [(7, 7), (6, 5), (4, 4)] ++ rwF [(0, 0)])
  else if o = 0x20 then some (rwF [(51, 12), (1, 1)] ++ [w1s 0])
  else if o = 0x28 then some (roF [(63, 63), (61, 60)] ++ [w1c 62] ++ rwF [(47, 12)])
  else if o = 0x30 then some (rwF [(19, 19), (18, 16), (15, 0)])
  else if o = 0x38 then some (rwF [(31, 0)])
  else if 0x40 ≤ o ∧ o < 0x80 ∧ o % 0x10 = 0 then some (rwF [(51, 3), (0, 0)])
  else if 0x40 ≤ o ∧ o < 0x80 ∧ o % 0x10 = 8 then some (rwF [(31, 0)])
  else none
/-- R320. -/
def ckptFields (o : Nat) : Option (List Fld) :=
  if o = 0x00 then some (roF [(63, 63), (62, 62), (61, 59)] ++ [w1s 4, w1s 3] ++ rwF [(2, 2), (1, 1), (0, 0)])
  else if o = 0x08 ∨ o = 0x10 then some (rwF [(63, 0)])
  else if o = 0x18 then some (roF [(63, 32), (31, 28), (15, 0)])
  else if o = 0x20 ∨ o = 0x28 ∨ o = 0x30 ∨ o = 0x40 then some (roF [(63, 0)])
  else if o = 0x38 then some (rwF [(22, 0)])
  else none
/-- R321, R336. -/
def chervilFields (o : Nat) : Option (List Fld) :=
  if o = 0x00 ∨ o = 0x20 then some (rwF [(51, 12)])
  else if o = 0x08 then some (rwF [(47, 12)])
  else if o = 0x10 then some (rwF [(47, 6)])
  else if o = 0x18 then some (roF [(47, 6)])
  else if o = 0x28 ∨ o = 0x38 then some (rwF [(31, 0)])
  else if o = 0x30 then some (rwF [(51, 15)])
  else if o = 0x40 then some (rwF [(5, 0)])
  else if o = 0x48 then some (rwF [(51, 6)])
  else if o = 0x50 then some (roF [(63, 63), (61, 58)] ++ [w1c 62, w1s 0] ++ rwF [(15, 8)])
  else if o = 0x60 ∨ o = 0x68 ∨ o = 0x70 ∨ o = 0x78 then some (roF [(63, 0)])
  else none
/-- R344, R345. -/
def fabFields (o : Nat) : Option (List Fld) :=
  if o = 0x00 then some (roF [(63, 63), (61, 58), (57, 55)] ++ [w1c 62, w1s 1, w1s 0] ++ rwF [(47, 40), (39, 24), (23, 8), (2, 2)])
  else if o = 0x08 ∨ o = 0x10 then some (rwF [(63, 0)])
  else if o = 0x18 then some (rwF [(51, 12)])
  else if o = 0x20 then some (rwF [(63, 52), (47, 12)])
  else if o = 0x28 then some (roF [(63, 40), (39, 24), (23, 8), (7, 0)])
  else if o = 0x30 then some (rwF [(12, 12), (11, 0)])
  else none
/-- R355, R377. -/
def aperFields (o : Nat) : Option (List Fld) :=
  if o = 0x00 then some (rwF [(55, 16)])
  else if o = 0x08 then some (rwF [(43, 16)])
  else if o = 0x10 then some (rwF [(1, 1), (0, 0)])
  else if o = 0x18 then some (rwF [(51, 12), (11, 0)])
  else if o = 0x20 then some (roF [(47, 32), (15, 0)])
  else none
/-- R369, R374, R375. -/
def rasFields (o : Nat) : Option (List Fld) :=
  if o = 0x00 then some (w1c 63 :: roF [(13, 0)])
  else if o = 0x08 then some (rwF [(9, 0)])
  else if o = 0x10 then some (rwF [(51, 34)])
  else if o = 0x18 then some (roF [(63, 61)] ++ rwF [(7, 4)] ++ [w1s 1, w1s 0])
  else none
/-- R364. -/
def logFields (o : Nat) : Option (List Fld) :=
  if o = 0x00 then some (roF [(63, 63), (61, 60), (1, 1)] ++ [w1c 62, w1s 2] ++ rwF [(0, 0)])
  else if o = 0x08 then some (rwF [(51, 12)])
  else if o = 0x10 then some (rwF [(31, 0)])
  else if o = 0x18 then some (roF [(31, 0)])
  else if o = 0x20 then some (rwF [(51, 16), (0, 0)])
  else none
/-- R378, R384. -/
def queueFields (o : Nat) : Option (List Fld) :=
  if o = 0x00 then some (rwF [(51, 6)])
  else if o = 0x08 then some (rwF [(51, 4)])
  else if o = 0x10 then some (roF [(9, 9)] ++ rwF [(8, 8), (4, 0)])
  else if o = 0x18 then some (rwF [(63, 0)])
  else if o = 0x20 then some (roF [(63, 0)])
  else if o = 0x28 then some (rwF [(51, 7), (5, 0)])
  else if o = 0x30 then some (w1c 63 :: roF [(62, 59), (58, 53)])
  else if o = 0x38 then some (rwF [(15, 0)])
  else if 0x40 ≤ o ∧ o < 0x80 ∧ o % 0x10 = 0 then some (rwF [(51, 3), (1, 1), (0, 0)])
  else if 0x40 ≤ o ∧ o < 0x80 ∧ o % 0x10 = 8 then some (rwF [(31, 0)])
  else none
/-- The registers of the host die, by offset. -/
def hostFields (off : Nat) : Option (List Fld) :=
  if off % 8 ≠ 0 then none
  else match inBlock off 0x200000 0x100 256 with
  | some o => xlatFields o
  | none => match inBlock off 0x400000 0x20 16 with
  | some o => if o = 0 ∨ o = 8 then some (rwF [(57, 56), (51, 15)])
      else if o = 0x10 then some (roF [(63, 61)] ++ [w1s 1, w1s 0]) else none
  | none => match inBlock off 0x500000 0x100 256 with
  | some o => ctxFields o
  | none => match inBlock off 0x600000 0x100 256 with
  | some o => ckptFields o
  | none => match inBlock off 0x880000 0x100 256 with
  | some o => aperFields o
  | none => match inBlock off 0xA00000 0x100 256 with
  | some o => logFields o
  | none => match inBlock off 0xC00000 0x100 64 with
  | some o => queueFields o
  | none =>
    if off = 0x300000 then some (rwF [(55, 15)])
    else if off = 0x300008 then some (roF [(63, 63)] ++ [w1c 62, w1s 0] ++ rwF [(61, 60), (59, 52), (51, 32)])
    else if 0x700000 ≤ off ∧ off < 0x700080 then chervilFields (off - 0x700000)
    else if 0x800000 ≤ off ∧ off < 0x800038 then fabFields (off - 0x800000)
    else if 0x900000 ≤ off ∧ off < 0x910000 then some (rwF [(51, 16), (0, 0)])
    else if 0x910000 ≤ off ∧ off < 0x910020 then rasFields (off - 0x910000)
    else if off = 0xD00000 then some (rwF [(51, 12), (4, 0)])
    else if off = 0xD00008 then some (roF [(31, 0)])
    else if 0xD10000 ≤ off ∧ off < 0xD30000 then some (roF [(63, 0)])
    else if off = 0xD30000 then some [⟨31, 0, .wo, 0⟩]
    else if off = 0xD30008 then some [⟨31, 0, .ro, 1⟩]
    else if off = 0xE00000 then some (w1c 63 :: roF [(61, 56), (15, 8), (3, 0)])
    else if off = 0xE00008 then some (roF [(13, 8), (5, 0)])
    else if off = 0xE00010 then some (roF [(63, 63)] ++ rwF [(39, 32), (31, 8)] ++ [w1s 0])
    else if off = 0xE00018 then some (rwF [(5, 0)])
    else if 0xE20000 ≤ off ∧ off < 0xE28000 then some (roF [(63, 0)])
    else if 0xE30000 ≤ off ∧ off < 0xE30100 then
      some (if off % 16 = 0 then rwF [(51, 30)] else rwF [(51, 30), (0, 0)])
    else none
/-- R373, R397: the registers of a compute die. -/
def computeFields (off : Nat) : Option (List Fld) :=
  if off = 0x100000 then some (rwF [(31, 31), (27, 24), (23, 23), (19, 16), (15, 15), (11, 8), (7, 7), (3, 0)])
  else if 0x300000 ≤ off ∧ off < 0x308000 then
    if off % 16 = 0 then some (rwF [(63, 63)] ++ roF [(62, 62)] ++ rwF [(61, 59), (58, 51), (50, 28), (27, 21)])
    else if off % 16 = 8 then some (rwF [(63, 32), (31, 22), (21, 11), (10, 5)]) else none
  else none
/-- R287, R371: the registers of a memory stack. -/
def stackFields (off : Nat) : Option (List Fld) :=
  match inBlock off 0x100000 0x100 32 with
  | some o =>
    if o = 0 then some (w1s 8 :: rwF [(7, 4), (0, 0)])
    else if o = 8 then some [⟨63, 0, .rw, 0x7777777777777777⟩]
    else if 0x10 ≤ o ∧ o < 0x50 ∧ o % 8 = 0 then
      some ((List.range 8).flatMap fun b => [⟨8 * b + 7, 8 * b + 7, .rw, 1⟩, ⟨8 * b + 3, 8 * b, .rw, 0⟩])
    else none
  | none => if off = 0x200000 then some [⟨63, 32, .rw, 0x1000⟩, ⟨0, 0, .rw, 1⟩] else none
/-- The fields of the register at a physical address; none where no rule lists a register. -/
def regFields (a : Nat) : Option (List Fld) :=
  let die := (a - Config.devBase) / 2 ^ 32
  let off := (a - Config.devBase) % 2 ^ 32
  if die = 0 then hostFields off
  else if 3 ≤ die ∧ die ≤ 12 then computeFields off
  else if 13 ≤ die ∧ die ≤ 24 then stackFields off
  else none
/-- R12: a reserved die address: sockets 25 to 31, deck 1 of a socket that is no compute socket, or no die address. -/
def dieReserved (a : Nat) : Bool :=
  let die := (a - Config.devBase) / 2 ^ 32
  let sock := die % 32
  decide (25 ≤ sock) || decide (64 ≤ die) || (decide (32 ≤ die) && !(decide (3 ≤ sock) && decide (sock ≤ 12)))
/-- The reset value of a register. -/
def resetOf (fs : List Fld) : Quad :=
  BitVec.ofNat 64 (fs.foldl (fun n f => n + f.reset * 2 ^ f.lo) 0)
/-- The mask of bits [hi:lo]. -/
def fldMask (f : Fld) : Quad := BitVec.ofNat 64 ((2 ^ (f.hi + 1 - f.lo) - 1) * 2 ^ f.lo)
/-- R303: `CTX_DBG.FPEND` of a context. -/
def State.fpend (s : State) (ctx : Nat) : Bool :=
  s.crews.any fun c => c.ctx == ctx && c.warps.any fun w => w.trap.isSome
/-- R7: the W1S bits that read 1: a write sets a command's bit, and it reads 1 until that command has ended (log entry 51). FULL and
COMMIT are kept in their registers (R287, R320). -/
def State.commandBits (s : State) (off : Nat) : Quad :=
  let f (hi lo v : Nat) : Bool := s.hostF off hi lo == v
  let on (b : Bool) (n : Nat) : Quad := if b then (1 : Quad) <<< n else 0
  match inBlock off 0x400000 0x20 16, inBlock off 0x500000 0x100 256, inBlock off 0x600000 0x100 256, inBlock off 0xA00000 0x100 256 with
  | some 0x10, _, _, _ => on (f 63 61 1) 0
  | _, some 0x00, _, _ => on (f 63 63 1) 0
  | _, some 0x18, _, _ => on (s.ctx ((off - 0x500000) / 0x100)).halting 2
  | _, some 0x20, _, _ => on (s.hostF (off + 8) 63 63 == 1) 0
  | _, _, some 0x00, _ => on (f 61 59 1 || f 62 62 1) 3
  | _, _, _, some 0x00 => on (f 63 63 1) 2
  | _, _, _, _ =>
    if off = 0x300008 ∨ off = 0x700050 ∨ off = 0xE00010 then on (f 63 63 1) 0
    else if off = 0x800000 then on (decide (1 ≤ s.gang.phase) && decide (s.gang.phase ≤ 3)) 0 ||| on (s.gang.phase == 5) 1
    else if off = 0x910018 then on (f 63 61 1) 0
    else 0
/-- The value a register reads as (R7, R321 for the fused key, R303 for FPEND). -/
def State.devRead (s : State) (a : Nat) : Option Quad :=
  match regFields a with
  | none => none
  | some fs =>
    let off := (a - Config.devBase)
    if 0x700060 ≤ off ∧ off < 0x700080 then some (Config.fusedKey ((off - 0x700060) / 8))
    else
      let v := s.devD a (resetOf fs) ||| (if off < 2 ^ 32 then s.commandBits off else 0)
      match inBlock off 0x500000 0x100 256 with
      | some 0x18 =>
        let n := (off - 0x500000) / 0x100
        some (if s.fpend n then v ||| 0x80 else v &&& ~~~(0x80 : Quad))
      | _ => some v
/-- A register's value by address, 0 where none is listed. -/
def State.reg (s : State) (a : Nat) : Quad := (s.devRead a).getD 0
/-- R7: the generic effect of writing the bits of `m` from `x` on a stored value. -/
def fldWrite (old x m : Quad) (f : Fld) : Quad :=
  let k := fldMask f &&& m
  match f.acc with
  | .ro => old
  | .rw => (old &&& ~~~k) ||| (x &&& k)
  | .w1c => old &&& ~~~(x &&& k)
  | .w1s => old ||| (x &&& k)
  | .wo => old &&& ~~~(fldMask f)
/-- R7: a register after a write, by its field map alone. -/
def genericWrite (fs : List Fld) (old x m : Quad) : Quad := fs.foldl (fun v f => fldWrite v x m f) old
/-- R12, R406: a reserved die address was named. An address beyond die 63 names no die address: it counts as reserved, and DIE takes its
number modulo 64 (DESIGN CHOICE, log entry 143). -/
def noteUnreach (s : State) (a : Nat) : State :=
  if s.hostF 0xE00000 63 63 = 1 then s
  else (s.setHostF 0xE00000 63 63 1).setHostF 0xE00000 61 56 ((a - Config.devBase) / 2 ^ 32 % 64)
/-- R12, R156: n bytes read from a register; a reserved die address reads as zero, and an offset that no rule lists as a free value. -/
def devLoad (s : State) (a n : Nat) : State × Nat :=
  let part (v : Quad) : Nat := v.toNat / 2 ^ (8 * (a % 8)) % 2 ^ (8 * n)
  if dieReserved a then (noteUnreach s a, 0)
  else match s.devRead (a / 8 * 8) with
    | some v => (s, part v)
    | none => (s.draw.2, part s.draw.1)

end Sys2Proof.Machine
end

