-- ==== Sys2Proof/Machine/PhysMem.lean ====
section
/-! DEFINITION. Physical memory: what an address is (R18, R19, R21, R22, R248), what answers it with a bus error (R14, R363,
R369, R376), and reads and writes at the point of service with migration (R285), stack fencing (R375), owners (R362), the
write log (R365), dirty units and protection (R323, R328). -/
namespace Sys2Proof.Machine

/-! ### Kinds of keys -/

def isVault (k : Nat) : Bool := decide (2 ^ 52 ≤ k) && decide (k < 2 ^ 53)
def isHostMem (k : Nat) : Bool := decide (2 ^ 53 ≤ k)
def isDram (k : Nat) : Bool := decide (k < Config.dramEnd)
def isCxl (k : Nat) : Bool := decide (Config.cxlBase ≤ k) && decide (k < Config.cxlEnd)
/-- R19: the byte of the CXL window is backed. -/
def State.backed (s : State) (k : Nat) : Bool := isCxl k && s.plat.cxl.any fun x => decide (x.1 ≤ k) && decide (k < x.1 + x.2)
/-- R412: the address lies in a valid shared range. -/
def State.isShared (s : State) (k : Nat) : Bool :=
  isCxl k && (List.range 16).any fun n =>
    let b := (s.host (0xE30000 + 16 * n)).toNat
    let l := (s.host (0xE30008 + 16 * n)).toNat
    l % 2 == 1 && decide (b ≤ k) && decide (k < b + l / 2 ^ 30 * 2 ^ 30)
/-- R248, R249, R270: the line may be held in an L1 and in a last-level slice. -/
def State.cached (s : State) (k : Nat) : Bool := (isDram k || isCxl k) && !s.isShared k
/-- R22: the home slice of a line; a vault line's is its quad's (R270). -/
def homeSlice (k : Nat) : Nat :=
  if isVault k then (k - 2 ^ 52) / 2 ^ 23
  else
    let line := (if isHostMem k then k - 2 ^ 53 else k) / 128
    (Nat.xor (Nat.xor line (line / 2 ^ 17)) (line / 2 ^ 31)) % 160
/-- R21: granule, stack and channel of a DRAM address. -/
def granuleOf (k : Nat) : Nat := k / 8192
def stackOf (k : Nat) : Nat := granuleOf k % 12
def channelOf (k : Nat) : Nat := granuleOf k / 12 % 32
/-! ### The point of service: R285 -/

/-- R284: the migration slot in which a frame takes part. -/
def State.migOf (s : State) (k : Nat) : Option MigSlot :=
  let f := k / 32768 * 32768
  s.mig.find? fun m => m.src == f || m.dst == f
/-- R285: the single point of service: the old frame's line. -/
def State.service (s : State) (k : Nat) : Nat :=
  match s.migOf k with
  | some m => m.src + k % 32768
  | none => k
/-- R285: the keys by which an L1 may hold the line that a key names: itself, and both frames of a migration. -/
def State.aliases (s : State) (k : Nat) : List Nat :=
  match s.migOf k with
  | some m => [m.src + k % 32768, m.dst + k % 32768]
  | none => [k]

/-! ### What answers with a bus error: R14, R19, R363, R369, R376 -/

/-- R369: the 64 KiB unit of the address is retired. -/
def State.retired (s : State) (k : Nat) : Bool :=
  s.dev.any fun x => decide (devAddr 0 0x900000 ≤ x.1) && decide (x.1 < devAddr 0 0x910000) && x.2.getLsbD 0
    && x.2.toNat / 2 ^ 16 == k / 2 ^ 16
/-- R14, R376: a socket that is fenced, by firmware at boot or live. -/
def State.socketFenced (s : State) (sock : Nat) : Bool :=
  s.plat.fenced.contains sock ||
    (decide (3 ≤ sock) && decide (sock ≤ 12) && (s.host 0x910008).getLsbD (sock - 3))
def State.islandOff (s : State) (n : Nat) : Bool := s.plat.islandsOff.contains n
/-- R26: the quadrant of a package quad is fenced or off. -/
def State.quadFenced (s : State) (q : Nat) : Bool := s.socketFenced (3 + q / 16) || s.islandOff (q / 4)
/-- R373, R374: the quad is out of service: it is fenced, or its vault has no spare row left. -/
def State.quadOut (s : State) (q : Nat) : Bool := s.quadFenced q || decide (32 < (s.ras.spareRows.filter fun r => r.1 == q).length)
/-- R376: the memory stack of a DRAM address is fenced or off, and not shadowed. -/
def State.stackFenced (s : State) (st : Nat) : Bool :=
  (s.socketFenced (13 + st) || s.islandOff (40 + st)) && (match s.ras.stkLive with | some x => x.1 != st | none => true)
/-- R376: the access has a fenced target. -/
def State.fencedTarget (s : State) (k : Nat) : Bool := s.quadFenced (homeSlice k) || (isDram k && s.stackFenced (stackOf k))
/-- R19, R271, R376: no access to the address is made; a migrating frame answers at its point of service (R285). -/
def State.busError (s : State) (k : Nat) : Bool :=
  let k := s.service k
  if isVault k then s.fencedTarget k
  else if isHostMem k then s.fencedTarget k
  else !(isDram k || s.backed k) || s.retired k || s.fencedTarget k

/-! ### Poison -/

/-- R358, R363: a byte at its point of service is poisoned: its granule, its dirty line that is lost, or its vault line. -/
def State.poisonAt (s : State) (k : Nat) : Bool :=
  let k := s.service k
  if isVault k then s.ras.vaultPoison.contains (k / 128 * 128)
  else s.ras.poison.contains (k / 64 * 64) || s.ras.poisonLines.contains (k / 128 * 128)
/-- Some byte of the span is poisoned. -/
def State.poisoned (s : State) (k n : Nat) : Bool := (List.range n).any fun i => s.poisonAt (k + i)
/-- R363: a write of all 64 bytes of poisoned granules clears their poison. -/
def State.clearPoison (s : State) (covered : List Nat) : State :=
  { s with ras := { s.ras with poison := s.ras.poison.filter fun g => !(covered.map s.service).contains g } }

/-! ### Where bytes are kept: R285, R375 -/

/-- R375: the bytes behind a granule of a stack that was fenced live. -/
def State.backing (s : State) (k : Nat) : Nat :=
  match s.ras.stkLive with
  | some x => if isDram k && stackOf k == x.1 then x.2 + 8192 * (granuleOf k / 12) + k % 8192 else k
  | none => k
/-- The address at which a byte is kept. -/
def State.place (s : State) (k : Nat) : Nat := s.backing (s.service k)
/-- Bytes at the point of service. -/
def State.physRead (s : State) (k n : Nat) : List Byte := (List.range n).map fun i => s.mem.read (s.place (k + i))
def State.physNat (s : State) (k n : Nat) : Nat := leNat (s.physRead k n)
/-- Bytes put down at the point of service, and at every copy that mirrors it (R285, R375). -/
def State.putByte (s : State) (k : Nat) (b : Byte) : State :=
  let a := s.service k
  let m := s.mem.write (s.backing a) b
  let m := match s.migOf a with
    | some g => if (a - g.src) / 128 < g.copied then m.write (s.backing (g.dst + a % 32768)) b else m
    | none => m
  let st := bitsOf (s.host 0x910018).toNat 63 61
  let m := if isDram a && (st == 1 || st == 2) && stackOf a == s.hostF 0x910018 7 4 && decide (granuleOf a / 12 < s.ras.stkCopied) then
      m.write ((s.host 0x910010).toNat + 8192 * (granuleOf a / 12) + a % 8192) b else m
  { s with mem := m }
def State.putBytes (s : State) (k : Nat) (bs : List Byte) : State :=
  (bs.zipIdx).foldl (fun s x => s.putByte (k + x.2) x.1) s

/-! ### Units: R323, R328 -/

/-- The logical quad of a package quad in a context (R18). -/
def Ctx.logicalQuad (x : Ctx) (q : Nat) : Option Nat := x.quadMap.findIdx? fun y => y == q
/-- R323: the unit of a context that a write to a key dirties; memory pages are known by their virtual page. -/
def unitOf (x : Ctx) (vp : Option Nat) (k : Nat) : Option CkUnit :=
  if isVault k then (x.logicalQuad ((k - 2 ^ 52) / 2 ^ 23)).map fun l => .vault l (k % 2 ^ 23 / 128)
  else vp.map fun v => .page v (k / 32768 * 32768)
/-- The first key of a unit of memory or a vault, and its bytes. -/
def unitSpan (x : Ctx) : CkUnit → Option (Nat × Nat)
  | .page _ f => some (f, 32768)
  | .vault l line => (x.quadMap[l]?).map fun q => (vaultKey q (line * 128), 128)
  | _ => none
/-- R328: the protected units that a key lies in at its point of service (R324), with their contexts. -/
def State.protections (s : State) (k : Nat) : List (Nat × CkUnit) :=
  let k := s.service k
  s.ctxs.flatMap fun x => (x.ckpt.protect.filter fun u =>
    match unitSpan x u with | some sp => decide (sp.1 ≤ k) && decide (k < sp.1 + sp.2) | none => false).map fun u => (x.num, u)
/-- R328: a free page of the `CKPT_COW` pool. -/
def State.cowFree (s : State) : Option Nat :=
  let used := s.ctxs.flatMap fun x => x.ckpt.old.filterMap fun o => o.2.2
  (List.range (used.length + 1)).find? fun i => !used.contains i && decide (i < s.hostF 0x700038 31 0)
def cowPage (s : State) (i : Nat) : Nat := (s.host 0x700030).toNat + 32768 * i
/-- R328: the protection of a unit can be lifted now. -/
def State.canLift (s : State) : CkUnit → Bool
  | .page _ _ => s.cowFree.isSome
  | _ => true
/-- R328: the old image kept, in the pool or the reserve, and the protection lifted. -/
def liftProtection (s : State) (ctx : Nat) (u : CkUnit) : State :=
  let x := s.ctx ctx
  match unitSpan x u with
  | none => s
  | some sp =>
    let slot := match u with | .page _ _ => s.cowFree | _ => none
    let img := s.physRead sp.1 sp.2
    let s := match slot with | some i => { s with mem := s.mem.store (cowPage s i) img } | none => s
    let keep := if slot.isSome then [] else img
    s.setCtx { x with ckpt := { x.ckpt with protect := x.ckpt.protect.filter (· != u), old := x.ckpt.old ++ [(u, keep, slot)] } }
/-- R328: a write to the key must wait: its unit is protected and the pool has no free page. -/
def State.writeBlocked (s : State) (k : Nat) : Bool := (s.protections k).any fun p => !s.canLift p.2
/-- R328: the writes of one instruction to these keys must wait: more protected pages than the pool has free pages. -/
def State.writesBlocked (s : State) (ks : List Nat) : Bool :=
  let us := ((ks.flatMap s.protections).eraseDups).filter fun p => match p.2 with | .page _ _ => true | _ => false
  let used := (s.ctxs.flatMap fun x => x.ckpt.old.filterMap fun o => o.2.2).length
  !us.isEmpty && decide (s.hostF 0x700038 31 0 < used + us.length)
/-- Every protection over a key lifted. -/
def liftAll (s : State) (k : Nat) : State := (s.protections k).foldl (fun s p => liftProtection s p.1 p.2) s

/-! ### The write log and owners: R362, R365 -/

/-- R364: the LINE field of an entry. -/
def logLine (k : Nat) : Nat :=
  if isVault k then 2 ^ 63 + (k - 2 ^ 52) / 2 ^ 23 * 2 ^ 23 + k % 2 ^ 23 / 128 * 128 else k / 128 * 128
/-- R365: the first logged write of a context's kernel to a line appends an entry, or sets OVF. -/
def logWrite (s : State) (ctx line : Nat) : State :=
  let x := s.ctx ctx
  if !x.logOn || x.firstBits.contains line || !(isVault line || s.cached line) then s
  else
    let o := logOff ctx
    let n := (s.host (o + 0x18)).toNat
    if decide ((s.host (o + 0x10)).toNat ≤ n) || s.ctxs.any (fun y => y.num != ctx && y.firstBits.contains line) then s.setHostF o 1 1 1
    else
      let e := leBytes 8 (logLine line) ++ leBytes 8 s.timebase.toNat ++ s.physRead line 128
      let s := s.putBytes ((s.host (o + 8)).toNat + 144 * n) e
      (s.setHost (o + 0x18) (BitVec.ofNat 64 (n + 1))).setCtx { x with firstBits := line :: x.firstBits }
/-- R11, R15: a line enters a last-level slice of 2 MiB, which keeps 16,384 dirty ones; the oldest is written back first. -/
def putDirty (x : DirtyLine) (l : List DirtyLine) : List DirtyLine :=
  let mine := l.filter fun y => homeSlice y.line == homeSlice x.line
  if mine.length < 16384 then x :: l
  else x :: (l.reverse.eraseP fun y => homeSlice y.line == homeSlice x.line).reverse
/-- R362: a write makes its line dirty for its context; another owner's line is written back first. -/
def ownLine (s : State) (ctx line : Nat) : State :=
  if !s.cached line then s
  else
    let d := s.ras.dirty
    match d.find? fun x => x.line == line with
    | some x => if x.ctx = ctx then s
        else { s with ras := { s.ras with dirty := ⟨line, ctx, s.physRead line 128⟩ :: d.filter fun y => y.line != line } }
    | none => { s with ras := { s.ras with dirty := putDirty ⟨line, ctx, s.physRead line 128⟩ d } }
/-- R362: a write for no context: its line is written back, and the write goes through, so the line is clean. -/
def cleanLine (s : State) (line : Nat) : State := { s with ras := { s.ras with dirty := s.ras.dirty.filter fun y => y.line != line } }
/-- R249: words of a line that another agent writes lose their owned bits in every L1 but one, by whatever frame it knows them. -/
def revokeL1 (s : State) (except : Option Nat) (k n : Nat) : State :=
  let lines := (s.aliases k).map fun a => a / 128 * 128
  let m : BitVec 32 := (List.range n).foldl (fun m i => m ||| (1 : BitVec 32) <<< ((k % 128 + i) / 4)) 0
  { s with l1 := s.l1.map fun x => if lines.contains x.line ∧ some x.core ≠ except then { x with owned := x.owned &&& ~~~m } else x }
/-- R372: a demand write to a granule under a scrub lock cancels the scrub write-back. -/
def breakLock (s : State) (k n : Nat) : State :=
  if s.ras.scrubs.isEmpty then s
  else { s with ras := { s.ras with scrubs := s.ras.scrubs.map fun x => match x.lock with
    | some g => if decide (g < k + n) && decide (k < g + 64) then { x with lock := none } else x
    | none => x } }
/-- A write within one line at its point of service, for a context or for none: protections lifted, logged, owned, marked
dirty, and the owned bits of other cores revoked. -/
def physWrite (s : State) (ctx : Option Nat) (vp : Option Nat) (core : Option Nat) (k : Nat) (bs : List Byte) : State :=
  let s := liftAll s k
  let a := s.service k
  let s := match ctx with
    | some c =>
      let s := ownLine (logWrite s c (a / 128 * 128)) c (a / 128 * 128)
      match unitOf (s.ctx c) vp a with | some u => markDirty s c u | none => s
    | none => cleanLine s (a / 128 * 128)
  (revokeL1 (breakLock s a bs.length) core k bs.length).putBytes k bs

end Sys2Proof.Machine
end

