-- ==== Sys2Proof/Machine/FabricPort.lean ====
section
/-! DEFINITION. Packets and ports of the fabric: R341 to R344, R353, R420. -/
namespace Sys2Proof.Machine

/-! ### Packets: R341 -/

/-- R341: FLITS. -/
def Packet.flits (p : Packet) : Nat :=
  if (p.type == 1 || p.type == 2 || p.type == 3) && p.len != 0 then 1 + ceilDiv p.len 64 else 1
/-- The bytes of a packet on the wire and in a record. -/
def Packet.size (p : Packet) : Nat := 64 * p.flits
/-- A list cut or filled with zeros to n bytes. -/
def padTo (n : Nat) (bs : List Byte) : List Byte := bs.take n ++ List.replicate (n - bs.length) 0
/-- R341, R349: header and data flits, with WHERE. -/
def Packet.bytes (p : Packet) (wh : Byte) : List Byte :=
  leBytes 2 p.job.toNat ++ leBytes 1 p.type ++ leBytes 1 p.flits ++ leBytes 2 p.src ++ leBytes 2 p.dst ++ leBytes 8 p.injtb.toNat
    ++ leBytes 6 p.off ++ leBytes 1 (p.vl + 8 * p.ord.toNat) ++ [p.op] ++ leBytes 4 p.tag.toNat ++ leBytes 2 p.len
    ++ leBytes 1 p.status ++ [wh] ++ leBytes 32 p.be.toNat ++ padTo (p.size - 64) p.data
/-- A packet and its WHERE read back from a record. -/
def Packet.ofBytes (bs : List Byte) : Packet × Byte :=
  let n (a k : Nat) : Nat := sliceNat bs a k
  let len := n 28 2
  ({ job := BitVec.ofNat 16 (n 0 2), type := n 2 1, src := n 4 2, dst := n 6 2, injtb := BitVec.ofNat 64 (n 8 8), off := n 16 6
     vl := n 22 1 % 8, ord := BitVec.ofNat 2 (n 22 1 / 8), op := BitVec.ofNat 8 (n 23 1), tag := BitVec.ofNat 32 (n 24 4), len := len
     status := n 30 1, be := BitVec.ofNat 256 (n 32 32), data := if 1 < n 3 1 then (bs.drop 64).take len else [] }, BitVec.ofNat 8 (n 31 1))
/-- R341, R342: a reserved TYPE, a reserved field that is not zero, or lane 6. -/
def Packet.bad (p : Packet) : Bool :=
  decide (4 < p.type) || decide (4096 ≤ p.src) || decide (4096 ≤ p.dst) || decide (2 ^ 44 ≤ p.off) || p.vl == 6 || decide (7 < p.vl)
    || decide (256 < p.len) || (decide (p.type < 2) && decide (16 ≤ p.op.toNat)) || (decide (p.type < 3) && p.status != 0)
    || ((p.type == 0 || p.type == 2) && p.be != 0)
/-- R341: the answer to a request. -/
def Packet.reply (p : Packet) (type status : Nat) (injtb : Quad) (data : List Byte) : Packet :=
  { p with type := type, src := p.dst, dst := p.src, vl := p.vl + 1, status := status, len := data.length, be := 0, data := data, injtb := injtb }

/-! ### Ports and routes: R344, R353, R420 -/

/-- R344: this device's domain number. -/
def State.domain (s : State) : Nat := s.hostF 0x800030 11 0
def State.port? (s : State) (n : Nat) : Option Port := s.ports.find? fun p => p.num == n
def State.modPort (s : State) (n : Nat) (g : Port → Port) : State :=
  { s with ports := s.ports.map fun p => if p.num = n then g p else p }
/-- R344, R420: the port towards a device, where there is a route and its port is up. -/
def State.route (s : State) (dst : Nat) : Option Nat :=
  match s.routes.find? fun r => r.1 == dst with
  | none => none
  | some r => match s.port? r.2 with
    | some p => if p.up && s.hostF 0x800030 12 12 == 1 then some p.num else none
    | none => none
/-- R353: the newest message from a peer about a job was READY. -/
def State.isReady (s : State) (job : Half) (peer : Nat) : Bool := s.ready.any fun r => r.1 == job && r.2.1 == peer && r.2.2
/-- R348: bytes of a queue, and of a port's queues with the packets held at its egress. -/
def queueBytes (l : List Packet) : Nat := l.foldl (fun n p => n + p.size) 0
def State.portBytes (s : State) (n : Nat) : Nat :=
  match s.port? n with
  | none => 0
  | some p => queueBytes p.egress + queueBytes p.ingress + queueBytes (s.holdq.filter fun x => s.route x.dst == some n)
/-- R348: 192 KiB of buffers for a port. -/
def portRoom : Nat := 196608
/-- R342: every port that packets of these destinations and sizes need has room for them. -/
def State.roomFor (s : State) (xs : List (Nat × Nat)) : Bool :=
  xs.all fun x => match s.route x.1 with
    | none => true
    | some n => decide (s.portBytes n + (xs.filter fun y => s.route y.1 == some n).foldl (fun k y => k + y.2) 0 ≤ portRoom)
/-- R343, R353: a packet enters the egress queue of its port, or the hold queue of its job. -/
def inject (s : State) (port : Nat) (p : Packet) : State :=
  if s.isReady p.job p.dst then s.modPort port fun x => { x with egress := x.egress ++ [p] }
  else { s with holdq := s.holdq ++ [p] }
/-- R353: packets of a job held for a peer enter their egress queues in order. -/
def releaseHeld (s : State) (job : Half) (peer : Nat) : State :=
  let go := s.holdq.filter fun p => p.job == job && p.dst == peer
  go.foldl (fun s p => match s.route p.dst with
    | some n => s.modPort n fun x => { x with egress := x.egress ++ [p] }
    | none => s) { s with holdq := s.holdq.filter fun p => !(p.job == job && p.dst == peer) }
/-- R353: the newest message of a peer about a job. -/
def setReady (s : State) (job : Half) (peer : Nat) (b : Bool) : State :=
  let s := { s with ready := (job, peer, b) :: s.ready.filter fun r => !(r.1 == job && r.2.1 == peer) }
  if b then releaseHeld s job peer else s
/-- R347: the job's threads inject nothing: its gang switch is past T. -/
def State.gangHolds (s : State) (job : Half) : Bool :=
  (s.gang.phase == 2 || s.gang.phase == 3) && s.hostF 0x800000 23 8 == job.toNat

/-! ### The identity of a context: R398 -/

def Ctx.jobV (x : Ctx) : Bool := x.job.getLsbD 19
def Ctx.fclass (x : Ctx) : Nat := bitsOf x.job.toNat 18 16
def Ctx.jobId (x : Ctx) : Half := BitVec.ofNat 16 x.job.toNat

end Sys2Proof.Machine
end

