-- ==== Sys2Proof/Machine/Flags.lean ====
section
/-! DEFINITION. Floating-point values, rounding and the flags it raises (R29 to R38), the tapered formats (R39 to R42) and
the wide partials of the matrix engine (R48 to R50). -/
namespace Sys2Proof.Machine

/-! ### Exact dyadic numbers -/

/-- The number m * 2^e. An irrational or a quotient is held with a last bit that is 1 below every digit rounding looks at,
so that it compares with every coarser number as the exact value does. -/
structure Dy where
  m : Int
  e : Int
  deriving DecidableEq, Repr

def Dy.zero : Dy := ⟨0, 0⟩
def Dy.ofInt (n : Int) : Dy := ⟨n, 0⟩
/-- The integer mantissas of two numbers over their lower exponent. -/
def Dy.align (a b : Dy) : Int × Int × Int :=
  let e := min a.e b.e
  (a.m * 2 ^ (a.e - e).toNat, b.m * 2 ^ (b.e - e).toNat, e)
def Dy.add (a b : Dy) : Dy := let x := Dy.align a b; ⟨x.1 + x.2.1, x.2.2⟩
def Dy.neg (a : Dy) : Dy := ⟨-a.m, a.e⟩
def Dy.sub (a b : Dy) : Dy := a.add b.neg
def Dy.mul (a b : Dy) : Dy := ⟨a.m * b.m, a.e + b.e⟩
def Dy.abs (a : Dy) : Dy := ⟨a.m.natAbs, a.e⟩
def Dy.isZero (a : Dy) : Bool := a.m == 0
def Dy.isNeg (a : Dy) : Bool := decide (a.m < 0)
def Dy.lt (a b : Dy) : Bool := let x := Dy.align a b; decide (x.1 < x.2.1)
def Dy.le (a b : Dy) : Bool := let x := Dy.align a b; decide (x.1 ≤ x.2.1)
def Dy.eq (a b : Dy) : Bool := let x := Dy.align a b; x.1 == x.2.1
/-- 2^e. -/
def Dy.two (e : Int) : Dy := ⟨1, e⟩
/-- floor(log2 |a|) of a non-zero number. -/
def Dy.log2 (a : Dy) : Int := Int.ofNat (Nat.log2 a.m.natAbs) + a.e
/-- The number times 2^k. -/
def Dy.scale (a : Dy) (k : Int) : Dy := ⟨a.m, a.e + k⟩
/-- floor(|a| / 2^k), and whether something is left. -/
def Dy.floorAbs (a : Dy) (k : Int) : Nat × Bool :=
  let n := a.m.natAbs
  if k ≤ a.e then (n * 2 ^ (a.e - k).toNat, false)
  else
    let d := 2 ^ (k - a.e).toNat
    (n / d, n % d != 0)
/-- Truncation toward zero to a multiple of 2^k (R45). -/
def Dy.trunc (a : Dy) (k : Int) : Dy :=
  let q := (a.floorAbs k).1
  ⟨if a.m < 0 then -(q : Int) else q, k⟩
/-- The lowest form: an odd mantissa, or zero. -/
def Dy.norm (a : Dy) : Dy :=
  if a.m = 0 then Dy.zero
  else
    let z := ctzN (Nat.log2 a.m.natAbs + 1) a.m.natAbs
    ⟨a.m / 2 ^ z, a.e + z⟩
/-- A sign put on a magnitude. -/
def Dy.withSign (neg : Bool) (a : Dy) : Dy := if neg then ⟨-a.m.natAbs, a.e⟩ else ⟨a.m.natAbs, a.e⟩

/-- Bits kept of a quotient or a root before its last, sticky bit. -/
abbrev jamBits : Nat := 140
/-- n * 2^k with a sticky bit below. -/
def jam (n : Nat) (sticky : Bool) (k : Int) : Dy := ⟨2 * n + (if sticky then 1 else 0), k - 1⟩
/-- a / b for a non-zero b, as `Dy` says. -/
def Dy.div (a b : Dy) : Dy :=
  if a.m = 0 then Dy.zero
  else
    let n := a.m.natAbs
    let d := b.m.natAbs
    let sh := jamBits + Nat.log2 d + 1 - min (Nat.log2 n) (jamBits + Nat.log2 d + 1)
    let x := n * 2 ^ sh
    Dy.withSign (a.isNeg != b.isNeg) (jam (x / d) (x % d != 0) (a.e - b.e - sh))
/-- The integer square root of a number below 4^n, by binary digits. -/
def isqrtAux : Nat → Nat → Nat → Nat
  | 0, _, r => r
  | k + 1, x, r => let t := r + 2 ^ k; isqrtAux k x (if t * t ≤ x then t else r)
def isqrt (x : Nat) : Nat := isqrtAux (Nat.log2 x / 2 + 1) x 0
/-- The square root of a number not below zero. -/
def Dy.sqrt (a : Dy) : Dy :=
  if a.m = 0 then Dy.zero
  else
    let sh : Nat := 2 * jamBits + (if a.e % 2 = 0 then 0 else 1)
    let x := a.m.natAbs * 2 ^ sh
    let r := isqrt x
    jam r (r * r != x) ((a.e - sh) / 2)
/-- 1 / sqrt(a) of a positive number. -/
def Dy.rsqrt (a : Dy) : Dy :=
  let n := a.m.natAbs
  let b := Nat.log2 n + 1
  let t : Nat := 2 * (jamBits + b) + (if a.e % 2 = 0 then 0 else 1)
  let r := isqrt (2 ^ t / n)
  jam r (r * r * n != 2 ^ t) ((-a.e - t) / 2)

/-! ### Formats: R29 -/

/-- A binary format: exponent bits and fraction bits. -/
structure Fmt where
  ex : Nat
  fr : Nat
  deriving DecidableEq, Repr
def fmtF16 : Fmt := ⟨5, 10⟩
def fmtBf16 : Fmt := ⟨8, 7⟩
def fmtF32 : Fmt := ⟨8, 23⟩
def fmtF64 : Fmt := ⟨11, 52⟩
/-- The format of a floating type; a packed type gives its element's. -/
def fmtOf : Ty → Fmt
  | .f16 | .f16x2 => fmtF16
  | .bf16 | .bf16x2 => fmtBf16
  | .f64 => fmtF64
  | _ => fmtF32
def Fmt.bias (f : Fmt) : Nat := 2 ^ (f.ex - 1) - 1
def Fmt.width (f : Fmt) : Nat := 1 + f.ex + f.fr
/-- Exponent field of all ones. -/
def Fmt.top (f : Fmt) : Nat := 2 ^ f.ex - 1
def Fmt.signBit (f : Fmt) (neg : Bool) : Nat := if neg then 2 ^ (f.ex + f.fr) else 0
def Fmt.inf (f : Fmt) (neg : Bool) : Nat := f.signBit neg + f.top * 2 ^ f.fr
/-- R29: the largest finite value's bits. -/
def Fmt.maxFin (f : Fmt) (neg : Bool) : Nat := f.inf neg - 1
/-- R30: the canonical quiet NaN. -/
def Fmt.nan (f : Fmt) : Nat := f.top * 2 ^ f.fr + 2 ^ (f.fr - 1)

/-- A floating-point value; `fin` holds a non-zero number. -/
inductive Fl
  | nan (signalling : Bool)
  | inf (neg : Bool)
  | zero (neg : Bool)
  | fin (d : Dy)
  deriving DecidableEq, Repr

/-- R29, R30: the value of an encoding. -/
def Fl.ofBits (f : Fmt) (x : Nat) : Fl :=
  let neg := bitsOf x (f.ex + f.fr) (f.ex + f.fr) == 1
  let e := bitsOf x (f.ex + f.fr - 1) f.fr
  let m := x % 2 ^ f.fr
  if e = f.top then (if m = 0 then .inf neg else .nan (m < 2 ^ (f.fr - 1)))
  else if e = 0 then
    (if m = 0 then .zero neg else .fin (Dy.withSign neg ⟨m, 1 - (f.bias : Int) - f.fr⟩))
  else .fin (Dy.withSign neg ⟨m + 2 ^ f.fr, (e : Int) - f.bias - f.fr⟩)
def Fl.isNan : Fl → Bool | .nan _ => true | _ => false
def Fl.isSnan : Fl → Bool | .nan s => s | _ => false
def Fl.isZero : Fl → Bool | .zero _ => true | _ => false
def Fl.isInf : Fl → Bool | .inf _ => true | _ => false
def Fl.neg : Fl → Bool
  | .nan _ => false | .inf n => n | .zero n => n | .fin d => d.isNeg
/-- The number of a finite value. -/
def Fl.dy : Fl → Dy
  | .fin d => d | _ => Dy.zero
/-- A number, with the sign of a zero given. -/
def Fl.ofDy (d : Dy) (zneg : Bool) : Fl := if d.isZero then .zero zneg else .fin d

/-! ### Flags and rounding: R31 to R37 -/

/-- R36: the flag bits. -/
abbrev Flg := BitVec 5
def flNX : Flg := 1
def flUF : Flg := 2
def flOF : Flg := 4
def flDZ : Flg := 8
def flNV : Flg := 16
def flIf (b : Bool) (f : Flg) : Flg := if b then f else 0

/-- R31: the modes by code. -/
inductive Rm
  | rne | rtz | rup | rdn
  deriving DecidableEq, Repr
def Rm.ofCode (c : Nat) : Rm :=
  match c % 4 with
  | 0 => .rne | 1 => .rtz | 2 => .rup | _ => .rdn
/-- R86: the mode an instruction names, or `fpctl.RM`. -/
def modeOf (r : RMode) (ctl : BitVec 2) : Rm :=
  match r with
  | .ctl => Rm.ofCode ctl.toNat
  | .rne => .rne | .rtz => .rtz | .rup => .rup | .rdn => .rdn
/-- R32: the integer picked for a magnitude with the integer part n, the next bit `half` and a rest below it. -/
def pick (m : Rm) (neg : Bool) (n : Nat) (half rest : Bool) : Nat :=
  match m with
  | .rne => if half && (rest || n % 2 == 1) then n + 1 else n
  | .rtz => n
  | .rup => if (half || rest) && !neg then n + 1 else n
  | .rdn => if (half || rest) && neg then n + 1 else n
/-- R32: |a| in units of 2^k, rounded, and whether it was inexact. -/
def roundUnits (a : Dy) (k : Int) (m : Rm) : Nat × Bool :=
  let h := a.floorAbs (k - 1)
  let n := h.1 / 2
  let half := h.1 % 2 == 1
  (pick m a.isNeg n half h.2, half || h.2)
/-- R33: the overflow result. -/
def overflowBits (f : Fmt) (m : Rm) (neg : Bool) : Nat :=
  match m with
  | .rne => f.inf neg
  | .rtz => f.maxFin neg
  | .rup => if neg then f.maxFin true else f.inf false
  | .rdn => if neg then f.inf true else f.maxFin false
/-- R32 to R34: a non-zero number rounded into a format, with OF, UF and NX. -/
def roundDy (f : Fmt) (m : Rm) (a : Dy) : Nat × Flg :=
  let emin : Int := 1 - (f.bias : Int)
  let q := max a.log2 emin
  let u := q - f.fr
  let r := roundUnits a u m
  let neg := a.isNeg
  let p1 := 2 ^ (f.fr + 1)
  let e := if r.1 = p1 then q + 1 else q
  let n := if r.1 = p1 then 2 ^ f.fr else r.1
  if e > f.bias then (overflowBits f m neg, flOF ||| flNX)
  else if n < 2 ^ f.fr then (f.signBit neg + n, flIf r.2 (flUF ||| flNX))
  else (f.signBit neg + ((e + f.bias).toNat) * 2 ^ f.fr + (n - 2 ^ f.fr), flIf r.2 flNX)
/-- A value delivered in a format: NaN canonical, numbers rounded. -/
def roundFl (f : Fmt) (m : Rm) (x : Fl) : Nat × Flg :=
  match x with
  | .nan _ => (f.nan, 0)
  | .inf n => (f.inf n, 0)
  | .zero n => (f.signBit n, 0)
  | .fin d => roundDy f m d

/-! ### Arithmetic before rounding: R130 -/

/-- The exact result of an operation with the NV and DZ it raises. -/
structure Ex where
  x : Fl
  fl : Flg
  deriving DecidableEq, Repr

/-- A NaN among the sources gives NaN, with NV for a signalling one. -/
def nanOf (l : List Fl) : Option Ex :=
  if l.any Fl.isNan then some ⟨.nan false, flIf (l.any Fl.isSnan) flNV⟩ else none
def invalid : Ex := ⟨.nan false, flNV⟩
def Fl.flip : Fl → Fl
  | .nan s => .nan s | .inf n => .inf (!n) | .zero n => .zero (!n) | .fin d => .fin d.neg
/-- The sum of two zeros, and the exact sum of opposite numbers, in a mode. -/
def zeroSum (m : Rm) (na nb : Bool) : Fl := .zero (if na == nb then na else m == .rdn)
def addFl (m : Rm) (a b : Fl) : Ex :=
  match nanOf [a, b] with
  | some r => r
  | none =>
    match a, b with
    | .inf x, .inf y => if x == y then ⟨.inf x, 0⟩ else invalid
    | .inf x, _ => ⟨.inf x, 0⟩
    | _, .inf y => ⟨.inf y, 0⟩
    | .zero x, .zero y => ⟨zeroSum m x y, 0⟩
    | .zero _, y => ⟨y, 0⟩
    | x, .zero _ => ⟨x, 0⟩
    | x, y => ⟨Fl.ofDy (x.dy.add y.dy) (m == .rdn), 0⟩
def mulFl (a b : Fl) : Ex :=
  match nanOf [a, b] with
  | some r => r
  | none =>
    let n := a.neg != b.neg
    if (a.isInf && b.isZero) || (a.isZero && b.isInf) then invalid
    else if a.isInf || b.isInf then ⟨.inf n, 0⟩
    else if a.isZero || b.isZero then ⟨.zero n, 0⟩
    else ⟨.fin (a.dy.mul b.dy), 0⟩
/-- R130: the invalid product is detected whatever C holds. -/
def fmaFl (m : Rm) (a b c : Fl) : Ex :=
  let badProd := (a.isInf && b.isZero) || (a.isZero && b.isInf)
  match nanOf [a, b, c] with
  | some r => ⟨r.x, r.fl ||| flIf badProd flNV⟩
  | none => if badProd then invalid else addFl m (mulFl a b).x c
def divFl (a b : Fl) : Ex :=
  match nanOf [a, b] with
  | some r => r
  | none =>
    let n := a.neg != b.neg
    if (a.isInf && b.isInf) || (a.isZero && b.isZero) then invalid
    else if a.isInf then ⟨.inf n, 0⟩
    else if b.isZero then ⟨.inf n, flDZ⟩
    else if b.isInf || a.isZero then ⟨.zero n, 0⟩
    else ⟨.fin (a.dy.div b.dy), 0⟩
def sqrtFl (a : Fl) : Ex :=
  match nanOf [a] with
  | some r => r
  | none =>
    match a with
    | .zero n => ⟨.zero n, 0⟩
    | .inf false => ⟨.inf false, 0⟩
    | .fin d => if d.isNeg then invalid else ⟨.fin d.sqrt, 0⟩
    | _ => invalid
/-- An exact result rounded once; its flags are those of the operation and of the rounding. -/
def Ex.round (r : Ex) (f : Fmt) (m : Rm) : Nat × Flg :=
  let y := roundFl f m r.x
  (y.1, r.fl ||| y.2)
/-- R132: order with -0 below +0; neither is NaN. -/
def Fl.ltZ (a b : Fl) : Bool :=
  match a, b with
  | .zero x, .zero y => x && !y
  | .inf x, .inf y => x && !y
  | .inf x, _ => x
  | _, .inf y => !y
  | x, y => x.dy.lt y.dy
/-- R132. -/
def minmaxFl (isMax : Bool) (a b : Fl) : Ex :=
  let nv := flIf (a.isSnan || b.isSnan) flNV
  if a.isNan && b.isNan then ⟨.nan false, nv⟩
  else if a.isNan then ⟨b, nv⟩
  else if b.isNan then ⟨a, nv⟩
  else if isMax then ⟨if a.ltZ b then b else a, nv⟩
  else ⟨if b.ltZ a then b else a, nv⟩
/-- R134: the truth of a comparison, with NV. -/
def cmpFl (c : Cond) (a b : Fl) : Bool × Flg :=
  let un := a.isNan || b.isNan
  let sn := a.isSnan || b.isSnan
  let lt (x y : Fl) : Bool := if x.isZero && y.isZero then false else x.ltZ y
  let l := !un && lt a b
  let g := !un && lt b a
  let e := !un && !l && !g
  match c with
  | .eq => (e, flIf sn flNV)
  | .ne => (!e, flIf sn flNV)
  | .lt => (l, flIf un flNV)
  | .le => (l || e, flIf un flNV)
  | .gt => (g, flIf un flNV)
  | .ge => (g || e, flIf un flNV)
  | .un => (un, flIf sn flNV)
  | .ord => (!un, flIf sn flNV)
/-- R135: the class bit. -/
def classOf (f : Fmt) (a : Fl) : Nat :=
  match a with
  | .inf true => 1
  | .inf false => 0x80
  | .zero true => 8
  | .zero false => 0x10
  | .nan true => 0x100
  | .nan false => 0x200
  | .fin d =>
    let normal := decide (1 - (f.bias : Int) ≤ d.log2)
    if d.isNeg then (if normal then 2 else 4) else (if normal then 0x40 else 0x20)

/-! ### Conversions: R38 -/

/-- A floating-point value converted to an integer of n bits: the value, and NX or NV. -/
def toIntFl (n : Nat) (signed : Bool) (m : Rm) (a : Fl) : Int × Flg :=
  match a with
  | .nan _ => (0, flNV)
  | .inf neg => (satInt n signed (if neg then -(2 ^ 70 : Nat) else (2 ^ 70 : Nat)), flNV)
  | .zero _ => (0, 0)
  | .fin d =>
    if d.log2 > 70 then (satInt n signed (if d.isNeg then -(2 ^ 70 : Nat) else (2 ^ 70 : Nat)), flNV)
    else
      let r := roundUnits d 0 m
      let x : Int := if d.isNeg then -(r.1 : Int) else r.1
      if satInt n signed x = x then (x, flIf r.2 flNX) else (satInt n signed x, flNV)

/-! ### Tapered formats: R39 to R42 -/

/-- The value of a tapered code of n bits with es exponent bits; NaR is NaN. -/
def taperedDecode (n es code : Nat) : Fl :=
  let mag := code % 2 ^ (n - 1)
  let neg := bitsOf code (n - 1) (n - 1) == 1
  if mag = 0 then (if neg then .nan false else .zero false)
  else
    let w := n - 1
    let one := mag ≥ 2 ^ (w - 1)
    let x := if one then 2 ^ w - 1 - mag else mag
    let r := clzN w x
    let k : Int := if one then (r : Int) - 1 else -(r : Int)
    let left := w - min w (r + 1)
    let rest : Nat := mag % 2 ^ left
    let e : Nat := if left ≥ es then rest / 2 ^ (left - es) else rest * 2 ^ (es - left)
    let fb : Nat := left - min left es
    let fr : Nat := rest % 2 ^ fb
    .fin (Dy.withSign neg ⟨fr + 2 ^ fb, k * 2 ^ es + e - fb⟩)
/-- R41. -/
def taperedEncode (n es : Nat) (a : Fl) : Nat :=
  match a with
  | .nan _ | .inf _ => 2 ^ (n - 1)
  | .zero _ => 0
  | .fin d =>
    let s := if d.isNeg then 2 ^ (n - 1) else 0
    let top : Int := (n - 2 : Nat) * 2 ^ es
    if (Dy.two top).le d.abs then s + 2 ^ (n - 1) - 1
    else if d.abs.le (Dy.two (-top)) then s + 1
    else
      let q := d.log2
      let k := q / 2 ^ es
      let e : Nat := (q - k * 2 ^ es).toNat
      let z := d.norm.m.natAbs
      let fbits := Nat.log2 z
      let frac := z - 2 ^ fbits
      let rl : Nat := if k ≥ 0 then k.toNat + 2 else (-k).toNat + 1
      let reg : Nat := if k ≥ 0 then 2 ^ (k.toNat + 2) - 2 else 1
      let str : Nat := (reg * 2 ^ es + e) * 2 ^ fbits + frac
      let len : Nat := rl + es + fbits
      let cut : Nat := len - min len (n - 1)
      let m : Nat := if len ≥ n - 1 then str / 2 ^ cut else str * 2 ^ (n - 1 - len)
      let rest : Nat := if len ≥ n - 1 then str % 2 ^ cut else 0
      let half : Nat := 2 ^ cut
      s + (if 2 * rest > half ∨ (2 * rest = half ∧ m % 2 = 1 ∧ cut ≠ 0) then m + 1 else m)

/-! ### Wide partials: R48 to R50 -/

/-- R48: the 114 most significant bits. -/
def trunc114 (a : Dy) : Dy := if a.isZero then Dy.zero else a.trunc (a.log2 - 113)
/-- R49: the WP128 word of a value. -/
def wpEncode (a : Fl) : BitVec 128 :=
  match a with
  | .nan _ => BitVec.ofNat 128 (3 * 2 ^ 126)
  | .inf n => BitVec.ofNat 128 ((if n then 2 else 1) * 2 ^ 126)
  | .zero n => BitVec.ofNat 128 (if n then 2 ^ 125 else 0)
  | .fin d =>
    let q := d.log2
    BitVec.ofNat 128 ((if d.isNeg then 2 ^ 125 else 0) + (q + 1023).toNat * 2 ^ 114 + (d.floorAbs (q - 113)).1)
/-- R49: the value of a WP128 word. -/
def wpDecode (x : BitVec 128) : Fl :=
  let n := x.toNat
  match bitsOf n 127 126 with
  | 1 => .inf false
  | 2 => .inf true
  | 3 => .nan false
  | _ =>
    let neg := bitsOf n 125 125 == 1
    let mag : Nat := n % 2 ^ 114
    if mag = 0 then .zero neg else .fin (Dy.withSign neg ⟨mag, (bitsOf n 124 114 : Int) - 1136⟩)
/-- R49: a saved WP128 word is well formed. -/
def wpLegal (x : BitVec 128) : Bool :=
  let n := x.toNat
  let mag := n % 2 ^ 114
  if bitsOf n 127 126 ≠ 0 then n % 2 ^ 126 == 0
  else if mag = 0 then bitsOf n 124 114 == 0
  else mag ≥ 2 ^ 113
/-- R48, R50: one beat: W and the products of the beat. -/
def wpBeat (w : Fl) (prods : List Ex) : Fl :=
  let xs := w :: prods.map (·.x)
  let pos := xs.contains (.inf false)
  let neg := xs.contains (.inf true)
  if xs.any Fl.isNan || (pos && neg) then .nan false
  else if pos then .inf false
  else if neg then .inf true
  else
    let t := trunc114 (xs.foldl (fun a x => a.add x.dy) Dy.zero)
    if t.isZero then .zero (xs.all fun x => x == .zero true) else .fin t

end Sys2Proof.Machine
end

