-- ==== Sys2Proof/Machine/Operands.lean ====
section
/-! DEFINITION. Operands of Arben instructions (R57 to R63, R97, R98, R128): the lanes of an issue, and what it reads and
writes. -/
namespace Sys2Proof.Machine

/-- A thread without registers, for an index no thread has. -/
def Thread.blank : Thread :=
  { v := [], full := [], p := 0, links := [], chain := [], fpctl := 0, fpflags := 0, rsdepth := 0, rsbase := 0, rstack := []
    capture := [], exited := true, facq := none, frel := none, finv := false }
/-- Fields of an instruction that has none of its own. -/
def Fields.blank : Fields := ⟨.always, 0, .z, .z, .z, .z, none⟩

/-- One issue: the crew, warp and frontier entry, the instruction and the lanes that execute it, with their threads. In
handler mode the one lane is the scalar unit's, named after the lowest lane of the trapping entry (R212). -/
structure Env where
  c : Crew
  w : Warp
  eid : Nat
  mask : Mask
  pc : BitVec 56
  len : Nat
  instr : Instr
  f : Fields
  lanes : List (Nat × Nat)
  deriving DecidableEq, Repr

def Crew.thread (c : Crew) (tid : Nat) : Thread := c.threads.getD tid Thread.blank
def Env.th (e : Env) (tid : Nat) : Thread := e.c.thread tid
def Env.sh (e : Env) : Shape := e.c.kernel.shape
def Env.hmode (e : Env) : Bool := e.w.handler.isSome
/-- The lanes that execute, as a mask. -/
def Env.execMask (e : Env) : Mask := maskOf (e.lanes.map (·.1))
/-- The leader: the lowest-numbered executing lane (R190). -/
def Env.leader (e : Env) : Option (Nat × Nat) := e.lanes.head?
/-- R60: the guard in one lane. -/
def guardOn (g : Guard) (t : Thread) : Bool :=
  match g with
  | .always => true
  | .pred n neg => t.pred n.toNat != neg
/-- The lanes of a mask with their threads, ascending. -/
def Warp.lanesIn (w : Warp) (m : Mask) : List (Nat × Nat) :=
  (List.range w.lanes.length).filterMap fun i => if m.getLsbD i then (w.lanes.getD i none).map fun t => (i, t) else none
/-- R60: the lanes of an entry that execute an instruction with guard g. -/
def guardLanes (c : Crew) (w : Warp) (m : Mask) (g : Guard) : List (Nat × Nat) :=
  (w.lanesIn m).filter fun x => guardOn g (c.thread x.2)
/-- The instruction that the warp named by the cursor issues. -/
def envOf (i : Instr) (s : State) : Option Env :=
  match s.cur with
  | none => none
  | some u =>
    match s.crew? u.crew with
    | none => none
    | some c =>
      match c.warp? u.wid with
      | none => none
      | some w =>
        let f := (i.fields?).getD Fields.blank
        match w.entries.find? fun e => e.eid == u.eid with
        | none => none
        | some e =>
          let lanes := match w.handler with
            | some _ => (w.lanesIn e.mask).take 1
            | none =>
              match i with
              | .pairWord x y => (w.lanesIn e.mask).filter fun l => guardOn x.g (c.thread l.2) || guardOn y.g (c.thread l.2)
              | _ => guardLanes c w e.mask f.g
          some { c := c, w := w, eid := u.eid, mask := e.mask, pc := u.pc, len := i.bytes, instr := i, f := f, lanes := lanes }

/-! ### Values of operands -/

/-- R58: a small constant in a type. -/
def smallConst (t : Ty) (n : Nat) : Nat :=
  if t.isFloat || t.packed then
    let x := if n = 0 then 0 else (roundDy (fmtOf t) .rne (Dy.ofInt n)).1
    if t.packed then x + x * 2 ^ 16 else x
  else n
/-- R62: the immediate in a type; an `f32` NaN keeps its bits at the top of an `f64`. -/
def immBits (t : Ty) (x : Word) : Nat :=
  match t with
  | .s64 | .b64 => (x.signExtend 64).toNat
  | .f64 =>
    let y := Fl.ofBits fmtF32 x.toNat
    if y.isNan then x.toNat / 2 ^ 31 * 2 ^ 63 + 0x7FF * 2 ^ 52 + x.toNat % 2 ^ 23 * 2 ^ 29 else (roundFl fmtF64 .rne y).1
  | _ => x.toNat % 2 ^ t.bits
/-- R27, R57, R58, R97: the bits of a source operand. -/
def srcBits (w : Warp) (th : Thread) (t : Ty) (o : Opd) : Nat :=
  match o with
  | .v n => if t.bits = 64 then (th.pair n.toNat).toNat else (th.reg n.toNat).toNat % 2 ^ t.bits
  | .s n => (w.s.getD n.toNat 0).toNat % 2 ^ t.bits
  | .k n => smallConst t n.toNat
  | _ => 0
/-- R62: source B, or the immediate in its place. -/
def srcB (e : Env) (th : Thread) (t : Ty) : Nat :=
  match e.f.imm with | some x => immBits t x | none => srcBits e.w th t e.f.b
/-- R98: the one source of a single-source instruction. -/
def srcOne (e : Env) (th : Thread) (t : Ty) : Nat :=
  match e.f.imm with | some x => immBits t x | none => srcBits e.w th t e.f.a
/-- R27: the integer that bits of a type stand for. -/
def intOf (t : Ty) (x : Nat) : Int := if t.signed then sInt t.bits x else x
/-- R27: the registers that a result of a type fills, from register n on. -/
def resultWords (t : Ty) (n x : Nat) : List (Nat × Word) :=
  if t.bits = 64 then [(n, BitVec.ofNat 32 x), (n + 1, BitVec.ofNat 32 (x / 2 ^ 32))]
  else [(n, BitVec.ofNat 32 (wrapN 32 (intOf t (x % 2 ^ t.bits))))]
/-- R97: the 64 bits of an `s` register that a result fills. -/
def resultQuad (t : Ty) (x : Nat) : Quad := BitVec.ofNat 64 (wrapN 64 (intOf t (x % 2 ^ t.bits)))
/-- Registers of threads written; their rows become dirty (R323). -/
def writeRegs (s : State) (crew : Nat) (xs : List (Nat × List (Nat × Word))) : State :=
  match s.crew? crew with
  | none => s
  | some c =>
    markAll (s.setCrew (xs.foldl (fun c x => c.modThread x.1 fun t => t.setRegs x.2) c)) c.ctx
      (xs.flatMap fun x => c.rowsOf x.1 (x.2.map (·.1)))
/-- An `s` register written. -/
def writeS (s : State) (crew wid n : Nat) (x : Quad) : State :=
  s.modCrew crew fun c => c.modWarp wid fun w => { w with s := w.s.set n x }
/-- R27, R97: results of one type, by thread in lane order, written to D. -/
def writeD (e : Env) (s : State) (t : Ty) (xs : List (Nat × Nat)) : State :=
  match e.f.d with
  | .v n => writeRegs s e.c.id (xs.map fun x => (x.1, resultWords t n.toNat x.2))
  | .s n => match xs with
    | [] => s
    | x :: _ => writeS s e.c.id e.w.wid n.toNat (resultQuad t x.2)
  | _ => s
/-- Predicate D written, by thread. -/
def writeP (e : Env) (s : State) (xs : List (Nat × Bool)) : State :=
  match e.f.d with
  | .p n => s.modCrew e.c.id fun c => xs.foldl (fun c x => c.modThread x.1 fun t => t.setPred n.toNat x.2) c
  | _ => s
/-- A predicate operand of a thread. -/
def predOf (th : Thread) (o : Opd) : Bool :=
  match o with | .p n => th.pred n.toNat | _ => false

/-! ### What an instruction reads and writes -/

/-- The operations of an instruction: itself, or the two halves of a pair word, each with its own lanes. -/
def Env.parts (e : Env) : List Env :=
  match e.instr with
  | .pairWord x y =>
    [x, y].filterMap fun h => h.instr.map fun i =>
      { e with instr := i, f := (i.fields?).getD Fields.blank, lanes := e.lanes.filter fun l => guardOn h.g (e.th l.2) }
  | _ => [e]
/-- The sources by field: 0 A, 1 B, 2 C. -/
def Env.sources (e : Env) : List (Nat × Opd × Role) :=
  let r := roles e.sh e.instr
  [(0, e.f.a, r.a), (1, e.f.b, r.b), (2, e.f.c, r.c)].filter fun x => x.2.2.used && !x.2.2.pred
/-- Whether a lane reads a source: `fsel` reads only the selected one (R133). -/
def Env.reads (e : Env) (tid k : Nat) : Bool :=
  match e.instr with
  | .fsel _ f => if predOf (e.th tid) f.c then k == 0 else k == 1
  | _ => true
/-- R122: the member mask of a cross-lane instruction. -/
def Env.members (e : Env) : Mask :=
  let w := e.sh.width
  let full : Mask := BitVec.ofNat 128 (2 ^ w - 1)
  match e.f.c with
  | .s n =>
    let lo := (e.w.s.getD n.toNat 0).toNat
    let hi := if w = 128 then (e.w.s.getD (n.toNat + 1) 0).toNat else 0
    BitVec.ofNat 128 (lo + hi * 2 ^ 64) &&& full
  | _ => full
/-- The instruction is one of R121. -/
def isCrossLane : Instr → Bool
  | .voteAll _ | .voteAny _ | .voteUni _ | .ballot _ | .shfl _ _ _ | .redux _ _ _ | .elect _ | .lmov _ _ | .zip2 _ _ | .zip3 _ _
  | .zip4 _ _ | .unzip2 _ _ | .unzip3 _ _ | .unzip4 _ _ => true
  | _ => false
/-- R190, R204: the instruction reads only its leader's operands. -/
def isLeaderOp : Instr → Bool
  | .mmx _ _ | .mmq _ | .tld _ _ _ _ | .tst _ _ _ _ | .cstep _ | .mig _ => true
  | .csrw num _ => num == 0x041 || decide (0x100 ≤ num.toNat)
  | _ => false
/-- The lanes whose sources are tested (R61, R122, R190, R217). -/
def Env.testLanes (e : Env) : List (Nat × Nat) :=
  if isCrossLane e.instr then e.lanes.filter fun l => e.members.getLsbD l.1
  else if isLeaderOp e.instr then e.lanes.take 1
  else
    match e.instr with
    | .lcpy _ f =>
      let src := match f.b with | .k n => n.toNat | .s n => (e.w.s.getD n.toNat 0).toNat | _ => 0
      e.lanes.filter fun l => l.1 == src
    | _ => e.lanes
/-- The first register and the count of registers that a source names. -/
def regRange (o : Opd) (r : Role) : Option (Nat × Nat) :=
  match o with | .v n => some (n.toNat, r.v) | _ => none
/-- The registers of D. -/
def Env.destRange (e : Env) : Option (Nat × Nat) :=
  let r := (roles e.sh e.instr).d
  if r.used && !r.pred then regRange e.f.d r else none
/-- R61: the lanes in which a source is empty: of a register range or a link. -/
def Env.emptyLanes (e : Env) (k : Nat) (o : Opd) (r : Role) : List (Nat × Nat) :=
  e.testLanes.filter fun l => e.reads l.2 k &&
    (match o with
     | .v n => !(e.th l.2).isFull n.toNat r.v
     | .l n => ((e.th l.2).link n.toNat).st == .empty
     | _ => false)
/-- R138, R147: a chain record names the link as a source. -/
def Thread.claimed (t : Thread) (n : Nat) : Bool :=
  t.chain.any fun r => r.a == .link n || r.b == .link n || r.c == .link n
/-- R148: the record is a producer's. -/
def ChainRec.producer (r : ChainRec) : Bool := decide (0x100 ≤ r.d.toNat) && decide (r.d.toNat < 0x110)
/-- R142: producers, and consumers that write a register or a predicate, in flight. -/
def Thread.producers (t : Thread) : Nat := (t.chain.filter ChainRec.producer).length
def Thread.consumers (t : Thread) : Nat := (t.chain.filter fun r => !r.producer).length
/-- R134: a predicate that an `fcmp` in flight will write. -/
def Thread.predBusy (t : Thread) (n : Nat) : Bool := t.chain.any fun r => r.op == 0x58 && r.d.toNat == n
/-- R142: a `v` register that a link consumer in flight will write. -/
def Thread.regBusy (t : Thread) (n k : Nat) : Bool :=
  t.chain.any fun r => r.op != 0x58 && !r.producer &&
    (let w := if (Ty.ofCode (r.fn.extractLsb' 3 4)).bits = 64 then 2 else 1
     decide (r.d.toNat < n + k) && decide (n < r.d.toNat + w))

end Sys2Proof.Machine
end

