-- ==== Sys2Proof/Machine/Access.lean ====
section
/-! DEFINITION. What an instruction accesses: its kind (R151, R157, R163), its addresses (R63, R151, R171, R191, R196, R113), and
which earlier accesses of its threads touch the same words (R159, R256). -/
namespace Sys2Proof.Machine

/-! ### What an instruction accesses -/

/-- R151: the address spaces. -/
inductive Space
  | priv | scratch | vault | global | fabric | device
  deriving DecidableEq, Repr
/-- One load, store or atomic. -/
structure MemOp where
  space : Space
  kind : Access
  t : Ty
  count : Nat
  ord : MemOrd
  aop : AOp := .add
  deriving DecidableEq, Repr
/-- R157, R163: the access of an instruction of format M, with its extension. -/
def memOf : Instr → Option (MemOp × MemExt)
  | .ldp t v m _ => some (⟨.priv, .read, t, v.count, m.ord, .add⟩, m)
  | .stp t v m _ => some (⟨.priv, .write, t, v.count, m.ord, .add⟩, m)
  | .lds t v m _ => some (⟨.scratch, .read, t, v.count, m.ord, .add⟩, m)
  | .sts t v m _ => some (⟨.scratch, .write, t, v.count, m.ord, .add⟩, m)
  | .ldv t v m _ => some (⟨.vault, .read, t, v.count, m.ord, .add⟩, m)
  | .stv t v m _ => some (⟨.vault, .write, t, v.count, m.ord, .add⟩, m)
  | .ldg t v m _ => some (⟨.global, .read, t, v.count, m.ord, .add⟩, m)
  | .stg t v m _ => some (⟨.global, .write, t, v.count, m.ord, .add⟩, m)
  | .ldf t v m _ => some (⟨.fabric, .read, t, v.count, m.ord, .add⟩, m)
  | .stf t v m _ => some (⟨.fabric, .write, t, v.count, m.ord, .add⟩, m)
  | .ldd t m _ => some (⟨.device, .read, t, 1, m.ord, .add⟩, m)
  | .std t m _ => some (⟨.device, .write, t, 1, m.ord, .add⟩, m)
  | .atms t o m _ => some (⟨.scratch, .atomic, t, 1, m.ord, o⟩, m)
  | .atmv t o m _ => some (⟨.vault, .atomic, t, 1, m.ord, o⟩, m)
  | .atmg t o m _ => some (⟨.global, .atomic, t, 1, m.ord, o⟩, m)
  | .atmf t o m _ => some (⟨.fabric, .atomic, t, 1, m.ord, o⟩, m)
  | _ => none
/-- Bytes of an element, and of the whole access of a lane (R158). -/
def MemOp.w (o : MemOp) : Nat := o.t.bits / 8
def MemOp.bytes (o : MemOp) : Nat := o.count * o.w

/-! ### Addresses: R63 -/

/-- R63: a base or an index register; an index `v` register gives 32 bits. -/
def baseOf (w : Warp) (th : Thread) (o : Opd) : Nat := srcBits w th .b64 o
def indexOf (w : Warp) (th : Thread) (o : Opd) : Nat :=
  match o with | .v n => (th.reg n.toNat).toNat | o => srcBits w th .b64 o
/-- R63: `addr`. -/
def addrOf (w : Warp) (th : Thread) (f : Fields) (m : MemExt) : Nat :=
  wrapN 64 ((baseOf w th f.a : Int) + (indexOf w th f.b : Int) * (2 ^ m.scale.toNat : Nat) + sInt 40 m.disp.toNat)
/-- The lanes of an issue with their threads and addresses. -/
def Env.addrs (e : Env) (m : MemExt) : List (Nat × Nat × Nat) :=
  e.lanes.map fun l => (l.1, l.2, addrOf e.w (e.th l.2) e.f m)

/-- R223, R392: a thread's position in the package group, and the base of its private frame. -/
def threadPos (c : Crew) (tid : Nat) : Nat := c.pos * c.kernel.shape.crew + tid
def frameBase (c : Crew) (tid : Nat) : Nat := c.privBase.toNat + c.privSize * threadPos c tid
/-- R151: the address by which the log and the translation know an access: private ones by their virtual address. -/
def logAddr (c : Crew) (sp : Space) (tid a : Nat) : Nat :=
  match sp with | .priv => (frameBase c tid + a) % 2 ^ 56 | _ => a
def logSpace (sp : Space) : Space := if sp = .priv then .global else sp

/-- Word numbers of a span. -/
def wordsOf (a n : Nat) : List Nat := (List.range ((a + n - 1) / 4 + 1 - a / 4)).map (· + a / 4)
def meet (a b : Nat × Nat) : Bool := decide (a.1 / 4 ≤ (b.1 + b.2 - 1) / 4) && decide (b.1 / 4 ≤ (a.1 + a.2 - 1) / 4)
/-- R256: a deferred access of the thread touches a word of the span. -/
def logMeets (x : LogEntry) (sp : Space) (tid a n : Nat) : Bool :=
  match memOf x.instr with
  | none => false
  | some o => logSpace o.1.space == logSpace sp && x.lanes.any fun l => l.tid == tid && meet (l.addr.toNat, o.1.bytes) (a, n)
/-- R187, R191: the rows of a tile transfer, as spans. -/
def tileRL (cfg : Word) : Nat := bitsOf cfg.toNat 9 5
def tileRows (cfg : Word) : Nat := bitsOf cfg.toNat 13 10 + 1
def tileSpans (base stride : Nat) (cfg : Word) : List (Nat × Nat) :=
  let st := if stride = 0 then tileRL cfg else stride
  (List.range (tileRows cfg)).map fun r => ((base + 16 * st * r) % 2 ^ 64, 16 * tileRL cfg)
def spaceOfTile : TSpace → Space | .sp => .scratch | .vt => .vault | .gl => .global
/-- R159, R192, R193: a `tld` or `tst` of the thread in flight overlaps the span, one of the two writing. -/
def transferMeets (x : Transfer) (sp : Space) (writes : Bool) (tid a n : Nat) : Bool :=
  match x.instr with
  | .tld t st _ _ => writes && x.tid == tid && spaceOfTile t == logSpace sp && (tileSpans x.base.toNat st.toNat x.cfg).any fun y => meet y (a, n)
  | .tst t st _ _ => x.tid == tid && spaceOfTile t == logSpace sp && (tileSpans x.base.toNat st.toNat x.cfg).any fun y => meet y (a, n)
  | _ => false

/-! ### What an instruction touches: R256, R279 -/

/-- R171: SP and OFF of a sync-word address. -/
def swVault (a : Nat) : Bool := bitsOf a 32 32 == 1
def swOff (a : Nat) : Nat := a % 2 ^ 31
/-- R191: the address of row 0. -/
def tileBase (e : Env) (th : Thread) (o : Opd) (disp : BitVec 32) : Nat :=
  wrapN 64 ((srcBits e.w th .b64 o : Int) + sInt 32 disp.toNat)
/-- A tile of the window; one that no kernel has reads as unconfigured. -/
def Crew.tile (c : Crew) (t : Nat) : Tile := c.tiles.getD t ⟨[], 0, [], 0⟩
/-- R113: the address of spilled entry k. -/
def spillAddr (t : Thread) (k : Nat) : Nat := (t.rsbase.toNat / 8 * 8 + 8 * k) % 2 ^ 56
/-! ### Parameter blocks: R197 -/

/-- R197: the fields of a pass entry. -/
def passCT (p : Quad) : Nat := bitsOf p.toNat 63 59
def passAT (p : Quad) : Nat := bitsOf p.toNat 58 54
def passBT (p : Quad) : Nat := bitsOf p.toNat 53 49
def passK8 (p : Quad) : Nat := bitsOf p.toNat 48 44
def passZ (p : Quad) : Bool := p.getLsbD 43
def passBeats (p : Quad) : Nat := ceilDiv (8 * passK8 p) 32
/-- What `mmx` reads at issue. -/
structure MatBlock where
  header : List Byte
  passes : List Quad
  deriving DecidableEq, Repr
def readBlock (c : Crew) (a : Nat) : MatBlock :=
  let h := c.scratch.bytes a 16
  ⟨h, (List.range (sliceNat h 0 1)).map fun i => BitVec.ofNat 64 (c.scratch.nat (a + 16 + 8 * i) 8)⟩
/-- The parameter block that a leader's `mmx` names, when its address can be read. -/
def Env.block (e : Env) : Option (Nat × MatBlock) :=
  match e.instr, e.lanes with
  | .mmx _ _, l :: _ => match e.f.a with
    | .v r => if (e.th l.2).isFull r.toNat 1 then let a := srcBits e.w (e.th l.2) .n32 e.f.a; some (a, readBlock e.c a) else none
    | _ => let a := srcBits e.w (e.th l.2) .n32 e.f.a; some (a, readBlock e.c a)
  | _, _ => none

/-! ### Touches -/

/-- Bytes that an instruction accesses for a thread, by the address of its space's log form. -/
structure Touch where
  space : Space
  writes : Bool
  tid : Nat
  addr : Nat
  n : Nat
  deriving DecidableEq, Repr
/-- The lane's registers that an operand names are full, so its value is known. -/
def Env.known (e : Env) (tid : Nat) (o : Opd) (n : Nat) : Bool :=
  match o with | .v r => (e.th tid).isFull r.toNat n | _ => true
/-- The bytes of a sync word. -/
def swTouch (tid a : Nat) : Touch := ⟨if swVault a then .vault else .scratch, true, tid, swOff a, 16⟩
/-- R191, R192, R193: the rows of a leader's transfer; a `tst` writes them. -/
def tileTouches (e : Env) (spc : TSpace) (stride : BitVec 16) (disp : BitVec 32) (tile o : Opd) (writes : Bool) : List Touch :=
  match e.lanes, tile with
  | l :: _, .t n =>
    if e.known l.2 o 2 then
      (tileSpans (tileBase e (e.th l.2) o disp) stride.toNat (e.c.tile n.toNat).cfg).map fun r => ⟨spaceOfTile spc, writes, l.2, r.1, r.2⟩
    else []
  | _, _ => []
/-- R196: the bytes of the leader's parameter block. -/
def blockTouches (e : Env) : List Touch :=
  match e.lanes, e.block with
  | l :: _, some b => [⟨.scratch, false, l.2, b.1, 16 + 8 * b.2.passes.length⟩]
  | _, _ => []
/-- R113 to R116: the spill of a call, or the fill of a return. -/
def stackTouches (e : Env) (spill : Bool) : List Touch :=
  e.lanes.filterMap fun l =>
    let t := e.th l.2
    if spill then (if 8 ≤ t.rsdepth then some ⟨.global, true, l.2, spillAddr t (t.rsdepth - 8), 8⟩ else none)
    else if 9 ≤ t.rsdepth then some ⟨.global, false, l.2, spillAddr t (t.rsdepth - 9), 8⟩ else none
/-- The memory accesses of an instruction whose addresses can be read (R279, R299 point 2). -/
def Env.touches (e : Env) : List Touch :=
  match memOf e.instr with
  | some (o, m) => (e.lanes.filter fun l => e.known l.2 e.f.a 2 && e.known l.2 e.f.b 1).map fun l =>
      ⟨o.space, o.kind != .read, l.2, logAddr e.c o.space l.2 (addrOf e.w (e.th l.2) e.f m), o.bytes⟩
  | none =>
    match e.instr with
    | .swinit m _ | .swarrive m _ | .swait m _ => (e.lanes.filter fun l => e.known l.2 e.f.a 2 && e.known l.2 e.f.b 1).map fun l =>
        swTouch l.2 (addrOf e.w (e.th l.2) e.f m)
    | .cpy _ _ => (e.lanes.filter fun l => e.known l.2 e.f.a 1).map fun l =>
        ⟨.scratch, false, l.2, srcBits e.w (e.th l.2) .n32 e.f.a, 64⟩
    | .tld spc st d _ => tileTouches e spc st d e.f.d e.f.a false
    | .tst spc st d _ => tileTouches e spc st d e.f.a e.f.b true
    | .mmx _ _ => blockTouches e
    | .call _ | .calli _ => stackTouches e true
    | .ret _ => stackTouches e false
    | _ => []
/-- R256: the entry's access touches a word that this instruction accesses. -/
def Env.meetsLog (e : Env) (x : LogEntry) : Bool := e.touches.any fun y => logMeets x y.space y.tid y.addr y.n
/-- R159: the same for a transfer. -/
def Env.meetsTransfer (e : Env) (x : Transfer) : Bool := e.touches.any fun y => transferMeets x y.space y.writes y.tid y.addr y.n
/-- R278: the operand-log entries that concern a warp: those of its slot, and, in a width-free kernel, those of its threads
wherever they issued (log entry 128). -/
def Crew.logOf (c : Crew) (w : Warp) : List LogEntry :=
  c.log.filter fun x => (c.kernel.shape.width != 0 && x.wid == w.wid) || x.lanes.any fun y => w.lanes.contains (some y.tid)
def Env.log (e : Env) : List LogEntry := e.c.logOf e.w
/-- The same for tile transfers. -/
def Env.transfers (e : Env) : List Transfer :=
  e.c.transfers.filter fun x => (e.sh.width != 0 && x.wid == e.w.wid) || e.w.lanes.contains (some x.tid)

end Sys2Proof.Machine
end

