-- ==== Sys2Proof/Machine/Issue.lean ====
section
/-! DEFINITION. The issue of one instruction: the order of its checks (R299), its waits, and where it leaves the frontier. -/
namespace Sys2Proof.Machine

/-! ### The checks before an instruction's own -/

/-- What a check answers. -/
inductive Check
  | pass
  | wait
  | trap (t : Trap)
  deriving DecidableEq, Repr
/-- The first check that does not pass. -/
def firstCheck : List Check → Check
  | [] => .pass
  | .pass :: r => firstCheck r
  | c :: _ => c
/-- R279: the registers that a deferred instruction writes. -/
def LogEntry.dest (sh : Shape) (x : LogEntry) : Option (Nat × Nat) :=
  match x.instr.fields? with
  | none => none
  | some f => let r := (roles sh x.instr).d; if r.used then regRange f.d r else none
/-- R278: an entry with a lane that never replays again. -/
def LogEntry.dead (x : LogEntry) : Bool := x.lanes.any fun l => l.wait == .dead
/-- The lane that a thread has in a warp now, or the one it had. -/
def Warp.laneOf (w : Warp) (tid lane : Nat) : Nat := (w.lanes.findIdx? (· == some tid)).getD lane
/-- R279: the trap of an unrecoverable entry in a warp. -/
def LogEntry.trapOf (w : Warp) (x : LogEntry) : Trap :=
  let d := x.lanes.filter fun l => l.wait == .dead
  let l0 := d.foldl (fun b l => match b with | none => some l | some y => if l.lane < y.lane then some l else some y) none
  { cls := 7, cause := (l0.map (·.cause)).getD 0, tval := (l0.map (·.addr)).getD 0
    lanes := maskOf (d.map fun l => w.laneOf l.tid l.lane), tinst := some x.pc }
def overlap (a b : Nat × Nat) : Bool := decide (a.1 < b.1 + b.2) && decide (b.1 < a.1 + a.2)
/-- R279: the instruction reads a destination of the entry, for one of its threads. -/
def readsDest (e : Env) (x : LogEntry) : Bool :=
  match x.dest e.sh with
  | none => false
  | some d => e.parts.any fun p => p.sources.any fun q =>
      match regRange q.2.1 q.2.2 with
      | none => false
      | some r => overlap r d && p.testLanes.any fun l => p.reads l.2 q.1 && x.lanes.any fun y => y.tid == l.2
/-- R63: the ordering of an access of format M. -/
def ordOf : Instr → MemOrd
  | .ldp _ _ m _ | .stp _ _ m _ | .lds _ _ m _ | .sts _ _ m _ | .ldv _ _ m _ | .stv _ _ m _ | .ldg _ _ m _ | .stg _ _ m _
  | .ldf _ _ m _ | .stf _ _ m _ | .ldd _ m _ | .std _ m _ | .atms _ _ m _ | .atmv _ _ m _ | .atmg _ _ m _ | .atmf _ _ m _ => m.ord
  | _ => .plain
def ordAcq (o : MemOrd) : Bool := o == .acq || o == .ar
def ordRel (o : MemOrd) : Bool := o == .rel || o == .ar
/-- R160, R172, R207, R208: the instruction waits for every earlier access of its threads. -/
def isRelease (i : Instr) : Bool :=
  ordRel (ordOf i) || (match i with | .swarrive _ _ | .cstep _ | .timeOrd _ | .cpy _ _ | .bar _ | .jwait _ _ => true | _ => false)
/-- R251: the strong accesses of R254. -/
def isStrong (i : Instr) : Bool :=
  ordOf i != .plain || (match i with | .swinit _ _ | .swarrive _ _ | .swait _ _ => true | _ => false)
/-- R167: what a `fence.rel` holds. -/
def relHeld : Instr → Bool
  | .stp _ _ _ _ | .sts _ _ _ _ | .stv _ _ _ _ | .stg _ _ _ _ | .stf _ _ _ _ | .std _ _ _ | .atms _ _ _ _ | .atmv _ _ _ _
  | .atmg _ _ _ _ | .atmf _ _ _ _ | .swinit _ _ | .swarrive _ _ | .swait _ _ | .cpy _ _ | .tst _ _ _ _ => true
  | _ => false
/-- R160, R167: what an acquire holds: every access. -/
def isAccess : Instr → Bool
  | .ldp _ _ _ _ | .lds _ _ _ _ | .ldv _ _ _ _ | .ldg _ _ _ _ | .ldf _ _ _ _ | .ldd _ _ _ | .tld _ _ _ _ | .vgat _ | .dmov _ | .mmx _ _ => true
  | i => relHeld i
/-- R279: instructions at which an unrecoverable access of the warp, or of one of its lanes, surfaces. -/
def surfacesAll : Instr → Bool
  | .bar _ | .jwait _ _ | .swait _ _ | .mig _ => true
  | _ => false
def surfacesLane : Instr → Bool
  | .exit _ | .park _ => true
  | _ => false
/-- The lanes whose operands and order count: the leader alone for a leader's instruction (R190, R208). -/
def Env.actors (e : Env) : List (Nat × Nat) := if isLeaderOp e.instr then e.lanes.take 1 else e.lanes
/-- R256, R279: an executing thread must wait for its earlier access `id` before this instruction. -/
def awaits (e : Env) (tid id : Nat) (strong : Bool) : Bool :=
  let t := e.th tid
  e.actors.any (·.2 == tid) &&
    (isRelease e.instr || (strong && isStrong e.instr) || (isAccess e.instr && (t.facq.getD []).contains id)
      || (relHeld e.instr && (t.frel.getD []).contains id))
/-- R192, R193, R279: the trap of an unrecoverable tile transfer in a warp. -/
def Transfer.trapOf (w : Warp) (x : Transfer) : Trap :=
  { cls := 7, cause := (x.wait.map (·.cause)).getD 0, tval := BitVec.ofNat 64 ((x.wait.map (·.va)).getD 0)
    lanes := maskOf [w.laneOf x.tid x.lane], tinst := some x.pc }
/-- R279: the instruction reads the tile that an unrecoverable `tld` fills (R193, R196). -/
def readsTile (e : Env) (x : Transfer) : Bool :=
  (match x.instr with | .tld _ _ _ _ => true | _ => false) && !e.lanes.isEmpty &&
    (match e.instr, e.f.a with
     | .tst _ _ _ _, .t n => n.toNat == x.tile
     | .mmx _ _, _ => (match e.block with
        | some b => b.2.passes.any fun p => passAT p == x.tile || passBT p == x.tile || (passCT p == x.tile && !passZ p)
        | none => false)
     | _, _ => false)
/-- R166: a prefetch never traps, so nothing surfaces at it. -/
def isPrefetch : Instr → Bool | .pfg _ _ | .pfgLlc _ _ => true | _ => false
/-- R279: an unrecoverable operand-log entry surfaces at this instruction. -/
def surfacesLog (e : Env) (x : LogEntry) : Bool :=
  x.dead && (readsDest e x || e.meetsLog x || (surfacesAll e.instr && !e.lanes.isEmpty)
    || (surfacesLane e.instr && e.lanes.any fun l => x.lanes.any fun y => y.tid == l.2)
    || x.lanes.any fun y => awaits e y.tid x.id (isStrong x.instr))
/-- The same for a tile transfer. -/
def surfacesTransfer (e : Env) (x : Transfer) : Bool :=
  x.dead && (readsTile e x || e.meetsTransfer x || (surfacesAll e.instr && !e.lanes.isEmpty)
    || (surfacesLane e.instr && e.lanes.any fun l => l.2 == x.tid) || awaits e x.tid x.id false)
/-- The trap with the lowest identifier. -/
def oldestTrap (xs : List (Nat × Trap)) : Check :=
  match xs.foldl (fun b x => match b with | none => some x | some y => if x.1 < y.1 then some x else some y) (none : Option (Nat × Trap)) with
  | some x => .trap x.2
  | none => .pass
/-- R279, R299 point 2: the unrecoverable accesses that surface at this instruction; the oldest wins. -/
def surfaced (e : Env) : Check :=
  if isPrefetch e.instr then .pass
  else oldestTrap (((e.log.filter (surfacesLog e)).map fun x => (x.id, x.trapOf e.w))
    ++ (e.transfers.filter (surfacesTransfer e)).map fun x => (x.id, x.trapOf e.w))
/-- R212: an operand that the scalar unit can read. -/
def scalarOpd (o : Opd) : Bool := match o with | .v _ | .l _ | .t _ | .p _ => false | _ => true
def isScalarDest (o : Opd) : Bool := match o with | .s _ => true | _ => false
/-- R205: numbers that only a handler may name, and numbers of thread scope. -/
def csrHandler (num : Nat) : Bool := 0x040 ≤ num && num ≤ 0x044
def csrThread (num : Nat) : Bool := num == 0 || num == 0x010 || num == 0x011 || num == 0x018 || num == 0x019
/-- R212: the instruction may run in handler mode; an address without an index names `0x1FF` as B (log entry 129). -/
def handlerAllows (i : Instr) (f : Fields) : Bool :=
  let scalar := scalarOpd f.a && scalarOpd f.b && scalarOpd f.c
  f.g == .always &&
  match i with
  | .add _ _ _ | .sub _ _ _ | .min _ _ _ | .max _ _ _ | .abs _ _ _ | .neg _ _ _ | .and _ _ _ | .or _ _ _ | .xor _ _ _ | .andn _ _ _
  | .not _ _ _ | .shl _ _ _ | .shr _ _ _ | .sar _ _ _ | .rot _ _ _ | .mov _ _ _ | .mul _ _ _ | .mulh _ _ _ | .mad _ _ _ | .bfx _ _ _
  | .bfi _ _ _ | .popc _ _ _ | .clz _ _ _ | .ctz _ _ _ | .fnth _ _ _ | .brev _ _ _ | .moviB32 _ | .moviB64I _ | .moviB64W _ _ =>
    scalar && isScalarDest f.d
  | .sts _ _ _ _ | .stv _ _ _ _ | .stg _ _ _ _ =>
    isScalarDest f.a && isScalarDest f.c && (isScalarDest f.b || f.b == .z)
  | .bra _ | .nopN _ | .nopI _ | .nopW _ | .rte _ | .lrd _ _ | .lwr _ _ => true
  | .time _ | .timeOrd _ => isScalarDest f.d
  | .csrr num _ => isScalarDest f.d && !csrThread num.toNat
  | .csrw num _ => scalarOpd f.a && !csrThread num.toNat
  | _ => false
/-- The handler-state trap at an instruction (R297). -/
def handlerTrap (e : Env) : Trap := { cls := 12, cause := 0, tval := e.pc.setWidth 64, lanes := e.execMask }
/-- R205, R212 to R214. -/
def handlerCheck (e : Env) : Check :=
  if e.hmode then (if handlerAllows e.instr e.f then .pass else .trap (handlerTrap e))
  else if e.lanes.isEmpty then .pass
  else
    match e.instr with
    | .rte _ | .lrd _ _ | .lwr _ _ => .trap (handlerTrap e)
    | .csrr num _ | .csrw num _ => if csrHandler num.toNat then .trap (handlerTrap e) else .pass
    | _ => .pass
/-- R120, R218: the instruction uses the scratchpad, the tile window or the barrier whatever its operands hold. -/
def usesHome : Instr → Bool
  | .lds _ _ _ _ | .sts _ _ _ _ | .atms _ _ _ _ | .bar _ | .cpy _ _ | .tld _ _ _ _ | .tst _ _ _ _ | .tzero _ | .mmx _ _ | .mmq _ => true
  | _ => false
/-- A trap of class 4 (R297). -/
def controlTrap (cause : Nat) (tval : Quad) (lanes : Mask) (note : TrapNote := .none) : Trap :=
  { cls := 4, cause := cause, tval := tval, lanes := lanes, note := note }
def awayTrap (e : Env) : Trap := controlTrap 7 (e.pc.setWidth 64) e.execMask
/-- R120, R171: a sync-word instruction names a word of the scratchpad in a lane whose address can be read. -/
def namesScratchWord (e : Env) : Bool :=
  match e.instr with
  | .swinit _ _ | .swarrive _ _ | .swait _ _ => e.touches.any fun y => y.space == .scratch
  | _ => false
def awayCheck (e : Env) : Check :=
  if e.w.away.isSome && (usesHome e.instr || namesScratchWord e) && !e.lanes.isEmpty then .trap (awayTrap e) else .pass
/-- R142: an operation on links would exceed a limit of its thread, and waits at issue. -/
def chainFull (e : Env) : Bool :=
  e.lanes.any fun l => match e.f.d with
    | .l _ => decide (8 ≤ (e.th l.2).producers)
    | _ => (e.sources.any fun q => match q.2.1 with | .l _ => true | _ => false) && decide (4 ≤ (e.th l.2).consumers)
/-- R129, R139, R150: the link checks of one operation: busy, then consumed or claimed, then format. They are made when it issues,
so not while it waits (log entry 147). -/
def linkCheck (e : Env) : Check :=
  if chainFull e then .pass else
  let wide := match e.instr with
    | .fcvt _ ts _ _ => ts == .f64
    | .fadd t _ _ | .fsub t _ _ | .fmul t _ _ | .fma t _ _ | .fdiv t _ _ | .fsqrt t _ _ | .fmin t _ | .fmax t _ | .fcmp t _ _ | .fsel t _ =>
      t == .f64
    | _ => false
  let mk (cause n : Nat) (ls : List (Nat × Nat)) : Check :=
    match ls with
    | [] => .pass
    | l :: _ => .trap { cls := 5, cause := cause, tval := BitVec.ofNat 64 n, lanes := maskOf (ls.map (·.1))
                        note := if cause = 3 then .format ((e.th l.2).link n).wide else .none }
  let busy := match e.f.d with
    | .l n => mk 1 n.toNat (e.lanes.filter fun l => ((e.th l.2).link n.toNat).st != .consumed)
    | _ => .pass
  let src (k : Nat → Nat → List (Nat × Nat) → Check) : List Check := e.sources.map fun q =>
    match q.2.1 with | .l n => k q.1 n.toNat e.lanes | _ => .pass
  firstCheck (busy :: (src fun _ n ls => mk 2 n (ls.filter fun l => ((e.th l.2).link n).st == .consumed || (e.th l.2).claimed n))
    ++ (src fun _ n ls => mk 3 n (ls.filter fun l => ((e.th l.2).link n).wide != wide)))
/-- R61: the empty-source trap, of the first source with E = 1 that is empty. -/
def emptyTrap (e : Env) : Check :=
  if isPrefetch e.instr then .pass
  else firstCheck (e.parts.flatMap fun p => p.sources.map fun q =>
    if p.f.e.getLsbD q.1 then
      let ls := p.emptyLanes q.1 q.2.1 q.2.2
      if ls.isEmpty then .pass
      else .trap { cls := 2, cause := 1, tval := BitVec.ofNat 64 (q.2.1.code.toNat + q.1 * 2 ^ 9), lanes := maskOf (ls.map (·.1)) }
    else .pass)
/-- R166: a lane of a prefetch that is dropped, for a source that is empty with E = 1, or that an unrecoverable access never
fills. -/
def prefetchDrops (e : Env) (l : Nat × Nat) : Bool :=
  isPrefetch e.instr && e.sources.any fun q => (e.emptyLanes q.1 q.2.1 q.2.2).contains l &&
    (e.f.e.getLsbD q.1 || e.log.any fun x => x.dead && x.lanes.any (·.tid == l.2) &&
      (match x.dest e.sh, regRange q.2.1 q.2.2 with | some d, some r => overlap r d | _, _ => false))
/-- R61: an empty source with E = 0. -/
def emptyWait (e : Env) : Check :=
  if e.parts.any fun p => p.sources.any fun q => !p.f.e.getLsbD q.1 &&
      (p.emptyLanes q.1 q.2.1 q.2.2).any fun l => !prefetchDrops e l then .wait else .pass
/-- R134: the predicates an operation reads or writes, beside its guard. -/
def Env.preds (e : Env) : List Nat :=
  let r := roles e.sh e.instr
  let grp (g : Nat) : List Nat := (List.range 32).map (· + 32 * g)
  ([(e.f.d, r.d), (e.f.a, r.a), (e.f.b, r.b), (e.f.c, r.c)].filterMap fun x =>
    match x.1 with | .p n => if x.2.pred then some n.toNat else none | _ => none)
  ++ (match e.instr with | .ppack g _ => grp g.toNat | .punpack g _ => grp g.toNat | _ => [])
/-- R134: a guard predicate of some lane of the entry is still to be written by an `fcmp`. -/
def guardWait (e : Env) : Bool :=
  let gs := match e.instr with | .pairWord x y => [x.g, y.g] | _ => [e.f.g]
  gs.any fun g => match g with
    | .always => false
    | .pred n _ => (e.w.lanesIn e.mask).any fun l => (e.th l.2).predBusy n.toNat
/-- R145: a link consumer in flight holds the thread while a trap enable is set. -/
def Thread.teHold (t : Thread) : Bool :=
  t.anyEnable && t.chain.any fun r => [r.a, r.b, r.c].any fun x => match x with | .link _ => true | _ => false
/-- R134, R145: what keeps an instruction from issuing before anything of it is tested: a predicate that it reads, writes or is
guarded by is still to be written by an `fcmp`, or a link consumer holds the thread. -/
def issueHeld (e : Env) : Bool :=
  guardWait e || (e.lanes.any fun l => (e.th l.2).teHold) ||
    e.parts.any fun p => p.preds.any fun n => p.lanes.any fun l => (e.th l.2).predBusy n
/-- R142, R158: waits for destinations that earlier instructions still write. -/
def destWait (e : Env) : Bool :=
  e.parts.any fun p => p.lanes.any fun l =>
    match p.destRange with | some r => !(p.th l.2).isFull r.1 r.2 || (p.th l.2).regBusy r.1 r.2 | none => false
/-- The waits for registers at issue; an instruction that meets the empty-source trap waits for none (log entry 147). -/
def registerWait (e : Env) : Check :=
  match emptyTrap e with
  | .trap _ => .pass
  | _ => firstCheck [emptyWait e, if destWait e then .wait else .pass]
/-- The checks of R299 points 2 to 6, with the waits at issue. -/
def preCheck (e : Env) : Check :=
  if e.hmode then firstCheck [handlerCheck e, awayCheck e]
  else if issueHeld e then .wait
  else firstCheck ([surfaced e, handlerCheck e, awayCheck e, registerWait e] ++ e.parts.map linkCheck ++ [emptyTrap e])

/-! ### The end of an issue -/

/-- R110: where a non-control instruction leaves its entry, or the handler. -/
def Env.advance (e : Env) (s : State) : State :=
  s.modCrew e.c.id fun c => c.modWarp e.w.wid fun w =>
    match w.handler with
    | some h => if e.hmode then { w with handler := some { h with pc := e.pc + BitVec.ofNat 56 e.len }, waiting := 0 } else w
    | none => { w with entries := noteIssue e.eid (w.entries.map (·.eid)) (advanceEntry c.kernel e.eid e.len w.entries), waiting := 0 }
/-- R110: an entry carried past an instruction that holds none of its lanes. -/
def Env.moveOn (e : Env) (s : State) : State :=
  s.modCrew e.c.id fun c => c.modWarp e.w.wid fun w => { w with entries := advanceEntry c.kernel e.eid e.len w.entries }
/-- The bookkeeping of an issue that placed its lanes itself; entries that it made have not waited yet (R236). -/
def Env.noted (e : Env) (s : State) : State :=
  s.modCrew e.c.id fun c => c.modWarp e.w.wid fun w =>
    { w with entries := noteIssue e.eid (e.w.entries.map (·.eid)) w.entries, waiting := 0 }
/-- The next state of an issue that waits: nothing changed but the mark. -/
def waitState (s : State) : State := { s with waited := true }
/-- The outcome of a body's result. -/
def finish (e : Env) (s : State) (adv : State → State) (r : Res) : Host.Outcome State Fault Refusal :=
  match r with
  | .go t => .next (adv { t with waited := false })
  | .wait => .next (waitState s)
  | .stall t => .next (waitState t)
  | .trap t x => .next (takeTrap { t with waited := false } e.c.id e.w.wid e.eid e.pc e.len x)
  | .refuse r => .refused r
/-- One issue of an instruction that is not a control instruction. -/
def issue (i : Instr) (s : State) (body : Env → State → Res) : Host.Outcome State Fault Refusal :=
  match envOf i s with
  | none => .refused .noWarp
  | some e =>
    match preCheck e with
    | .wait => finish e s e.advance .wait
    | .trap t => finish e s e.advance (.trap s t)
    | .pass => finish e s e.advance (body e s)
/-- One issue of an instruction whose body places its lanes. -/
def issueCtl (i : Instr) (s : State) (body : Env → State → Res) : Host.Outcome State Fault Refusal :=
  match envOf i s with
  | none => .refused .noWarp
  | some e =>
    match preCheck e with
    | .wait => finish e s e.noted .wait
    | .trap t => finish e s e.noted (.trap s t)
    | .pass => finish e s e.noted (body e s)

end Sys2Proof.Machine
end

