-- ==== Sys2Proof/Machine/Frontier.lean ====
section
/-! DEFINITION. Moving lanes: destinations of control instructions (R110, R111), the pool and its bins (R232, R233), joins
(R119), the crew barrier (R168), the end of a thread (R117), and the acquire of an L1 (R249). -/
namespace Sys2Proof.Machine

/-! ### Acquire: R160, R249 -/

/-- R249: every valid word of the core's L1 that is not owned becomes invalid. -/
def l1Acquire (s : State) (core : Nat) : State :=
  let l := s.l1.map fun x => if x.core = core then { x with valid := x.valid &&& x.owned } else x
  { s with l1 := l.filter fun x => x.valid != 0 }

/-! ### The pool: R232, R233 -/

/-- R233: a record enters the pool. -/
def poolInsert (r : PoolRec) (c : Crew) : Crew :=
  if !c.queue.isEmpty then { c with queue := c.queue ++ [r] }
  else if c.bins.any fun b => match b with | some b => b.key == r.pc | none => false then
    { c with bins := c.bins.map fun b => match b with
        | some b => if b.key == r.pc then some { b with recs := b.recs ++ [r] } else some b
        | none => none }
  else
    match c.bins.findIdx? (fun b : Option Bin => b.isNone) with
    | some i => { c with bins := c.bins.set i (some ⟨r.pc, [r]⟩) }
    | none => { c with queue := c.queue ++ [r] }
/-- R233: a free bin takes the address of the queue's head. -/
def poolSettle : Nat → Crew → Crew
  | 0, c => c
  | n + 1, c =>
    let bs := c.bins.map fun b : Option Bin => match b with | some b => if b.recs.isEmpty then none else some b | none => none
    let c := { c with bins := bs }
    match c.queue, c.bins.findIdx? (fun b : Option Bin => b.isNone) with
    | r :: _, some i =>
      poolSettle n { c with bins := c.bins.set i (some ⟨r.pc, c.queue.filter fun x => x.pc == r.pc⟩)
                            queue := c.queue.filter fun x => x.pc != r.pc }
    | _, _ => c
/-- Lanes of a warp leave it. -/
def emptyLanes (m : Mask) (w : Warp) : Warp :=
  { w with lanes := (List.range w.lanes.length).map fun i => if m.getLsbD i then none else w.lanes.getD i none
           entries := dropLanes m w.entries }
/-- R229, R234, R236: a warp without a live lane frees its slot, and its landing slot; its deferred accesses stay in the slot's
log. -/
def freeSlots (c : Crew) : Crew := { c with warps := c.warps.filter fun w => !w.entries.isEmpty }
/-- Lanes become records at an address, in thread order (R232). -/
def lanesToPool (k : Kernel) (cycle : Nat) (pc : BitVec 56) (prio : Option Nat) (tids : List Nat) (c : Crew) : Crew :=
  (sortBy (fun a b => decide (a ≤ b)) tids).foldl (fun c t => poolInsert ⟨pc, prio.getD (k.prioAt pc), t, cycle⟩ c) c

/-! ### Joins and the barrier -/

/-- R119: the lanes are members of a pending join. -/
def Warp.joined (w : Warp) (m : Mask) : Bool := w.joins.any fun j => j.members &&& m != 0
/-- R119: `check(N)`; the second part is whether the join released its lanes. -/
def checkJoin (k : Kernel) (n : Nat) (w : Warp) : Warp × Bool :=
  match w.joins[n]? with
  | none => (w, false)
  | some j =>
    if j.arrived != 0 && j.members &&& ~~~j.arrived == 0 then
      let held := w.entries.filter fun e => e.hold == .jwait n
      let rest := w.entries.filter fun e => e.hold != .jwait n
      ({ w with entries := held.foldl (fun es e => placeLanes k e.eid (e.pc + 8) e.mask es) rest
                joins := w.joins.set n ⟨0, 0⟩ }, true)
    else (w, false)
/-- R117, R118: lanes leave the MEMBERS of every join, each of which is then checked; whether any released. -/
def leaveJoins (k : Kernel) (m : Mask) (w : Warp) : Warp × Bool :=
  let w := { w with joins := w.joins.map fun j => ⟨j.members &&& ~~~m, j.arrived &&& ~~~m⟩ }
  (List.range 8).foldl (fun x n => let y := checkJoin k n x.1; (y.1, x.2 || y.2)) (w, false)
/-- R168: the lanes of a warp that `bar` holds go on. -/
def releaseBar (k : Kernel) (w : Warp) : Warp :=
  let held := w.entries.filter fun e => e.hold == .bar
  let rest := w.entries.filter fun e => e.hold != .bar
  { w with entries := held.foldl (fun es e => placeLanes k e.eid (e.pc + 8) e.mask es) rest }
/-- R168: `check_bar()`: every held thread goes on after its `bar`, records in the order of their thread slots (R237); whether it
released. -/
def checkBar (cycle : Nat) (c : Crew) : Crew × Bool :=
  if c.barrier.arrived > 0 && c.barrier.arrived == c.barrier.expect then
    let free := sortBy (fun a b : HeldRec => decide (a.tid ≤ b.tid)) (c.held.filter fun h => h.hold == .bar)
    let held := c.held.filter fun h => h.hold != .bar
    let c : Crew := { c with barrier := { c.barrier with arrived := 0, mask := 0 }, held := held
                             warps := c.warps.map (releaseBar c.kernel) }
    (free.foldl (fun c h => poolInsert ⟨h.pc + 8, c.kernel.prioAt (h.pc + 8), h.tid, cycle⟩ c) c, true)
  else (c, false)
/-- The acquire that a release of held lanes makes on a core (R119, R168). -/
def acquireIf (b : Bool) (core : Nat) (s : State) : State := if b then l1Acquire s core else s

/-! ### The end of a thread: R117 -/

/-- R117, R138: what `exit` does to the thread itself. -/
def Thread.ended (t : Thread) : Thread :=
  { t with exited := true, chain := [], links := t.links.map fun _ => LinkReg.clear, facq := none, frel := none, finv := false }
/-- R117: the deferred loads of ended lanes go; their stores and atomics stay. -/
def dropLoads (tids : List Nat) (l : List LogEntry) : List LogEntry :=
  (l.map fun x => match x.instr with
    | .ldp _ _ _ _ | .ldv _ _ _ _ | .ldg _ _ _ _ | .ldf _ _ _ _ => { x with lanes := x.lanes.filter fun y => !tids.contains y.tid }
    | _ => x).filter fun x => !x.lanes.isEmpty
/-- R117: threads end: their lanes leave the warp, its joins and the barrier's count. -/
def endThreads (s : State) (crew wid : Nat) (lanes : List (Nat × Nat)) : State :=
  if lanes.isEmpty then s
  else
    match s.crew? crew with
    | none => s
    | some c =>
      match c.warp? wid with
      | none => s
      | some w =>
        let m := maskOf (lanes.map (·.1))
        let tids := lanes.map (·.2)
        let j := leaveJoins c.kernel m (emptyLanes m w)
        let c := tids.foldl (fun c t => c.modThread t Thread.ended) { c.setWarp j.1 with log := dropLoads tids c.log }
        let b := checkBar s.cycle { c with barrier := { c.barrier with expect := c.barrier.expect - lanes.length } }
        let core := c.warpCore w
        acquireIf b.2 c.core (acquireIf j.2 core
          { s.setCrew (freeSlots b.1) with rets := s.rets.filter fun r => !(r.crew == crew && tids.contains r.tid) })

/-! ### Placing lanes: R110, R111 -/

/-- A destination group: its address and lanes. -/
abbrev Group := BitVec 56 × Mask
/-- Lanes with one destination form one group. -/
def addGroup (pc : BitVec 56) (m : Mask) : List Group → List Group
  | [] => if m = 0 then [] else [(pc, m)]
  | g :: r => if g.1 = pc then (g.1, g.2 ||| m) :: r else g :: addGroup pc m r
/-- The address is that of an entry that is not held. -/
def standsAt (es : List Entry) (pc : BitVec 56) : Bool := es.any fun e => e.hold == .none && e.pc == pc
/-- R111: the order in which groups are handed to Millet: lowest priority first, then the higher address. -/
def handOrder (k : Kernel) (a b : Group) : Bool :=
  let pa := k.prioAt a.1
  let pb := k.prioAt b.1
  decide (pa < pb) || (pa == pb && decide (b.1.toNat ≤ a.1.toNat))
/-- R111: groups handed off one after another while they meet both conditions, until the overflow ends. -/
def handOff (k : Kernel) (cycle : Nat) (w : Warp) : List Group → Nat → Crew × List Group → Option (Crew × List Group)
  | _, 0, r => some r
  | [], _ + 1, _ => none
  | g :: gs, n + 1, (c, out) =>
    if w.joined g.2 then handOff k cycle w gs (n + 1) (c, out)
    else if !c.bins.any fun b => b.isNone then none
    else handOff k cycle w gs n (lanesToPool k cycle g.1 none ((w.lanesIn g.2).map (·.2)) c, g :: out)
/-- R110, R111: the groups of a control instruction placed: entry `eid` goes, its lanes go to their groups, and `extra` held
entries are to follow. None where the frontier overflows. -/
def placeGroups (cycle eid0 extra : Nat) (c : Crew) (w : Warp) (eid : Nat) (gs : List Group) : Option (Crew × Warp) :=
  let es := w.entries.filter fun e => e.eid != eid
  let fresh := gs.filter fun g => !standsAt es g.1
  let excess := es.length + fresh.length + extra - 8
  let put (gs : List Group) (es : List Entry) : List Entry :=
    (gs.zipIdx).foldl (fun es x => placeLanes c.kernel (eid0 + x.2) x.1.1 x.1.2 es) es
  if excess = 0 then some (c, { w with entries := put gs es })
  else if c.kernel.shape.width ≠ 0 then none
  else
    match handOff c.kernel cycle w (sortBy (handOrder c.kernel) fresh) excess (c, []) with
    | none => none
    | some (c, out) =>
      let m := out.foldl (fun m g => m ||| g.2) (0 : Mask)
      let keep := gs.filter fun g => !out.contains g
      some (c, emptyLanes m { w with entries := put keep es })
/-- R111, R127, R297: the frontier-overflow trap: the executing lanes, with the frontier count (log entry 18) and the groups that have
no entry. -/
def overflowTrap (e : Env) (w : Warp) (gs : List Group) : Trap :=
  controlTrap 1 (BitVec.ofNat 64 w.entries.length) e.execMask
    (.groups (gs.filter fun g => !standsAt (w.entries.filter fun x => x.eid != e.eid) g.1))
/-- R253: threads of an away warp that go to the pool run on at home, whose L1 keeps no word that an access of theirs made stale. -/
def comeHome (c : Crew) (w : Warp) (s : State) : State := if c.kernel.shape.width = 0 && w.away.isSome then l1Acquire s c.core else s
/-- A control instruction: the lanes of `dest` go there, those of `out` leave the entry otherwise (with `extra` held entries to
follow), and the others go to the next word. -/
def placeSome (e : Env) (s : State) (dest : List (Nat × BitVec 56)) (out : Mask) (extra : Nat) : Res :=
  if e.hmode then
    let pc := match dest with | x :: _ => x.2 | [] => e.pc + BitVec.ofNat 56 e.len
    .go (s.modCrew e.c.id fun c => c.modWarp e.w.wid fun w =>
      { w with handler := w.handler.map fun h => { h with pc := pc } })
  else
    match s.crew? e.c.id with
    | none => .go s
    | some c =>
      match c.warp? e.w.wid with
      | none => .go s
      | some w =>
        let gs := dest.foldl (fun g x => addGroup x.2 (maskOf [x.1]) g) []
        let gs := addGroup (e.pc + BitVec.ofNat 56 e.len) (e.mask &&& ~~~(maskOf (dest.map (·.1)) ||| out)) gs
        match placeGroups s.cycle s.uid extra c w e.eid gs with
        | some (d, v) =>
          let t := { s.setCrew (d.setWarp v) with uid := s.uid + gs.length + 1 }
          .go (if v.lanes = w.lanes then t else comeHome d v t)
        | none => .trap s (overflowTrap e w gs)
/-- The same where every lane is placed; a warp left empty goes. -/
def placeAll (e : Env) (s : State) (dest : List (Nat × BitVec 56)) : Res :=
  match placeSome e s dest 0 0 with
  | .go s => .go (s.modCrew e.c.id freeSlots)
  | r => r
/-- A control instruction that changes the state before it places its lanes: an overflow leaves the state as it was (R111). -/
def precisely (s : State) (r : Res) : Res := match r with | .trap _ t => .trap s t | r => r
/-- R168, R173: lanes held at their instruction, as an entry that never merges or, in a width-free kernel, as held records, whose lanes
are members of no join any more (R235, log entry 57); the entry's other lanes go on (R110). -/
def holdLanes (e : Env) (h : Hold) (lanes : List (Nat × Nat)) (s : State) : State :=
  match s.crew? e.c.id with
  | none => s
  | some c =>
    match c.warp? e.w.wid with
    | none => s
    | some w =>
      match w.entries.find? fun x => x.eid == e.eid with
      | none => s
      | some x =>
        let m := maskOf (lanes.map (·.1))
        let kept := w.entries.filterMap fun y =>
          if y.eid = e.eid then (if y.mask &&& ~~~m = 0 then none else some { y with mask := y.mask &&& ~~~m }) else some y
        let w := { w with entries := advanceEntry c.kernel e.eid e.len kept }
        let s := { s with uid := s.uid + 1 }
        if c.kernel.shape.width = 0 then
          let j := leaveJoins c.kernel m (emptyLanes m w)
          comeHome c w <| acquireIf j.2 (c.warpCore w) (s.setCrew (freeSlots
            { c.setWarp j.1 with held := c.held ++ lanes.map fun l => ⟨e.pc, l.2, h⟩ }))
        else s.setCrew (c.setWarp { w with entries := placeHeld (s.uid - 1) e.pc x.prio h m w.entries })

end Sys2Proof.Machine
end

