-- ==== Sys2Proof/Machine/Translate.lean ====
section
/-! DEFINITION. Translation: the window, the TLBs, the walk, and the merge table of faults: R268 to R277. -/
namespace Sys2Proof.Machine

/-- What a translation answers: a key with its virtual page, the host page whose ATS translation it waits for, or a cause of
R275. -/
inductive Xl
  | ok (key vpage : Nat)
  | ats (page : Nat)
  | fault (cause : Nat)
  deriving DecidableEq, Repr

/-- R268, R272: values a context took up: ROOT, CTX, HEAP_BASE, HEAP_LIMIT, HEAP_OFFSET, HOLE0 to HOLE7. -/
def Ctx.xl (x : Ctx) (i : Nat) : Nat := (x.xlat.getD i 0).toNat
def Ctx.pasid (x : Ctx) : Nat := x.xl 1 % 2 ^ 20
def Ctx.prien (x : Ctx) : Bool := (x.xlat.getD 1 0).getLsbD 25
def Ctx.part (x : Ctx) : Nat := bitsOf (x.xl 1) 23 20
/-- R273: the address lies in the window and in no valid hole. -/
def Ctx.inWindow (x : Ctx) (va : Nat) : Bool :=
  decide (x.xl 2 ≤ va) && decide (va < x.xl 2 + x.xl 3) &&
    !(List.range 8).any fun i => x.xl (5 + i) % 2 == 1 && x.xl (5 + i) / 2 ^ 16 == va / 2 ^ 16
/-- R275: causes that a page request can mend. -/
def recoverable (c : Nat) : Bool := c == 1 || c == 2 || c == 3

/-- R270: the fields of an entry. -/
def entV (x : Nat) : Bool := x % 2 == 1
def entLeaf (x : Nat) : Bool := bitsOf x 1 1 == 1
def entTgt (x : Nat) : Nat := bitsOf x 57 56
def entAddr (x : Nat) : Nat := bitsOf x 51 15 * 2 ^ 15
/-- R270: the entry is malformed at its level. -/
def entMalformed (x level : Nat) : Bool :=
  entV x &&
    (bitsOf x 63 58 != 0 || bitsOf x 55 52 != 0 || bitsOf x 14 5 != 0 || entTgt x == 3
      || (entLeaf x && decide (level < 3)) || (!entLeaf x && level == 4)
      || (!entLeaf x && (bitsOf x 4 2 != 0 || entTgt x != 0))
      || (entLeaf x && entTgt x == 1 && (decide (160 ≤ bitsOf x 30 23) || bitsOf x 51 31 != 0))
      || (entLeaf x && level == 3 && (entTgt x != 0 || bitsOf x 26 15 != 0)))
/-- R271: the leaf permits the access. -/
def permits (x : Nat) : Access → Bool
  | .read => bitsOf x 2 2 == 1
  | .write => bitsOf x 3 3 == 1
  | .atomic => bitsOf x 2 2 == 1 && bitsOf x 3 3 == 1
  | .fetch => bitsOf x 4 4 == 1
/-- R269: the index of a level. -/
def levelIndex (level va : Nat) : Nat :=
  match level with
  | 1 => bitsOf va 55 51
  | 2 => bitsOf va 50 39
  | 3 => bitsOf va 38 27
  | _ => bitsOf va 26 15
/-- R269: the walk from a table down: the leaf with its level, or a cause. -/
def walk (s : State) (va : Nat) : Nat → Nat → Nat → Except Nat (Nat × Nat)
  | 0, _, _ => .error 3
  | fuel + 1, level, table =>
    let a := table + 8 * levelIndex level va
    if s.busError a || s.poisoned a 8 then .error 7
    else
      let x := s.physNat a 8
      if !entV x then .error 1
      else if entMalformed x level then .error 3
      else if entLeaf x then .ok (x, level)
      else walk s va fuel (level + 1) (entAddr x)
/-- R270: the key of an address in a leaf; a host leaf needs its ATS translation. -/
def leafKey (x level va : Nat) (host : Option Nat) : Option Nat :=
  match entTgt x with
  | 0 => some (if level = 3 then bitsOf x 51 27 * 2 ^ 27 + va % 2 ^ 27 else entAddr x + va % 2 ^ 15)
  | 1 => some (vaultKey (bitsOf x 30 23) (bitsOf x 22 15 * 2 ^ 15 + va % 2 ^ 15))
  | _ => host.map fun h => hostKey (h + va % 2 ^ 15)
/-- R271: what a leaf gives an access. -/
def leafResult (s : State) (x level va : Nat) (host : Option Nat) (kind : Access) : Xl :=
  if !permits x kind then .fault 2
  else if kind == .fetch && entTgt x != 0 then .fault 8
  else
    match leafKey x level va host with
    | none => .ats (entAddr x / 2 ^ 15)
    | some k => if s.busError k then .fault 7 else .ok k (va / 2 ^ 15)
/-- R274: an entry of a core's first-level TLB, or with no core of the die's second level, that covers an address. -/
def TlbEnt.covers (t : TlbEnt) (die : Nat) (core : Option Nat) (ctx va : Nat) : Bool :=
  t.die == die && t.core == core && t.ctx == ctx && (if t.level = 3 then t.vpage / 2 ^ 12 == va / 2 ^ 27 else t.vpage == va / 2 ^ 15)
/-- R274: an entry put into a TLB in place of what it covers. -/
def State.tlbPut (s : State) (va : Nat) (t : TlbEnt) : State :=
  { s with tlb := t :: s.tlb.filter fun y => !y.covers t.die t.core t.ctx va }
/-- R274: what the TLBs of a core and of its die hold for an access: the first level before the second, whose entry the first
then takes. -/
def tlbFind (s : State) (die : Nat) (core : Option Nat) (ctx va : Nat) (kind : Access) : Option (State × TlbEnt) :=
  let at' (c : Option Nat) : Option TlbEnt := s.tlb.find? fun t => t.covers die c ctx va && permits t.leaf.toNat kind
  match at' core with
  | some t => some (s, t)
  | none =>
    if core.isNone then none
    else (at' none).map fun t => (s.tlbPut va { t with core := core }, t)
/-- R271 to R275: translate a 56-bit address for a context on a die, for one of its cores or for another unit. A miss walks in the
same step; a good leaf enters the TLBs (log entry 7). A fault that only a page request could mend is unrecoverable where requests
are off. -/
def xlate (s : State) (die : Nat) (core : Option Nat) (ctx va : Nat) (kind : Access) : State × Xl :=
  let x := s.ctx ctx
  if x.inWindow va then
    if kind == .fetch then (s, .fault 8)
    else
      let k := ((va : Int) + sInt 64 (x.xl 4)) 
      if k < 0 then (s, .fault 7)
      else
        let k := k.toNat
        (s, if !s.cached k || s.busError k then .fault 7 else .ok k (va / 2 ^ 15))
  else
    let fix (r : Xl) : Xl := match r with
      | .fault c => if recoverable c && (!x.prien || s.priStopped) then .fault 5 else r
      | r => r
    match tlbFind s die core ctx va kind with
    | some t => (t.1, fix (leafResult s t.2.leaf.toNat t.2.level va t.2.host kind))
    | none =>
      match walk s va 4 1 (bitsOf (x.xl 0) 51 8 * 2 ^ 8) with
      | .error c => (s, fix (.fault c))
      | .ok (leaf, level) =>
        let r := leafResult s leaf level va none kind
        match r with
        | .ok _ _ =>
          let t : TlbEnt := ⟨die, none, ctx, va / 2 ^ 15, level, BitVec.ofNat 64 leaf, none⟩
          (if core.isSome then (s.tlbPut va t).tlbPut va { t with core := core } else s.tlbPut va t, r)
        | r => (s, fix r)

/-! ### The merge table: R276, R277 -/

/-- R276: a recoverable fault joins the entry of its page, or takes a new one; whether it found room. -/
def mergeJoin (s : State) (die ctx vpage : Nat) (kind : Access) (w : Waiter) : State × Bool :=
  let p := (s.ctx ctx).pasid
  let rd := kind == .read || kind == .atomic
  let wr := kind == .write || kind == .atomic
  let ex := kind == .fetch
  if s.merge.any fun m => m.die == die && m.pasid == p && m.vpage == vpage then
    let f (m : MergeEnt) : MergeEnt := if m.die = die ∧ m.pasid = p ∧ m.vpage = vpage then
      { m with rd := m.rd || rd, wr := m.wr || wr, ex := m.ex || ex
               waiters := if m.waiters.contains w then m.waiters else m.waiters ++ [w] } else m
    ({ s with merge := s.merge.map f }, true)
  else if (s.merge.filter fun m => m.die == die).length < 1024 then
    ({ s with merge := s.merge ++ [⟨die, ctx, p, vpage, rd, wr, ex, [w], none⟩] }, true)
  else (s, false)
/-- R270: an ATS request for a host page, sent once while it is awaited (log entry 8). -/
def atsAsk (s : State) (ctx page : Nat) : State :=
  let m := HostMsg.atsRequest (s.ctx ctx).pasid page
  if s.hostOut.contains m then s else { s with hostOut := s.hostOut ++ [m] }
/-- R277: a page request leaves for an entry when an index is free and the allocation allows it. -/
def sendPageRequest (s : State) (m : MergeEnt) : Option State :=
  let used := 512 - s.prgFree.length
  match s.prgFree with
  | i :: r =>
    if m.prgi.isSome || decide (s.priAlloc ≤ used) || s.priStopped then none
    else some { s with
      prgFree := r
      merge := s.merge.map fun y => if y = m then { y with prgi := some i } else y
      hostOut := s.hostOut ++ [.pageRequest m.pasid i m.vpage m.rd m.wr m.ex] }
  | [] => none
/-- PAGE_REQUEST: R277. Requests leave in entry order, so an entry goes only when none before it waits. -/
def execPageRequest (die ctx vpage : Nat) (s : State) : Host.Outcome State Fault Refusal :=
  let p := (s.ctx ctx).pasid
  match s.merge.find? fun m => m.prgi.isNone with
  | some m =>
    if m.die = die ∧ m.pasid = p ∧ m.vpage = vpage then
      match sendPageRequest s m with | some s => .next s | none => .refused .notEnabled
    else .refused .notEnabled
  | none => .refused .notEnabled
/-- PAGE_WALK: R269 to R274: a walk fills the TLB of a die for an address of a context. -/
def execPageWalk (die ctx va : Nat) (kind : Access) (s : State) : Host.Outcome State Fault Refusal :=
  .next (xlate s die none ctx (va % 2 ^ 56) kind).1

end Sys2Proof.Machine
end

