-- ==== Sys2Proof/Machine/MemAccess.lean ====
section
/-! DEFINITION. Memory accesses: addresses and their checks (R63, R151, R155, R156), the L1 (R249), bytes of each space, the
operand log (R278), ordering at issue (R160, R167, R254, R256), and the access of a whole warp instruction. -/
namespace Sys2Proof.Machine

/-! ### Checks: R151, R155, R156 -/

/-- A trap of class 6 over lanes with their addresses; TVAL is the lowest lane's (R297). -/
def accessTrap (cause : Nat) (bad : List (Nat × Nat)) : Trap :=
  { cls := 6, cause := cause, tval := BitVec.ofNat 64 ((bad.head?.map (·.2)).getD 0), lanes := maskOf (bad.map (·.1)) }
/-- R156, R398: the register access lies in a granted window. -/
def deviceAllowed (x : Ctx) (a n : Nat) : Bool :=
  decide (Config.devBase ≤ a) && decide (a < Config.paEnd) && (List.range 4).any fun i =>
    let b := (x.dwin.getD (2 * i) 0).toNat
    let l := (x.dwin.getD (2 * i + 1) 0).toNat % 2 ^ 32
    b % 2 == 1 && decide (bitsOf b 51 3 * 8 ≤ a) && decide (a + n ≤ bitsOf b 51 3 * 8 + l)
/-- R18, R151, R326: a vault address, of a logical quad that has a package quad. -/
def vaultLegal (x : Ctx) (a : Nat) : Bool :=
  decide (a < 2 ^ 31) && (match x.quadMap[a / 2 ^ 23]? with | some q => decide (q < Config.quads) | none => false) && decide (a % 2 ^ 23 < 2 ^ 23 - 65536 * x.vres)
/-- R392: bytes of a thread's private frame. -/
def frameBytes (c : Crew) : Nat := c.privSize - 4032
/-- R151: the cause of an address that fails its space's check. -/
def spaceCheck (c : Crew) (x : Ctx) (sp : Space) (a n : Nat) : Option Nat :=
  match sp with
  | .priv => if a < frameBytes c then none else some 2
  | .scratch => if a < c.kernel.shape.scratch then none else some 3
  | .vault => if vaultLegal x a then none else some 4
  | .global => if a < 2 ^ 56 then none else some 5
  | .fabric => if a < 2 ^ 56 then none else some 5
  | .device => if deviceAllowed x a n then none else some 6
/-- R18: a vault span cut at the boundary of logical quads. -/
def quadSpans (a n : Nat) : List (Nat × Nat) :=
  let m := 2 ^ 23 - a % 2 ^ 23
  if n ≤ m then [(a, n)] else [(a, m), (a + m, n - m)]
/-- R151: a span in a space: the cause where its first or last byte, or a byte at a boundary of logical quads, fails. -/
def spanCheck (c : Crew) (x : Ctx) (sp : Space) (a n : Nat) : Option Nat :=
  match spaceCheck c x sp a n with
  | some k => some k
  | none =>
    let e := if sp = .vault then (quadSpans a n).flatMap fun y => [y.1, y.1 + y.2 - 1] else [(a + n - 1) % 2 ^ 64]
    e.findSome? fun b => spaceCheck c x sp b 1
/-- R158, R151: misaligned lanes first, then lanes that fail their space's check (log entry 10). -/
def checkAddrs (c : Crew) (x : Ctx) (sp : Space) (n : Nat) (ls : List (Nat × Nat × Nat)) : Check :=
  let mis := ls.filter fun l => l.2.2 % n != 0
  if !mis.isEmpty then .trap (accessTrap 1 (mis.map fun l => (l.1, l.2.2)))
  else
    let bad := ls.filterMap fun l => (spaceCheck c x sp l.2.2 n).map fun k => (k, l.1, l.2.2)
    match bad.head? with
    | none => .pass
    | some b => .trap (accessTrap b.1 ((bad.filter fun y => y.1 == b.1).map (·.2)))
/-! ### The L1: R249 -/

/-- The words of a line that a span covers. -/
def wordMask (k n : Nat) : BitVec 32 :=
  (List.range n).foldl (fun m i => m ||| (1 : BitVec 32) <<< ((k % 128 + i) / 4)) 0
/-- R11, R15: a line enters a core's L1 of 1,024 lines; the oldest is replaced. -/
def l1Put (x : L1Line) (l : List L1Line) : List L1Line :=
  let rest := l.filter fun y => !(y.core == x.core && y.line == x.line)
  if (rest.filter fun y => y.core == x.core).length < 1024 then x :: rest
  else x :: (rest.reverse.eraseP fun y => y.core == x.core).reverse
/-- R249: a line fetched: every word valid, but for poisoned granules, and none owned. -/
def l1Fill (s : State) (core line : Nat) : State :=
  let bad (g : Nat) : BitVec 32 := if s.poisoned (line + 64 * g) 64 then 0 else (0xFFFF : BitVec 32) <<< (16 * g)
  { s with l1 := l1Put ⟨core, line, bad 0 ||| bad 1, 0, s.physRead line 128⟩ s.l1 }
/-- R249, R252: bytes read for a core: from its L1 by a plain load of cacheable memory, else at the point of service. None
where a poisoned byte answers with a bus error. -/
def loadBytes (s : State) (core : Nat) (plain : Bool) (k n : Nat) : State × Option (List Byte) :=
  let line := k / 128 * 128
  if plain && s.cached k then
    match s.l1.find? fun x => x.core == core && x.line == line && x.valid &&& wordMask k n == wordMask k n with
    | some x => (s, some ((x.data.drop (k - line)).take n))
    | none => if s.poisoned k n then (s, none) else (l1Fill s core line, some (s.physRead k n))
  else (s, if s.poisoned k n then none else some (s.physRead k n))
/-- R249: the core's own copy of the words of a span as they stand after a write to it, and owned when the write registers them.
A word that holds stale bytes beside the new ones takes the whole word, for R260 (log entry 130). -/
def l1Update (s : State) (core k n : Nat) (own : Bool) : State :=
  let line := k / 128 * 128
  let lo := (k - line) / 4 * 4
  let bs := s.physRead (line + lo) ((k - line + n + 3) / 4 * 4 - lo)
  { s with l1 := s.l1.map fun x => if x.core = core ∧ x.line = line then
      { x with owned := if own then x.owned ||| (x.valid &&& wordMask k n) else x.owned
               data := x.data.take lo ++ bs ++ x.data.drop (lo + bs.length) } else x }
/-- R249: a store of the core to a span. -/
def l1Store (s : State) (core k n : Nat) : State := l1Update s core k n true
/-- R249: a core's atomic invalidates its own copy of the word. -/
def l1Drop (s : State) (core k n : Nat) : State :=
  let line := k / 128 * 128
  { s with l1 := s.l1.map fun x => if x.core = core ∧ x.line = line then
      { x with valid := x.valid &&& ~~~(wordMask k n), owned := x.owned &&& ~~~(wordMask k n) } else x }

/-! ### One lane's access -/

/-- Element i of a list of bytes. -/
def elemAt (w : Nat) (bs : List Byte) (i : Nat) : Nat := sliceNat bs (i * w) w
/-- The bytes of elements. -/
def elemBytes (w : Nat) (xs : List Nat) : List Byte := xs.flatMap (leBytes w)
/-- R164, R165: the new value of an atomic. -/
def atomicNew (t : Ty) (op : AOp) (old : Nat) (c : List Nat) : Nat :=
  let n := t.bits
  let x := c.headD 0 % 2 ^ n
  let less (a b : Nat) : Bool := decide (intOf t a < intOf t b)
  match op with
  | .add => (old + x) % 2 ^ n
  | .min => if less old x then old else x
  | .max => if less x old then old else x
  | .and => Nat.land old x
  | .or => Nat.lor old x
  | .xor => Nat.xor old x
  | .xchg => x
  | .cas => if old = x then (c.getD 1 0) % 2 ^ n else old
  | .incw => if x ≤ old then 0 else old + 1
  | .decw => if old = 0 ∨ x < old then x else old - 1
/-- An access at a physical key: the values a load or an atomic returns; none where it meets poison. -/
def accessKey (s : State) (ctx core : Nat) (o : MemOp) (k vp : Nat) (ops : List Nat) : State × Option (List Nat) :=
  match o.kind with
  | .read =>
    let r := loadBytes s core (o.ord == .plain) k o.bytes
    (r.1, r.2.map fun bs => (List.range o.count).map (elemAt o.w bs))
  | .write =>
    if s.poisoned k o.bytes then (s, none)
    else
      let bs := elemBytes o.w ops
      (l1Store (physWrite s (some ctx) (some vp) (some core) k bs) core k bs.length, some [])
  | .atomic =>
    if s.poisoned k o.bytes then (s, none)
    else
      let old := s.physNat k o.w
      (l1Drop (physWrite s (some ctx) (some vp) none k (leBytes o.w (atomicNew o.t o.aop old ops))) core k o.w, some [old])
  | .fetch => (s, some [])
/-- Bytes of a crew's scratchpad written; the lines become dirty (R323). -/
def scratchWrite (s : State) (crew off : Nat) (bs : List Byte) : State :=
  match s.crew? crew with
  | none => s
  | some c =>
    markAll (s.setCrew { c with scratch := c.scratch.store off bs }) c.ctx
      ((List.range bs.length).map fun i => CkUnit.scratch c.pos ((off + i) / 128))
/-- An access to the scratchpad (R151, R164). -/
def accessScratch (s : State) (crew : Nat) (o : MemOp) (a : Nat) (ops : List Nat) : State × List Nat :=
  match s.crew? crew with
  | none => (s, [])
  | some c =>
    match o.kind with
    | .read => (s, (List.range o.count).map fun i => c.scratch.nat (a + i * o.w) o.w)
    | .write => (scratchWrite s crew a (elemBytes o.w ops), [])
    | .atomic =>
      let old := c.scratch.nat a o.w
      (scratchWrite s crew a (leBytes o.w (atomicNew o.t o.aop old ops)), [old])
    | .fetch => (s, [])
/-- R18: the key of a vault address of a context. -/
def vaultOf (x : Ctx) (a : Nat) : Nat := vaultKey (x.quadMap.getD (a / 2 ^ 23) 0) (a % 2 ^ 23)

/-! ### Order at issue: R160, R167, R254, R256 -/

/-- R225, R278: the warp slot that holds the log of a lane of a warp: two width-8 warps share one, a width-128 warp has two. -/
def logSlot (sh : Shape) (wid lane : Nat) : Nat :=
  match sh.width with | 8 => wid / 2 | 128 => 2 * wid + lane / 64 | _ => wid
/-- R278: entries of a warp slot's log; a deferred tile transfer is one of them (R192). -/
def logCount (c : Crew) (slot : Nat) : Nat :=
  (c.log.filter fun x => x.lanes.any fun y => y.wait != .flight && logSlot c.shape x.wid y.lane == slot).length
    + (c.transfers.filter fun x => x.wait.isSome && logSlot c.shape x.wid x.lane == slot).length
/-- R278: the log of a slot of an executing lane is full. -/
def logFull (e : Env) : Bool :=
  ((e.lanes.map fun l => logSlot e.sh e.w.wid l.1).eraseDups).any fun i => decide (16 ≤ logCount e.c i)
/-- R156: a device access of an executing thread that is not performed holds its later memory accesses. -/
def deviceHolds (e : Env) (x : LogEntry) : Bool :=
  isAccess e.instr && (match x.instr with | .ldd _ _ _ | .std _ _ _ => true | _ => false)
    && x.lanes.any fun y => e.actors.any fun l => l.2 == y.tid
/-- The waits at issue for earlier accesses: those that `hitLog` or `hitTr` pick and those of R156, R160, R167 and R254. An
unrecoverable access that must be waited for traps (R279). -/
def holdCheck (s : State) (e : Env) (hitLog : LogEntry → Bool) (hitTr : Transfer → Bool) : Check :=
  let log := e.log.filter fun x => hitLog x || deviceHolds e x || x.lanes.any fun y => awaits e y.tid x.id (isStrong x.instr)
  let tr := e.c.transfers.filter fun x => hitTr x || awaits e x.tid x.id false
  let fab := s.fabOut.any fun x => x.crew == e.c.id && awaits e x.tid x.id (isStrong x.instr)
  let ret := s.rets.any fun x => x.crew == e.c.id && x.acc && isAccess e.instr && (e.actors.any fun l => l.2 == x.tid)
    && ((e.th x.tid).facq.getD []).contains x.id
  match log.find? (·.dead), tr.find? (·.dead) with
  | some a, _ => .trap (a.trapOf e.w)
  | none, some b => .trap (b.trapOf e.w)
  | none, none => if !log.isEmpty || !tr.isEmpty || fab || ret || (logFull e && isAccess e.instr) then .wait else .pass
/-- The same for an access whose lanes (lane, thread, address in the log's form) touch n bytes each (R159, R256). -/
def orderCheck (s : State) (e : Env) (sp : Space) (writes : Bool) (n : Nat) (ls : List (Nat × Nat × Nat)) : Check :=
  holdCheck s e (fun x => ls.any fun l => logMeets x sp l.2.1 l.2.2 n) fun x => ls.any fun l => transferMeets x sp writes l.2.1 l.2.2 n
/-- R160: the release of an instruction that names no address. -/
def releaseCheck (s : State) (e : Env) : Check := holdCheck s e (fun _ => false) fun _ => false
/-- R160: an `.acq` of this space invalidates L1 words; one of the scratchpad, a vault, a device or the fabric orders only. -/
def Space.invalidates (sp : Space) : Bool := sp == .global || sp == .priv
/-- R160, R167: a fence whose accesses have all come back is over; an acquire that invalidates then does. -/
def clearFences (s : State) (e : Env) : State :=
  let s := if e.actors.any fun l => (e.th l.2).facq.isSome && (e.th l.2).finv then l1Acquire s (e.c.warpCore e.w) else s
  s.modCrew e.c.id fun c => e.actors.foldl (fun c l => c.modThread l.2 fun t =>
    if t.facq.isSome || (t.frel.isSome && relHeld e.instr) then
      { t with facq := none, finv := false, frel := if relHeld e.instr then none else t.frel } else t) c
/-- R167: the instruction returns data: a load or an atomic. -/
def returnsData (i : Instr) : Bool :=
  match i with
  | .tld _ _ _ _ => true
  | i => match memOf i with | some o => o.1.kind == .read || o.1.kind == .atomic | none => false
/-- The identifiers of a thread's accesses not yet performed that `p` picks by their instruction (R167). -/
def pendingOf (s : State) (e : Env) (tid : Nat) (p : Instr → Bool) : List Nat :=
  (e.log.filter fun x => p x.instr && x.lanes.any fun y => y.tid == tid).map (·.id)
    ++ (e.c.transfers.filter fun x => p x.instr && x.tid == tid).map (·.id)
    ++ (s.fabOut.filter fun x => p x.instr && x.crew == e.c.id && x.tid == tid).map (·.id)
/-- What a `fence.acq` waits for: loads and atomics that have not returned; and a `fence.rel`: every access. -/
def acqPending (s : State) (e : Env) (tid : Nat) : List Nat :=
  pendingOf s e tid returnsData ++ (s.rets.filter fun x => x.crew == e.c.id && x.tid == tid && x.acc).map (·.id)
def relPending (s : State) (e : Env) (tid : Nat) : List Nat := pendingOf s e tid fun _ => true
/-- A fence mark put down for threads. -/
def addFence (acq rel : Bool) (s : State) (e : Env) : State :=
  s.modCrew e.c.id fun c => e.lanes.foldl (fun c l => c.modThread l.2 fun t =>
    { t with facq := if acq then some ((t.facq.getD []) ++ acqPending s e l.2) else t.facq
             finv := t.finv || acq
             frel := if rel then some ((t.frel.getD []) ++ relPending s e l.2) else t.frel }) c
/-- R160: the mark of an `.acq` that has not been performed: later accesses of the thread wait for it. -/
def addAcquire (sp : Space) (crew id : Nat) (tids : List Nat) (s : State) : State :=
  s.modCrew crew fun c => tids.foldl (fun c tid => c.modThread tid fun t =>
    { t with facq := some ((t.facq.getD []) ++ [id]), finv := t.finv || sp.invalidates }) c
/-- Lanes of an access added to its entry in the log, a new one where it has none. -/
def logJoin (x : LogEntry) (log : List LogEntry) : List LogEntry :=
  if log.any fun y => y.id == x.id then log.map fun y => if y.id = x.id then { y with lanes := y.lanes ++ x.lanes } else y
  else log ++ [x]
/-- Lanes that did not go through enter the log of their warp slot (R162, R278). -/
def addLog (s : State) (e : Env) (id : Nat) (ls : List LogLane) : State :=
  if ls.isEmpty then s
  else s.modCrew e.c.id fun c => { c with log := c.log ++ [⟨id, e.w.wid, e.instr, e.pc, ls⟩] }

/-! ### Results -/

/-- R27, R158: the registers that loaded elements fill. -/
def loadWords (t : Ty) (d : Opd) (xs : List Nat) : List (Nat × Word) :=
  match d with
  | .v n => (xs.zipIdx).flatMap fun x => resultWords t (n.toNat + x.2 * t.regs) x.1
  | _ => []
/-- R158: D marked empty in lanes, and the data on its way. -/
def sendBack (s : State) (crew tid : Nat) (t : Ty) (d : Opd) (n : Nat) (xs : List Nat) (src : Option RetSrc) : State :=
  match d with
  | .v r =>
    { s.modCrew crew fun c => c.modThread tid fun th => th.setEmpty r.toNat (n * t.regs) with
      rets := s.rets ++ [⟨s.uid, crew, tid, loadWords t d xs, true, src⟩], uid := s.uid + 1 }
  | _ => s
/-- R158: D marked empty for an access that was deferred. -/
def emptyDest (s : State) (crew tid : Nat) (t : Ty) (d : Opd) (n : Nat) : State :=
  match d with
  | .v r => s.modCrew crew fun c => c.modThread tid fun th => th.setEmpty r.toNat (n * t.regs)
  | _ => s
/-- R158, R165: the operands an access captures. -/
def captured (e : Env) (o : MemOp) (th : Thread) : List Nat :=
  match o.kind with
  | .write => (List.range o.count).map fun i => match e.f.c with
      | .v n => srcBits e.w th o.t (.v (n + BitVec.ofNat 8 (i * o.t.regs)))
      | c => srcBits e.w th o.t c
  | .atomic => if o.aop == .cas then (match e.f.c with
      | .v n => [srcBits e.w th o.t (.v n), srcBits e.w th o.t (.v (n + BitVec.ofNat 8 o.t.regs))]
      | _ => []) else [srcBits e.w th o.t e.f.c]
  | _ => []
/-- R158: registers of D that a lane fills. -/
def MemOp.dcount (o : MemOp) : Nat := match o.kind with | .read => o.count | .atomic => 1 | _ => 0

/-! ### A whole instruction in global, private or vault space -/

/-- What becomes of one lane before anything is performed. -/
inductive LaneGo
  | at (key vpage : Nat)
  | defer (w : LaneWait) (cause : Nat)
  deriving DecidableEq, Repr
/-- R151, R276, R278: a lane's address translated; a fault that can be mended joins the merge table. -/
def laneGo (s : State) (c : Crew) (core : Nat) (sp : Space) (kind : Access) (a : Nat) (w : Waiter) : State × LaneGo :=
  match sp with
  | .vault =>
    let k := vaultOf (s.ctx c.ctx) a
    (s, if s.busError k then .defer .dead 7 else .at k 0)
  | _ =>
    let r := xlate s (dieOf core) (some core) c.ctx (a % 2 ^ 56) kind
    match r.2 with
    | .ok k p => (r.1, .at k p)
    | .ats p => (atsAsk r.1 c.ctx p, .defer .ats 0)
    | .fault f =>
      if recoverable f then
        let m := mergeJoin r.1 (dieOf core) c.ctx (a % 2 ^ 56 / 2 ^ 15) kind w
        (m.1, .defer (if m.2 then .page else .table) f)
      else (r.1, .defer .dead f)
/-- R363: granules that the stores of one instruction cover whole. -/
def coveredGranules (xs : List (Nat × Nat)) : List Nat :=
  let gs := (xs.map fun x => x.1 / 64 * 64).eraseDups
  gs.filter fun g => (List.range 64).all fun i => xs.any fun x => decide (x.1 ≤ g + i) && decide (g + i < x.1 + x.2)
/-- One lane performed, or put aside (R162, R363). -/
def laneDo (e : Env) (o : MemOp) (core id : Nat) (x : State × List LogLane) (l : Nat × Nat × Nat × LaneGo) : State × List LogLane :=
  let ops := captured e o (e.th l.2.1)
  let put (s : State) (w : LaneWait) (cause : Nat) : State × List LogLane :=
    (emptyDest s e.c.id l.2.1 o.t e.f.d o.dcount,
      x.2 ++ [⟨l.1, l.2.1, BitVec.ofNat 64 l.2.2.1, ops.map (BitVec.ofNat 64), cause, 0, w⟩])
  match l.2.2.2 with
  | .defer w cause => put x.1 w cause
  | .at k vp =>
    match accessKey x.1 e.c.ctx core o k vp ops with
    | (s, some vals) => (if o.dcount = 0 then s else sendBack s e.c.id l.2.1 o.t e.f.d o.dcount vals
        (some ⟨e.w.wid, l.1, id, e.instr, e.pc, BitVec.ofNat 64 l.2.2.1, ops.map (BitVec.ofNat 64)⟩), x.2)
    | (s, none) => put s .dead 7
/-- A load, store or atomic of global, private or vault space. -/
def memBody (o : MemOp) (m : MemExt) (e : Env) (s : State) : Res :=
  if e.lanes.isEmpty then .go s
  else
    let ls := e.addrs m
    match checkAddrs e.c (s.ctx e.c.ctx) o.space o.bytes ls with
    | .trap t => .trap s t
    | .wait => .wait
    | .pass =>
      let ls := ls.map fun l => (l.1, l.2.1, logAddr e.c o.space l.2.1 l.2.2)
      match orderCheck s e o.space (o.kind != .read) o.bytes ls with
      | .trap t => .trap s t
      | .wait => .wait
      | .pass =>
        let s := clearFences s e
        let core := e.c.warpCore e.w
        let id := s.uid
        let s := { s with uid := s.uid + 1 }
        let r := ls.foldl (fun (x : State × List (Nat × Nat × Nat × LaneGo)) l =>
          let g := laneGo x.1 e.c core (logSpace o.space) o.kind l.2.2 (.log e.c.id id l.1)
          (g.1, x.2 ++ [(l.1, l.2.1, l.2.2, g.2)])) (s, [])
        let s := r.1
        let keys := r.2.filterMap fun l => match l.2.2.2 with | .at k _ => some k | _ => none
        if o.kind != .read && s.writesBlocked keys then .wait
        else
          let s := if o.kind == .write then s.clearPoison (coveredGranules (keys.map fun k => (k, o.bytes))) else s
          let r := r.2.foldl (laneDo e o core id) (s, [])
          let s := addLog (if ordAcq o.ord && o.space.invalidates then l1Acquire r.1 core else r.1) e id r.2
          .go (if ordAcq o.ord && !r.2.isEmpty then addAcquire o.space e.c.id id (r.2.map (·.tid)) s else s)

/-- R158, R159: an access of global, private or vault space put on its way: its lanes are performed later, in ascending order (log
entry 3). -/
def lateBody (o : MemOp) (m : MemExt) (e : Env) (s : State) : Res :=
  if e.lanes.isEmpty then .go s
  else
    let ls := e.addrs m
    match checkAddrs e.c (s.ctx e.c.ctx) o.space o.bytes ls with
    | .trap t => .trap s t
    | .wait => .wait
    | .pass =>
      let ls := ls.map fun l => (l.1, l.2.1, logAddr e.c o.space l.2.1 l.2.2)
      match orderCheck s e o.space (o.kind != .read) o.bytes ls with
      | .trap t => .trap s t
      | .wait => .wait
      | .pass =>
        let s := clearFences s e
        let id := s.uid
        let s := ls.foldl (fun s l => emptyDest s e.c.id l.2.1 o.t e.f.d o.dcount) { s with uid := s.uid + 1 }
        let s := addLog s e id (ls.map fun l =>
          ⟨l.1, l.2.1, BitVec.ofNat 64 l.2.2, (captured e o (e.th l.2.1)).map (BitVec.ofNat 64), 0, 0, .flight⟩)
        .go (if ordAcq o.ord then addAcquire o.space e.c.id id (ls.map (·.2.1)) s else s)

/-! ### Scratchpad and device space -/

/-- A load, store or atomic of the scratchpad. -/
def scratchBody (o : MemOp) (m : MemExt) (e : Env) (s : State) : Res :=
  if e.lanes.isEmpty then .go s
  else
    let ls := e.addrs m
    match checkAddrs e.c (s.ctx e.c.ctx) .scratch o.bytes ls with
    | .trap t => .trap s t
    | .wait => .wait
    | .pass =>
      match orderCheck s e .scratch (o.kind != .read) o.bytes ls with
      | .trap t => .trap s t
      | .wait => .wait
      | .pass =>
        let s := clearFences s e
        let s := ls.foldl (fun s l =>
          let r := accessScratch s e.c.id o l.2.2 (captured e o (e.th l.2.1))
          if o.dcount = 0 then r.1 else sendBack r.1 e.c.id l.2.1 o.t e.f.d o.dcount r.2 none) s
        .go s

end Sys2Proof.Machine
end

