-- ==== Sys2Proof/Machine/SyncWord.lean ====
section
/-! DEFINITION. Sync words (R170 to R173) and the release of threads that wait for them. -/
namespace Sys2Proof.Machine

/-! ### Where a sync word is: R171 -/

/-- R171: the cause of an address that names no sync word; misalignment first (log entry 10). -/
def swCheck (c : Crew) (x : Ctx) (a : Nat) : Option Nat :=
  if a % 16 ≠ 0 then some 1
  else if bitsOf a 63 33 ≠ 0 ∨ bitsOf a 31 31 ≠ 0 then some 5
  else spaceCheck c x (if swVault a then .vault else .scratch) (swOff a) 16
/-- The contents of a sync word (R170). -/
structure SyncWord where
  target : Nat
  arrived : Nat
  gen : Nat
  faulted : Bool
  overrun : Bool
  deriving DecidableEq, Repr
/-- A sync word from 16 bytes, and back; the reserved bits read and are written as zero (R170). -/
def swOf (n : Nat) : SyncWord :=
  ⟨bitsOf n 31 0, bitsOf n 63 32, bitsOf n 95 64, bitsOf n 96 96 == 1, bitsOf n 97 97 == 1⟩
def swNat (w : SyncWord) : Nat :=
  w.target + w.arrived * 2 ^ 32 + w.gen * 2 ^ 64 + (if w.faulted then 2 ^ 96 else 0) + (if w.overrun then 2 ^ 97 else 0)
/-- R170: an update by n bytes; TARGET is not 0. -/
def swBump (w : SyncWord) (n : Nat) : SyncWord :=
  let g := (w.arrived + n) / w.target
  { w with arrived := (w.arrived + n) % w.target, gen := (w.gen + g) % 2 ^ 32, overrun := w.overrun || decide (1 < g) }
/-- A sync word read for a crew. -/
def swRead (s : State) (crew : Nat) (a : Nat) : SyncWord :=
  match s.crew? crew with
  | none => swOf 0
  | some c => if swVault a then swOf (s.physNat (vaultOf (s.ctx c.ctx) (swOff a)) 16) else swOf (c.scratch.nat (swOff a) 16)
/-- A sync word written for a crew. -/
def swWrite (s : State) (crew : Nat) (a : Nat) (w : SyncWord) : State :=
  match s.crew? crew with
  | none => s
  | some c =>
    if swVault a then physWrite s (some c.ctx) none none (vaultOf (s.ctx c.ctx) (swOff a)) (leBytes 16 (swNat w))
    else scratchWrite s crew (swOff a) (leBytes 16 (swNat w))
/-- R162, R376: no access to the word's vault is made. -/
def swLost (s : State) (c : Crew) (a : Nat) : Bool :=
  swVault a && (let k := vaultOf (s.ctx c.ctx) (swOff a); s.busError k || s.poisoned k 16)

/-! ### Reports: R173, R297 -/

/-- The sync-word address in a copy's descriptor (R175). -/
def CopyEnt.swa (x : CopyEnt) : Nat := sliceNat x.desc 0x10 8
/-- R173: the failed destinations of ended copies that count into the address, which the report clears. -/
def takePmask (c : Crew) (a : Nat) : Crew × Nat :=
  let hit (x : CopyEnt) : Bool := x.st == .part && x.swa == a
  let m := c.copies.foldl (fun m x => match x with | some x => if hit x then Nat.lor m x.pmask.toNat else m | none => m) 0
  ({ c with copies := c.copies.map fun x => x.map fun y => if hit y then { y with pmask := 0 } else y }, m)
/-- R297: the fault of a copy not yet reported, which the report marks. -/
def takeFault (c : Crew) (hit : CopyEnt → Bool) : Crew × Option CopyEnt :=
  match c.copies.findIdx? fun x => match x with | some x => x.st == .faulted && !x.reported && hit x | none => false with
  | none => (c, none)
  | some i => ({ c with copies := c.copies.modify i fun x => x.map fun y => { y with reported := true } }, (c.copies.getD i none))
/-- R297: the engine trap of a faulted copy, over lanes. -/
def copyTrap (x : CopyEnt) (lanes : Mask) : Trap :=
  { cls := 9, cause := 1, tval := BitVec.ofNat 64 (x.handle.toNat + x.cause.toNat * 2 ^ 32), lanes := lanes, after := true }
/-- R173: the status. -/
def swStatus (w : SyncWord) (pmask : Nat) : Nat := w.gen + pmask * 2 ^ 32 + (if w.faulted then 2 ^ 63 else 0)
/-- R173: the held lane goes on. -/
def swDone (w : SyncWord) (expect : Word) : Bool := w.gen != expect.toNat || w.faulted
/-- R173: the report of one lane: D written, and the copy whose fault it brings where the instruction has none yet (R297). -/
def swReport (s : State) (crew tid a : Nat) (d : Opd) (fault : Bool) : State × Option CopyEnt :=
  match s.crew? crew with
  | none => (s, none)
  | some c =>
    let w := swRead s crew a
    let p := takePmask c a
    let f := if w.faulted && fault then takeFault p.1 fun x => x.swa == a else (p.1, none)
    let s := s.setCrew f.1
    (match d with | .v n => writeRegs s crew [(tid, resultWords .b64 n.toNat (swStatus w p.2))] | _ => s, f.2)

/-! ### Waking held lanes -/

/-- R173, R110: a held lane of a warp, or a held record, goes on after its `swait`. -/
def swRelease (s : State) (crew : Nat) (x : SwWait) : State :=
  match s.crew? crew with
  | none => s
  | some c =>
    let c := { c with waits := c.waits.filter fun y => y.tid != x.tid }
    if c.kernel.shape.width = 0 then
      s.setCrew (poolInsert ⟨x.pc + 16, c.kernel.prioAt (x.pc + 16), x.tid, s.cycle⟩
        { c with held := c.held.filter fun h => !(h.hold == .swait && h.tid == x.tid) })
    else
      let m := maskOf [x.lane]
      let c := c.modWarp x.wid fun w =>
        let es := (w.entries.map fun e => if e.hold == .swait then { e with mask := e.mask &&& ~~~m } else e).filter fun e => e.mask != 0
        { w with entries := placeLanes c.kernel s.uid (x.pc + 16) m es }
      { s.setCrew c with uid := s.uid + 1 }
/-- The address of a wait. -/
def SwWait.addr (x : SwWait) : Nat := x.off + (if x.vault then 2 ^ 32 else 0)
/-- R173: one held lane examined: released with its report, on whatever core its warp is (R249), and its trap where a copy faulted.
The entries of a warp in handler mode are frozen (R301). -/
def wakeOne (s : State) (crew : Nat) (x : SwWait) : State :=
  match s.crew? crew with
  | none => s
  | some c =>
    let w := if c.kernel.shape.width = 0 then none else c.warp? x.wid
    if !swDone (swRead s crew x.addr) x.expect || (w.any fun w => w.handler.isSome || w.trap.isSome) then s
    else
      let r := swReport s crew x.tid x.addr x.d true
      let s := l1Acquire (swRelease r.1 crew x) (w.elim c.core c.warpCore)
      match r.2 with
      | none => s
      | some f =>
        match w.bind fun _ => (s.crew? crew).bind fun c => (c.warp? x.wid).bind fun w => w.entries.find? fun e => e.hold == .none && e.mask.getLsbD x.lane with
        | some e => takeTrap s crew x.wid e.eid x.pc 16 (copyTrap f (maskOf [x.lane]))
        | none => warplessTrap s c x.wid (trapRec s (copyTrap f 0) x.pc 16)
/-- Every held lane whose word has moved on goes on (R173, R242): crews in the order of their positions, threads in the order of
their slots (R237, R300). -/
def wakeAll (s : State) : State :=
  (sortBy (fun a b : Crew => decide (a.pos ≤ b.pos)) s.crews).foldl (fun s c =>
    if Crew.runs s c then (sortBy (fun a b : SwWait => decide (a.tid ≤ b.tid)) c.waits).foldl (fun s x => wakeOne s c.id x) s else s) s

/-! ### The instructions: R172, R173 -/

/-- The source C as `.n32`. -/
def Env.countC (e : Env) (th : Thread) : Nat := srcBits e.w th .n32 e.f.c
/-- R171, R184: the checks of a sync-word instruction. -/
def swLanes (e : Env) (s : State) (m : MemExt) (k : List (Nat × Nat × Nat) → Res) : Res :=
  let ls := e.addrs m
  let x := s.ctx e.c.ctx
  let bad := ls.filterMap fun l => (swCheck e.c x l.2.2).map fun q => (q, l.1, l.2.2)
  let pick := if bad.any fun b => b.1 == 1 then 1 else (bad.head?.map (·.1)).getD 0
  if bad.isEmpty then k ls else .trap s (accessTrap pick ((bad.filter fun b => b.1 == pick).map (·.2)))
/-- The order of a sync-word access, by its space. -/
def swOrder (s : State) (e : Env) (ls : List (Nat × Nat × Nat)) : Check :=
  let sp (v : Bool) : List (Nat × Nat × Nat) := (ls.filter fun l => swVault l.2.2 == v).map fun l => (l.1, l.2.1, swOff l.2.2)
  firstCheck [orderCheck s e .scratch true 16 (sp false), orderCheck s e .vault true 16 (sp true)]
/-- R162: lanes whose vault does not answer enter the log; the others are left to go on. -/
def swDefer (s : State) (e : Env) (ls : List (Nat × Nat × Nat)) (t : Ty) : State × List (Nat × Nat × Nat) :=
  let bad := ls.filter fun l => swLost s e.c l.2.2
  if bad.isEmpty then (s, ls)
  else
    let lanes : List LogLane := bad.map fun l => ⟨l.1, l.2.1, BitVec.ofNat 64 l.2.2, [BitVec.ofNat 64 (e.countC (e.th l.2.1))], 7, 0, .dead⟩
    let id := s.uid
    let s := bad.foldl (fun s l => emptyDest s e.c.id l.2.1 t e.f.d 1) { s with uid := s.uid + 1 }
    (addLog s e id lanes, ls.filter fun l => !swLost s e.c l.2.2)
/-- `swinit`: R172. -/
def execSwinit (m : MemExt) (f : Fields) (s : State) : Host.Outcome State Fault Refusal :=
  issue (.swinit m f) s fun e s =>
    if e.lanes.isEmpty then .go s
    else swLanes e s m fun ls =>
      let zero := ls.filter fun l => e.countC (e.th l.2.1) == 0
      if !zero.isEmpty then .trap s (accessTrap 7 (zero.map fun l => (l.1, l.2.2)))
      else
        match swOrder s e ls with
        | .trap t => .trap s t
        | .wait => .wait
        | .pass =>
          let r := swDefer (clearFences s e) e ls .n32
          .go (r.2.foldl (fun s l => swWrite s e.c.id l.2.2
            { swRead s e.c.id l.2.2 with target := e.countC (e.th l.2.1), arrived := 0, faulted := false, overrun := false }) r.1)
/-- `swarrive`: R172. -/
def execSwarrive (m : MemExt) (f : Fields) (s : State) : Host.Outcome State Fault Refusal :=
  issue (.swarrive m f) s fun e s =>
    if e.lanes.isEmpty then .go s
    else swLanes e s m fun ls =>
      match swOrder s e ls with
      | .trap t => .trap s t
      | .wait => .wait
      | .pass =>
        let zero := ls.filter fun l => !swLost s e.c l.2.2 && (swRead s e.c.id l.2.2).target == 0
        if !zero.isEmpty then .trap s (accessTrap 7 (zero.map fun l => (l.1, l.2.2)))
        else
          let r := swDefer (clearFences s e) e ls .n32
          .go (r.2.foldl (fun s l =>
            let n := e.countC (e.th l.2.1)
            let s := if n = 0 then s else swWrite s e.c.id l.2.2 (swBump (swRead s e.c.id l.2.2) n)
            match e.f.d with
            | .v d => writeRegs s e.c.id [(l.2.1, resultWords .n32 d.toNat (swRead s e.c.id l.2.2).gen)]
            | _ => s) r.1)
/-- `swait`: R173. Lanes that go on are released first; a fault that their report brings traps them. -/
def execSwait (m : MemExt) (f : Fields) (s : State) : Host.Outcome State Fault Refusal :=
  issueCtl (.swait m f) s fun e s =>
    if e.lanes.isEmpty then .go (e.moveOn s)
    else swLanes e s m fun ls =>
      match swOrder s e ls with
      | .trap t => .trap s t
      | .wait => .wait
      | .pass =>
        let r := swDefer (clearFences s e) e ls .b64
        let done := r.2.filter fun l => swDone (swRead r.1 e.c.id l.2.2) (BitVec.ofNat 32 (e.countC (e.th l.2.1)))
        let stay := r.2.filter fun l => !swDone (swRead r.1 e.c.id l.2.2) (BitVec.ofNat 32 (e.countC (e.th l.2.1)))
        let q := done.foldl (fun (q : State × Option (Nat × CopyEnt)) l =>
          let x := swReport q.1 e.c.id l.2.1 l.2.2 e.f.d q.2.isNone
          (x.1, match q.2 with | some y => some y | none => x.2.map fun y => (l.2.2, y))) (r.1, none)
        let s := if done.isEmpty then q.1 else l1Acquire q.1 (e.c.warpCore e.w)
        let s := s.modCrew e.c.id fun c => { c with waits := c.waits ++ stay.map fun l =>
          ⟨l.2.1, e.w.wid, l.1, e.pc, swVault l.2.2, swOff l.2.2, BitVec.ofNat 32 (e.countC (e.th l.2.1)), e.f.d⟩ }
        let held := stay.map fun l => (l.1, l.2.1)
        match q.2 with
        | none => .go (if stay.isEmpty then e.moveOn s else holdLanes e .swait held s)
        | some y =>
          let s := if stay.isEmpty then s else holdLanes { e with len := 0 } .swait held s
          .trap s (copyTrap y.2 (maskOf ((done.filter fun l => l.2.2 == y.1).map (·.1))))

end Sys2Proof.Machine
end

