-- ==== Sys2Proof/Machine/Elementary.lean ====
section
/-! DEFINITION. The special functions of R136: the exact value to a sticky bit, by fixed-point series whose error is bounded
and whose precision is doubled until the bound fixes the digits that rounding looks at (log entry 12). -/
namespace Sys2Proof.Machine

/-- floor-by-floor sum of y^k / k! from the term t of index k on, at P bits. -/
def expSeries (p y : Nat) : Nat → Nat → Nat → Nat → Nat
  | 0, _, _, acc => acc
  | fuel + 1, k, t, acc =>
    let t' := t * y / ((k + 1) * 2 ^ p)
    if t' = 0 then acc else expSeries p y fuel (k + 1) t' (acc + t')
/-- atanh series: the sum of z^(2k+1) / (2k+1) from the power t on. -/
def atanhSeries (p z2 : Nat) : Nat → Nat → Nat → Nat → Nat
  | 0, _, _, acc => acc
  | fuel + 1, k, t, acc =>
    let t' := t * z2 / 2 ^ p
    if t' = 0 then acc else atanhSeries p z2 fuel (k + 2) t' (acc + t' / (k + 2))
/-- arctangent series of 1/n: alternating. -/
def atanSeries (n2 : Nat) : Nat → Nat → Bool → Nat → Int → Int
  | 0, _, _, _, acc => acc
  | fuel + 1, k, neg, t, acc =>
    if t = 0 then acc
    else
      let q : Int := t / k
      atanSeries n2 fuel (k + 2) (!neg) (t / n2) (if neg then acc - q else acc + q)
/-- sine series: alternating terms of y. -/
def sinSeries (p y2 : Nat) : Nat → Nat → Bool → Nat → Int → Int
  | 0, _, _, _, acc => acc
  | fuel + 1, k, neg, t, acc =>
    if t = 0 then acc
    else sinSeries p y2 fuel (k + 2) (!neg) (t * y2 / (2 ^ p * 2 ^ p * ((k + 1) * (k + 2))) ) (if neg then acc - t else acc + t)
/-- atanh of n/d at P bits, below by at most 2P units. -/
def atanhFix (p n d : Nat) : Nat :=
  let z := n * 2 ^ p / d
  atanhSeries p (z * z / 2 ^ p) p 1 z z
/-- ln 2 and pi at P bits. -/
def ln2Fix (p : Nat) : Nat := 2 * atanhFix p 1 3
def piFix (p : Nat) : Nat :=
  let at' (n : Nat) : Int := atanSeries (n * n) p 1 false (2 ^ p / n) 0
  (16 * at' 5 - 4 * at' 239).toNat

/-- An approximation x at P bits, off by at most `err` units, taken as exact to a sticky bit once `keep` leading bits are
fixed. -/
def settle (p x err keep : Nat) : Option Dy :=
  if x ≤ err then none
  else
    let top := Nat.log2 (x - err)
    if top < keep then none
    else
      let s := top - keep
      if (x - err) / 2 ^ s = (x + err) / 2 ^ s then some (jam ((x - err) / 2 ^ s) true ((s : Int) - p)) else none
/-- The first precision that settles; the last approximation if none does. -/
def refine (f : Nat → Nat × Nat) (keep : Nat) : List Nat → Dy
  | [] => Dy.zero
  | p :: ps =>
    let r := f p
    match settle p r.1 r.2 keep with
    | some d => d
    | none => if ps.isEmpty then jam r.1 true (-(p : Int)) else refine f keep ps
def precisions (base : Nat) : List Nat := [base + 192, base + 512, base + 2048, base + 6144]
/-- Leading bits that rounding can look at. -/
abbrev keepBits : Nat := 70
/-- 1 + or - a number too small to be seen in any format. -/
def nearOne (above : Bool) : Dy := if above then ⟨2 ^ 200 + 1, -200⟩ else ⟨2 ^ 200 - 1, -200⟩

/-- 2^a. -/
def exp2Dy (a : Dy) : Dy :=
  if decide ((Dy.ofInt 20000).lt a.abs) then (if a.isNeg then ⟨1, -20000⟩ else ⟨1, 20000⟩)
  else if a.log2 < -80 then nearOne (!a.isNeg)
  else
    let d : Nat := 2 ^ (-(min a.e 0)).toNat
    let num : Int := a.m * 2 ^ (max a.e 0).toNat
    let n := num.fdiv d
    let fr : Nat := (num - n * d).toNat
    if fr = 0 then Dy.two n
    else (refine (fun p =>
      let y := fr * ln2Fix p / d
      (expSeries p y p 0 (2 ^ p) (2 ^ p), 16 * p)) keepBits (precisions 0)).scale n
/-- log2 of a positive number that is no power of two, or an integer where it is one. -/
def log2Dy (a : Dy) : Dy :=
  let b := a.norm
  if b.m = 1 then Dy.ofInt b.e
  else
    let q := b.log2
    let w := Nat.log2 b.m.natAbs
    let n := b.m.natAbs
    let one : Nat := 2 ^ w
    let approx (p : Nat) : Int × Nat :=
      let l := 2 * atanhFix p (n - one) (n + one)
      ((l * 2 ^ p / ln2Fix p : Nat) + q * 2 ^ p, 16 * p)
    Dy.withSign (q < 0) (refine (fun p => let r := approx p; (r.1.natAbs, r.2)) keepBits (precisions 128))
/-- sin(pi y) for 0 < y ≤ 1/2. -/
def sinpiSmall (y : Dy) : Dy :=
  let h := Dy.sub ⟨1, -1⟩ y
  if h.isZero then Dy.ofInt 1
  else if h.log2 < -80 then nearOne false
  else
    let d : Nat := 2 ^ (-(min y.e 0)).toNat
    let n : Nat := y.m.natAbs * 2 ^ (max y.e 0).toNat
    let ex := (-y.log2).toNat
    refine (fun p =>
      let x := n * piFix p / d
      ((sinSeries p (x * x) p 1 false x 0).toNat, 64 * p)) keepBits (precisions (ex + 16))
/-- a modulo 2, in [0, 2). -/
def mod2 (a : Dy) : Dy :=
  if a.e ≥ 1 then Dy.zero
  else
    let d : Int := 2 ^ (1 - a.e).toNat
    ⟨a.m % d, a.e⟩
/-- sin(pi a): the value, zero where a is an integer. -/
def sinpiDy (a : Dy) : Dy :=
  let r := mod2 a.abs
  let big := (Dy.ofInt 1).le r
  let r := if big then r.sub (Dy.ofInt 1) else r
  if r.isZero then Dy.zero
  else
    let y := if Dy.lt ⟨1, -1⟩ r then (Dy.ofInt 1).sub r else r
    Dy.withSign (a.isNeg != big) (sinpiSmall y)
/-- cos(pi a). -/
def cospiDy (a : Dy) : Dy :=
  let r := mod2 a.abs
  let r := if (Dy.ofInt 1).lt r then (Dy.ofInt 2).sub r else r
  let neg := Dy.lt ⟨1, -1⟩ r
  let r := if neg then (Dy.ofInt 1).sub r else r
  let y := Dy.sub ⟨1, -1⟩ r
  if y.isZero then Dy.zero
  else if r.isZero then Dy.withSign neg (Dy.ofInt 1)
  else Dy.withSign neg (sinpiSmall y)

/-! ### The functions of R136 -/

def rcpFl (a : Fl) : Ex := divFl (.fin (Dy.ofInt 1)) a
def rsqFl (a : Fl) : Ex :=
  match a with
  | .nan s => ⟨.nan false, flIf s flNV⟩
  | .zero n => ⟨.inf n, 0⟩
  | .inf false => ⟨.zero false, 0⟩
  | .inf true => invalid
  | .fin d => if d.isNeg then invalid else ⟨.fin d.rsqrt, 0⟩
def exp2Fl (a : Fl) : Ex :=
  match a with
  | .nan s => ⟨.nan false, flIf s flNV⟩
  | .inf true => ⟨.zero false, 0⟩
  | .inf false => ⟨.inf false, 0⟩
  | .zero _ => ⟨.fin (Dy.ofInt 1), 0⟩
  | .fin d => ⟨.fin (exp2Dy d), 0⟩
def log2Fl (a : Fl) : Ex :=
  match a with
  | .nan s => ⟨.nan false, flIf s flNV⟩
  | .inf true => invalid
  | .inf false => ⟨.inf false, 0⟩
  | .zero _ => ⟨.inf true, flDZ⟩
  | .fin d => if d.isNeg then invalid else ⟨Fl.ofDy (log2Dy d) false, 0⟩
/-- a * 2^b; a scale beyond every format is cut where it changes nothing. -/
def scaleFl (a : Fl) (b : Int) : Ex :=
  match a with
  | .nan s => ⟨.nan false, flIf s flNV⟩
  | .fin d => ⟨.fin (d.scale (max (-20000) (min 20000 b))), 0⟩
  | x => ⟨x, 0⟩
def sinFl (a : Fl) : Ex :=
  match a with
  | .nan s => ⟨.nan false, flIf s flNV⟩
  | .inf _ => invalid
  | .zero n => ⟨.zero n, 0⟩
  | .fin d => ⟨Fl.ofDy (sinpiDy d) d.isNeg, 0⟩
def cosFl (a : Fl) : Ex :=
  match a with
  | .nan s => ⟨.nan false, flIf s flNV⟩
  | .inf _ => invalid
  | .zero _ => ⟨.fin (Dy.ofInt 1), 0⟩
  | .fin d => ⟨Fl.ofDy (cospiDy d) false, 0⟩
/-- R136 `frnd`: the integer, with NX when it differs. -/
def rndFl (m : Rm) (a : Fl) : Ex :=
  match a with
  | .nan s => ⟨.nan false, flIf s flNV⟩
  | .fin d =>
    let r := roundUnits d 0 m
    ⟨Fl.ofDy (Dy.withSign d.isNeg (Dy.ofInt r.1)) d.isNeg, flIf r.2 flNX⟩
  | x => ⟨x, 0⟩

end Sys2Proof.Machine
end

