-- ==== Sys2Proof/Machine/Chain.lean ====
section
/-! DEFINITION. Links and digit chains: R43 to R47, R138 to R149. -/
namespace Sys2Proof.Machine

/-- R43: N of a link's format. -/
def linkN (wide : Bool) : Nat := if wide then 106 else 48
/-- R43: the prefix of k digits under the exponent e. -/
def digitSum (e : Int) (ds : List Int) : Dy :=
  let r := ds.foldl (fun a d => (a.1 * 2 + d, a.2 + 1)) ((0 : Int), (0 : Nat))
  ⟨r.1, e - r.2⟩
def LinkReg.prefixK (l : LinkReg) (k : Nat) : Dy := digitSum l.e (l.digits.take k)
/-- The index of the first non-zero digit, from 1. -/
def LinkReg.firstDigit (l : LinkReg) : Option Nat := (l.digits.findIdx? fun d => d != 0).map (· + 1)
def LinkReg.isFull (l : LinkReg) : Bool := l.st == .full
/-- R45, R47: the value a full link carries; a finite zero acts as +0. -/
def LinkReg.value (l : LinkReg) : Fl :=
  match l.cls with
  | .finite => Fl.ofDy (l.prefixK l.digits.length) false
  | .pzero => .zero false
  | .nzero => .zero true
  | .pinf => .inf false
  | .ninf => .inf true
  | .nan => .nan false
def clsOf : Fl → LClass
  | .nan _ => .nan
  | .inf n => if n then .ninf else .pinf
  | .zero n => if n then .nzero else .pzero
  | .fin _ => .finite

/-- A source of a record: an IEEE value, or a link as it stands. -/
inductive CSrc
  | ieee (x : Fl)
  | link (l : LinkReg)
  deriving DecidableEq, Repr
def CSrc.isLink : CSrc → Bool | .link _ => true | _ => false
/-- The link holds a finite value. -/
def CSrc.finLink : CSrc → Bool | .link l => l.cls == .finite | _ => false
def CSrc.full : CSrc → Bool | .link l => l.isFull | _ => true
/-- R140: not a finite link, or one whose first non-zero digit arrived or that is full. -/
def CSrc.known : CSrc → Bool
  | .ieee _ => true
  | .link l => l.cls != .finite || l.isFull || l.firstDigit.isSome
/-- A stand-in with the right class and sign: exact where the source is full, +1 or -1 by the first digit where it is known,
and +1 where neither its sign nor its zero can matter. -/
def CSrc.proxy : CSrc → Fl
  | .ieee x => x
  | .link l =>
    if l.isFull then l.value
    else match l.digits.find? fun d => d != 0 with
      | some d => .fin (Dy.ofInt d)
      | none => if l.cls == .finite then .fin (Dy.ofInt 1) else l.value
/-- The value of a source that is full. -/
def CSrc.val : CSrc → Fl
  | .ieee x => x
  | .link l => l.value
/-- A zero that is resolved at issue (R46): an IEEE zero or a link of a zero class. -/
def CSrc.zeroInput : CSrc → Bool
  | .ieee x => x.isZero
  | .link l => l.cls == .pzero || l.cls == .nzero
def CSrc.special : CSrc → Bool
  | .ieee x => x.isNan || x.isInf
  | .link l => l.cls == .nan || l.cls == .pinf || l.cls == .ninf
def CSrc.isNan : CSrc → Bool
  | .ieee x => x.isNan
  | .link l => l.cls == .nan
/-- R44: the exponent a source contributes: a link its own whatever its class; an IEEE zero, infinity or NaN has none. -/
def CSrc.exp : CSrc → Option Int
  | .ieee (.fin d) => some (d.log2 + 1)
  | .link l => some l.e
  | _ => none
def CSrc.pf : CSrc → BitVec 3
  | .link l => l.pf
  | _ => 0

/-! ### Records -/

/-- The type of a record, from its FN (R85), or from the source type of `fcvt`. -/
def ChainRec.ty (r : ChainRec) : Ty :=
  if r.op == 0x8C then .f32 else if r.op == 0x8D then .f64 else Ty.ofCode (r.fn.extractLsb' 3 4)
def ChainRec.mode (r : ChainRec) : Rm := modeOf (RMode.ofCode (r.fn.extractLsb' 0 3)) r.rm
def ChainRec.srcs (r : ChainRec) : List ChainSrc := [r.a, r.b, r.c].filter fun x => x != .unused
/-- The links a record reads. -/
def ChainRec.linkNums (r : ChainRec) : List Nat := [r.a, r.b, r.c].filterMap fun x => match x with | .link n => some n | _ => none
/-- A source of a record in a thread. -/
def srcOf (t : Thread) (ty : Ty) : ChainSrc → CSrc
  | .link n => .link (t.link n)
  | .value x => .ieee (Fl.ofBits (fmtOf ty) x.toNat)
  | .unused => .ieee (.zero false)
def ChainRec.csrcs (r : ChainRec) (t : Thread) : List CSrc := r.srcs.map (srcOf t r.ty)
def CSrc.nil : CSrc := .ieee (.zero false)
def nthSrc (l : List CSrc) (n : Nat) : CSrc := l.getD n CSrc.nil

/-- R144: links consumed, with the producers that are still at work on them, and theirs in turn. -/
def consumeLinks : Nat → List Nat → Thread → Thread
  | 0, _, t => t
  | k + 1, ns, t => ns.foldl (fun t n =>
      match t.chain.find? fun r => r.d == BitVec.ofNat 9 (0x100 + n) with
      | some r => consumeLinks k r.linkNums ({ t with chain := t.chain.filter fun x => x != r }.setLink n LinkReg.clear)
      | none => t.setLink n LinkReg.clear) t
/-- The record is done: it goes, and its sources are consumed. -/
def Thread.finishRec (t : Thread) (r : ChainRec) : Thread :=
  consumeLinks 16 r.linkNums { t with chain := t.chain.filter fun x => x != r }

/-! ### Producers: R44, R46, R140, R141 -/

def isMulOp (op : BitVec 8) : Bool := op == 0x52 || op == 0x53
/-- R44, R46: the exponent predicted before it is cut to 12 bits; none where no exponent is defined. A sum with one zero, or with
a zero product, takes the other addend's (R46, log entry 45). -/
def predictE (op : BitVec 8) (l : List CSrc) : Option Int :=
  let a := nthSrc l 0
  let b := nthSrc l 1
  let c := nthSrc l 2
  if op == 0x50 || op == 0x51 then
    if a.zeroInput && !b.zeroInput then b.exp
    else if b.zeroInput && !a.zeroInput then a.exp
    else match a.exp, b.exp with
      | some x, some y => some (max x y + 1)
      | some x, none => if b.zeroInput then some x else none
      | none, y => if a.zeroInput then y else none
  else if op == 0x52 then (match a.exp, b.exp with | some x, some y => some (x + y) | _, _ => none)
  else if op == 0x53 then
    if (a.zeroInput || b.zeroInput) && !c.zeroInput then c.exp
    else match a.exp, b.exp with
      | some x, some y => (match c.exp with
        | some z => some (max (x + y) z + 1)
        | none => if c.zeroInput then some (x + y + 1) else none)
      | _, _ => if a.zeroInput || b.zeroInput then c.exp else none
  else if op == 0x56 then (match a.exp, b.exp with | some x, some y => some (x - y + 1) | _, _ => none)
  else a.exp.map fun x => -((-x) / 2) + 1
def clampE (x : Int) : Int := max (-2048) (min 2047 x)
/-- R44: the producer starts only when every link input is full. -/
def lateStart (op : BitVec 8) (l : List CSrc) : Bool := match predictE op l with | some x => decide (2047 < x) | none => false
/-- R140: what the producer waits for before it settles. -/
def mustWait (op : BitVec 8) (l : List CSrc) : Bool :=
  let a := nthSrc l 0
  let b := nthSrc l 1
  let zi (x : CSrc) : Bool := x.zeroInput || (x.special && !x.isNan)
  if op == 0x57 then !a.known
  else if op == 0x56 then !b.known || (!a.known && (zi b || b.proxy.isZero))
  else if isMulOp op then (!a.known && zi b) || (!b.known && zi a)
  else false
/-- The operation on values, with its own NV and DZ. -/
def chainOp (op : BitVec 8) (m : Rm) (l : List Fl) : Ex :=
  let a := l.getD 0 (.zero false)
  let b := l.getD 1 (.zero false)
  let c := l.getD 2 (.zero false)
  if op == 0x50 then addFl m a b
  else if op == 0x51 then addFl m a (if b.isNan then b else b.flip)
  else if op == 0x52 then mulFl a b
  else if op == 0x53 then fmaFl m a b c
  else if op == 0x56 then divFl a b
  else sqrtFl a
/-- The finite operation on numbers, some of which may be zero. -/
def chainDy (op : BitVec 8) (l : List Dy) : Dy :=
  let a := l.getD 0 Dy.zero
  let b := l.getD 1 Dy.zero
  let c := l.getD 2 Dy.zero
  if op == 0x50 then a.add b
  else if op == 0x51 then a.sub b
  else if op == 0x52 then a.mul b
  else if op == 0x53 then (a.mul b).add c
  else if op == 0x56 then a.div b
  else a.sqrt
/-- R46: the result is a class without digits: a special value, or a zero that both operands settle. -/
def settledClass (op : BitVec 8) (m : Rm) (l : List CSrc) : Ex :=
  let r := chainOp op m (l.map CSrc.proxy)
  let sumOfNumbers := match op.toNat with
    | 0x50 | 0x51 => !((nthSrc l 0).zeroInput && (nthSrc l 1).zeroInput)
    | 0x53 => !(((nthSrc l 0).zeroInput || (nthSrc l 1).zeroInput) && (nthSrc l 2).zeroInput)
    | 0x52 => !((nthSrc l 0).zeroInput || (nthSrc l 1).zeroInput)
    | 0x56 => !(nthSrc l 0).zeroInput && !(nthSrc l 1).special
    | _ => !(nthSrc l 0).proxy.isZero
  if r.x.isZero && sumOfNumbers then ⟨.fin (Dy.ofInt 1), r.fl⟩ else r
/-- R46: pending flags from NV and DZ. -/
def pfOf (fl : Flg) : BitVec 3 := (if fl.getLsbD 4 then 4 else 0) ||| (if fl.getLsbD 3 then 2 else 0)
/-- R45: the exact result of a producer whose sources are full. -/
def exactOf (op : BitVec 8) (l : List CSrc) : Dy := chainDy op (l.map fun x => x.val.dy)
/-- R138, R140: an empty link whose producer can settle: its class, pending flags and exponent. None while it waits. -/
def settleLink (r : ChainRec) (t : Thread) (n : Nat) : Option LinkReg :=
  let l := r.csrcs t
  let d := t.link n
  let pf := l.foldl (fun x y => x ||| y.pf) (0 : BitVec 3)
  if mustWait r.op l || (lateStart r.op l && !l.all CSrc.full) then none
  else
    let x := settledClass r.op (Rm.ofCode r.rm.toNat) l
    let pf := pf ||| pfOf x.fl
    match x.x with
    | .fin _ =>
      if lateStart r.op l && !(exactOf r.op l).abs.lt (Dy.two 2047) then
        some { d with st := .full, cls := if (exactOf r.op l).isNeg then .ninf else .pinf, pf := pf ||| 1 }
      else some { d with st := .part, cls := .finite, pf := pf }
    | y => some { d with st := .full, cls := clsOf y, pf := pf }
/-- R141: the online delay. -/
def onlineDelay (op : BitVec 8) : Nat := if op == 0x50 || op == 0x51 then 2 else if isMulOp op then 3 else 4
/-- R141: p(i) of source k. -/
def prefixLen (op : BitVec 8) (k i n : Nat) (l : LinkReg) : Nat :=
  let p := min (i + onlineDelay op) n
  if (op == 0x56 && k == 1) || op == 0x57 then max p (l.firstDigit.getD p) else p
/-- R141: the next digit of a settled producer; none while its sources lack digits. The quotient of an `fdiv` whose link divisor lies far
below its E can have a magnitude of 2^E or more, which R44 and R45 do not provide for: E stays as predicted and every digit is 1 or -1
(DESIGN CHOICE, log entry 148). -/
def nextDigit (r : ChainRec) (t : Thread) (n : Nat) : Option Int :=
  let l := r.csrcs t
  let d := t.link n
  let nn := linkN d.wide
  let i := d.digits.length + 1
  let late := lateStart r.op l
  let atEnd := late || decide (nn ≤ i + onlineDelay r.op)
  let ready := if atEnd then l.all CSrc.full
    else (l.zipIdx).all fun x => match x.1 with
      | .link s => s.cls != .finite || s.isFull || decide (prefixLen r.op x.2 i nn s ≤ s.digits.length)
      | _ => true
  if !ready then none
  else
    let y := if atEnd || !l.any CSrc.finLink then (exactOf r.op l).trunc (d.e - nn)
      else chainDy r.op ((l.zipIdx).map fun x => match x.1 with
        | .link s => if s.cls == .finite then s.prefixK (prefixLen r.op x.2 i nn s) else Dy.zero
        | .ieee v => v.dy)
    let u := (y.sub (digitSum d.e d.digits)).scale (-(d.e - i))
    some (if Dy.le ⟨1, -1⟩ u then 1 else if u.lt ⟨-1, -1⟩ then -1 else 0)
/-- R141: up to k digits delivered; the link is full with digit N, and its producer done (R138). -/
def deliverDigits : Nat → ChainRec → Nat → Thread → Thread × Bool
  | 0, _, _, t => (t, false)
  | k + 1, r, n, t =>
    match nextDigit r t n with
    | none => (t, false)
    | some d =>
      let l := t.link n
      let l := { l with digits := l.digits ++ [d] }
      if l.digits.length = linkN l.wide then ((t.setLink n { l with st := .full }).finishRec r, true)
      else ((deliverDigits k r n (t.setLink n l)).1, true)

/-! ### Consumers: R132 to R134, R137, R143 -/

/-- The result of a consumer on the values of its sources: bits, flags of its own. -/
def consumerResult (r : ChainRec) (vals : List Fl) : Nat × Flg :=
  let ty := r.ty
  let f := (fmtOf ty)
  let m := r.mode
  let a := vals.getD 0 (.zero false)
  let b := vals.getD 1 (.zero false)
  match r.op.toNat with
  | 0x54 => (minmaxFl false a b).round f m
  | 0x55 => (minmaxFl true a b).round f m
  | 0x58 => let x := cmpFl (Cond.ofCode (r.fn.extractLsb' 0 3)) a b; (if x.1 then 1 else 0, x.2)
  | 0x59 =>
    let x := if r.c == .value 1 then a else b
    let y := roundFl f m x
    (y.1, y.2 ||| flIf x.isSnan flNV)
  | 0x8C | 0x8D =>
    let td := Ty.ofCode (r.fn.extractLsb' 3 4)
    if td.isFloat then let y := roundFl (fmtOf td) m a; (y.1, y.2 ||| flIf a.isSnan flNV)
    else let y := toIntFl td.bits td.signed m a; (wrapN td.bits y.1, y.2)
  | _ => (chainOp r.op m vals).round f m
/-- The type a consumer writes. -/
def ChainRec.dstTy (r : ChainRec) : Ty := Ty.ofCode (r.fn.extractLsb' 3 4)
/-- R46: the pending flags as flags. -/
def pendFlags (pf : BitVec 3) : Flg :=
  flIf (pf.getLsbD 2) flNV ||| flIf (pf.getLsbD 1) flDZ ||| flIf (pf.getLsbD 0) (flOF ||| flNX)
/-- The sources whose values and pending flags count: for `fsel` the selected one (R133). -/
def ChainRec.usedSrcs (r : ChainRec) : List ChainSrc :=
  if r.op == 0x59 then (if r.c == .value 1 then [r.a] else [r.b]) else r.srcs
def ChainRec.pending (r : ChainRec) (t : Thread) : Flg :=
  pendFlags ((r.usedSrcs.map (srcOf t r.ty)).foldl (fun x y => x ||| y.pf) (0 : BitVec 3))
/-- R143: the ends of a link's interval, and its grid. -/
def intervalOf (l : LinkReg) : Dy × Dy :=
  let k := l.digits.length
  let w := (Dy.two (l.e - k)).sub (Dy.two (l.e - linkN l.wide))
  ((l.prefixK k).sub w, (l.prefixK k).add w)
/-- The number lies strictly inside an interval and on the grid of multiples of 2^g. -/
def insideGrid (x lo hi : Dy) (g : Int) : Bool := lo.lt x && x.lt hi && (x.trunc g).eq x
/-- The values of a link at which a result or its flags can change: the ends, zero, and the number a result stands for. A
comparison is monotone in each source, so its ends are enough. -/
def candidates (r : ChainRec) (l : LinkReg) (res : Nat) : List Fl :=
  let iv := intervalOf l
  let g := l.e - linkN l.wide
  let dst := r.dstTy
  let ends := [Fl.ofDy iv.1 false, Fl.ofDy iv.2 false]
  if r.op == 0x58 then ends
  else
    let x : Dy := if dst.isFloat then (Fl.ofBits (fmtOf dst) res).dy else Dy.ofInt (intOf dst res)
    ends ++ (if insideGrid Dy.zero iv.1 iv.2 g then [Fl.zero false] else [])
      ++ (if insideGrid x iv.1 iv.2 g then [Fl.ofDy x false] else [])
/-- The numbers a source can still be, as an interval and a grid; none for a NaN or an infinity. -/
def CSrc.span : CSrc → Option (Dy × Dy × Int)
  | .ieee (.fin d) => some (d, d, d.norm.e)
  | .ieee (.zero _) => some (Dy.zero, Dy.zero, 0)
  | .ieee _ => none
  | .link l =>
    if l.cls == .finite then
      (if l.isFull then let v := l.prefixK l.digits.length; some (v, v, v.norm.e)
       else let iv := intervalOf l; some (iv.1, iv.2, l.e - linkN l.wide))
    else if l.cls == .pzero || l.cls == .nzero then some (Dy.zero, Dy.zero, 0) else none
/-- Two sources can still be equal: a common multiple of both grids lies in both intervals. -/
def canEqual (a b : CSrc) : Bool :=
  match a.span, b.span with
  | some (al, ah, ag), some (bl, bh, bg) =>
    let lo := if al.lt bl then bl else al
    let hi := if ah.lt bh then ah else bh
    let g := max ag bg
    let x := Dy.align hi (Dy.two g)
    lo.le hi && lo.le ⟨x.1 / x.2.1 * x.2.1, x.2.2⟩
  | _, _ => false
/-- The values a source can still take. -/
def CSrc.range (r : ChainRec) (res : Nat) : CSrc → List Fl
  | .ieee x => [x]
  | .link l => if l.isFull || l.cls != .finite then [l.value] else candidates r l res
/-- Every choice of one value for each source. -/
def choices : List (List Fl) → List (List Fl)
  | [] => [[]]
  | xs :: r => xs.flatMap fun x => (choices r).map fun y => x :: y
/-- R143, R145: the result of a consumer, once it can give it; with a trap enable set it reads every source to full. -/
def consumerReady (r : ChainRec) (t : Thread) : Option (Nat × Flg) :=
  let used := if r.op == 0x59 then [srcOf t r.ty r.a, srcOf t r.ty r.b] else r.csrcs t
  let need := if r.op == 0x59 then r.usedSrcs.map (srcOf t r.ty) else used
  if need.all CSrc.full then some (consumerResult r (used.map CSrc.val))
  else if !r.early || t.anyEnable then none
  else
    let low := consumerResult r (used.map fun x => (CSrc.range r 0 x).headD (.zero false))
    let eqCond := r.op == 0x58 && (r.fn.extractLsb' 0 3 == 0 || r.fn.extractLsb' 0 3 == 1)
    if eqCond && canEqual (nthSrc used 0) (nthSrc used 1) then none
    else if (choices (used.map (CSrc.range r low.1))).all fun v => consumerResult r v == low then some low else none
/-- The flags of a result and those its sources left pending (R46). -/
def ChainRec.flags (r : ChainRec) (t : Thread) (x : Nat × Flg) : Flg := x.2 ||| r.pending t
/-- A consumer that can give its result does: D, flags, and its sources consumed. One whose flags are enabled writes nothing (R145). -/
def completeRec (r : ChainRec) (t : Thread) : Thread :=
  match consumerReady r t with
  | none => t
  | some x =>
    if t.enabled (r.flags t x) != 0 then t
    else
      let t := (t.raise (r.flags t x)).finishRec r
      if r.op == 0x58 then t.setPred r.d.toNat (x.1 == 1)
      else if r.d.toNat < 0x100 then t.setRegs (resultWords r.dstTy r.d.toNat x.1)
      else t
/-- Every consumer in flight that can complete does, oldest first. -/
def completeAll (t : Thread) : Thread :=
  (t.chain.filter fun r => !r.producer).foldl (fun t r => if t.chain.contains r then completeRec r t else t) t
/-- R145: the oldest consumer that could complete but for an enabled flag, with its flags. -/
def flagHeld (t : Thread) : Option (ChainRec × Flg) :=
  (t.chain.filter fun r => !r.producer).findSome? fun r =>
    (consumerReady r t).bind fun x => if t.enabled (r.flags t x) != 0 then some (r, r.flags t x) else none

/-- R141: the producer of a link settles it, or delivers its next digit, and consumers that can then complete do. None where
nothing can happen. -/
def deliverLink (n : Nat) (t : Thread) : Option Thread :=
  match t.chain.find? fun r => r.d == BitVec.ofNat 9 (0x100 + n) with
  | none => none
  | some r =>
    if (t.link n).st == .empty then
      match settleLink r t n with
      | none => none
      | some l => some (completeAll (if l.isFull then (t.setLink n l).finishRec r else t.setLink n l))
    else
      let x := deliverDigits 1 r n t
      if x.2 then some (completeAll x.1) else none

/-! ### A consumer whose flag traps after its issue: R145, log entry 135 -/

/-- The instruction of a consumer in flight stands right before its thread: its length. -/
def consumerLen (k : Kernel) (pc : BitVec 56) (r : ChainRec) : Option Nat :=
  [8, 16].find? fun n =>
    let a := pc.toNat - n
    decide (k.codeVA + n ≤ pc.toNat) &&
      (match decode k.shape (a % 32) (BitVec.ofNat 128 (k.code.nat (a - k.codeVA) 16)) with
       | .ok i => i.bytes == n && (match i.raw with
         | some y => y.op == r.op && y.fn == r.fn && y.d == r.d
         | none => false)
       | .error _ => false)
/-- A lane set back by n bytes, in an entry of its own where the frontier has room; the entry it is then in. -/
def setBack (eid lane n : Nat) (e : Entry) (w : Warp) : Nat × Warp :=
  let pc := e.pc - BitVec.ofNat 56 n
  if e.mask = maskOf [lane] ∨ 8 ≤ w.entries.length then
    (e.eid, { w with entries := w.entries.map fun x => if x.eid = e.eid then { x with pc := pc } else x })
  else (eid, { w with entries := dropLanes (maskOf [lane]) w.entries ++ [⟨eid, pc, maskOf [lane], e.prio, .none, [], 0⟩] })
/-- R37, R145: the flag trap of a consumer that completes after its issue, taken at its own address with its sources kept full. It
waits while its warp handles or holds another trap, or where its instruction cannot be told. -/
def chainTrap (s : State) (crew tid : Nat) : State :=
  match s.crew? crew with
  | none => s
  | some c =>
    match flagHeld (c.thread tid), c.warps.find? fun w => w.lanes.contains (some tid) with
    | some (r, fl), some w =>
      let lane := (w.lanes.findIdx? (· == some tid)).getD 0
      match w.entries.find? fun e => e.hold == .none && e.mask.getLsbD lane with
      | none => s
      | some e =>
        match consumerLen c.kernel e.pc r with
        | none => s
        | some n =>
          if w.handler.isSome || w.trap.isSome then s
          else
            let x := setBack s.uid lane n e w
            let full (t : Thread) : Thread := if r.op != 0x58 && decide (r.d.toNat < 0x100) then
                { t with full := (List.range (if r.dstTy.bits = 64 then 2 else 1)).foldl (fun f i => f.set (r.d.toNat + i) true) t.full } else t
            let c := (c.setWarp x.2).modThread tid fun t => (full { t with chain := t.chain.filter fun y => y != r }).raise fl
            takeTrap { s.setCrew c with uid := s.uid + 1 } crew w.wid x.1 (e.pc - BitVec.ofNat 56 n) n
              { cls := 3, cause := fl.toNat, tval := 0, lanes := maskOf [lane] }
    | _, _ => s
/-- R143, R149: a thread's consumers that can complete do, or trap. -/
def settleThread (s : State) (crew tid : Nat) : State :=
  chainTrap (s.modCrew crew fun c => c.modThread tid completeAll) crew tid

/-- LINK_DIGIT_DELIVERY: R138 to R145. -/
def execLinkDigitDelivery (crew tid link : Nat) (s : State) : Host.Outcome State Fault Refusal :=
  match s.crew? crew with
  | none => .refused .notEnabled
  | some c =>
    match (if Crew.runs s c then deliverLink link (c.thread tid) else none) with
    | none => .refused .notEnabled
    | some t =>
      let ended := (c.thread tid).chain.filter fun r => !t.chain.contains r && !r.producer && r.op != 0x58
      .next (chainTrap (markAll (s.setCrew (c.modThread tid fun _ => t)) c.ctx (c.rowsOf tid (ended.map fun r => r.d.toNat))) crew tid)

/-! ### Snapshots and records as stored: R47, R148 -/

def LState.code : LState → Nat | .empty => 0 | .part => 1 | .full => 2 | .consumed => 3
def LState.ofCode (n : Nat) : LState := match n with | 0 => .empty | 1 => .part | 2 => .full | _ => .consumed
def LClass.code : LClass → Nat | .finite => 0 | .pzero => 1 | .nzero => 2 | .pinf => 3 | .ninf => 4 | .nan => 5
def LClass.ofCode (n : Nat) : LClass :=
  match n with | 0 => .finite | 1 => .pzero | 2 => .nzero | 3 => .pinf | 4 => .ninf | _ => .nan
def digitCode (d : Int) : Nat := if d = 0 then 0 else if d = 1 then 1 else 3
/-- R47: the digits as a field of 2N bits, digit 1 uppermost. -/
def digitField (n : Nat) (ds : List Int) : Nat :=
  (List.range n).foldl (fun x i => x * 4 + digitCode (ds.getD i 0)) 0
/-- R47: the snapshot, as a number of 128 or 256 bits. -/
def LinkReg.snapshot (l : LinkReg) : Nat :=
  let n := linkN l.wide
  let e := wrapN 12 l.e
  let k := l.digits.length
  if l.wide then
    l.st.code * 2 ^ 254 + l.cls.code * 2 ^ 251 + l.pf.toNat * 2 ^ 248 + e * 2 ^ 236 + k * 2 ^ 229 + digitField n l.digits
  else
    l.st.code * 2 ^ 126 + l.cls.code * 2 ^ 123 + l.pf.toNat * 2 ^ 120 + e * 2 ^ 108 + k * 2 ^ 102 + digitField n l.digits
/-- R47: a snapshot read; none where it is malformed. -/
def LinkReg.ofSnapshot (wide : Bool) (x : Nat) : Option LinkReg :=
  let n := linkN wide
  let b := if wide then 128 else 0
  let st := bitsOf x (127 + b) (126 + b)
  let cls := bitsOf x (125 + b) (123 + b)
  let k := if wide then bitsOf x 235 229 else bitsOf x 107 102
  let rsv := if wide then bitsOf x 228 212 else bitsOf x 101 96
  let code (i : Nat) : Nat := bitsOf x (2 * (n - 1 - i) + 1) (2 * (n - 1 - i))
  let ds := (List.range n).map code
  if cls > 5 ∨ rsv ≠ 0 ∨ n < k ∨ ds.contains 2 ∨ (ds.drop k).any (fun c => c != 0) then none
  else some
    { wide := wide, st := LState.ofCode st, cls := LClass.ofCode cls, pf := BitVec.ofNat 3 (bitsOf x (122 + b) (120 + b))
      e := sInt 12 (bitsOf x (119 + b) (108 + b)), digits := (ds.take k).map fun (c : Nat) => (if c = 3 then -1 else (c : Int) : Int) }
/-- R147: the snapshot matches its STATE row. -/
def LinkReg.legal (l : LinkReg) : Bool :=
  let n := linkN l.wide
  match l.st with
  | .empty => l.cls == .finite && l.pf == 0 && l.digits.isEmpty
  | .part => l.cls == .finite && decide (l.digits.length < n)
  | .full => if l.cls == .finite then l.digits.length == n else l.digits.isEmpty
  | .consumed => l.cls == .finite && l.pf == 0 && l.digits.isEmpty && l.e == 0
def ChainSrc.kind : ChainSrc → Nat | .unused => 0 | .value _ => 1 | .link _ => 2
def ChainSrc.word : ChainSrc → Nat | .unused => 0 | .value x => x.toNat | .link n => n
/-- R148: a chain record as 32 bytes. -/
def ChainRec.bytes (r : ChainRec) (seq : Nat) : List Byte :=
  let h := r.op.toNat * 2 ^ 56 + r.fn.toNat * 2 ^ 49 + r.d.toNat * 2 ^ 40 + seq * 2 ^ 36 + r.c.kind * 2 ^ 34 + r.b.kind * 2 ^ 32
    + r.a.kind * 2 ^ 30
  leBytes 8 h ++ leBytes 8 r.a.word ++ leBytes 8 r.b.word ++ leBytes 8 r.c.word
/-- R143, log entry 17: whether a saved consumer decides early; of `fmin` and `fmax` any value source counts as a constant. -/
def earlyOp (op : BitVec 8) (fn : BitVec 7) (constSrc : Bool) : Bool :=
  let td := Ty.ofCode (fn.extractLsb' 3 4)
  match op.toNat with
  | 0x58 => true
  | 0x54 | 0x55 => constSrc
  | 0x8C => !td.isFloat || td == .f16 || td == .bf16
  | 0x8D => !td.isFloat || td != .f64
  | _ => false
/-- R148: a source of kind k; a value of an operation on `.f32` has zeros above it. -/
def srcOfKind (f32 : Bool) (k x : Nat) : Option ChainSrc :=
  match k with
  | 0 => if x = 0 then some .unused else none
  | 1 => if f32 && decide (2 ^ 32 ≤ x) then none else some (.value (BitVec.ofNat 64 x))
  | 2 => if x < 16 then some (.link x) else none
  | _ => none
/-- R148: a record read; `rm` is the thread's `fpctl.RM`, which the record does not hold (log entry 17). -/
def ChainRec.ofBytes (bs : List Byte) (seq : Nat) (rm : BitVec 2) : Option ChainRec :=
  let h := sliceNat bs 0 8
  let f32 := (if bitsOf h 63 56 = 0x8C then Ty.f32 else if bitsOf h 63 56 = 0x8D then .f64 else Ty.ofCode (BitVec.ofNat 4 (bitsOf h 55 52))) == .f32
  match srcOfKind f32 (bitsOf h 31 30) (sliceNat bs 8 8), srcOfKind f32 (bitsOf h 33 32) (sliceNat bs 16 8),
    srcOfKind f32 (bitsOf h 35 34) (sliceNat bs 24 8) with
  | some a, some b, some c =>
    let op := BitVec.ofNat 8 (bitsOf h 63 56)
    let fn := BitVec.ofNat 7 (bitsOf h 55 49)
    let isVal : ChainSrc → Bool := fun x => match x with | .value _ => true | _ => false
    if bitsOf h 29 0 ≠ 0 ∨ bitsOf h 39 36 ≠ seq ∨ (op = 0x59 ∧ c ≠ .value 0 ∧ c ≠ .value 1) then none
    else some ⟨op, fn, BitVec.ofNat 9 (bitsOf h 48 40), a, b, c, rm, earlyOp op fn (isVal a || isVal b)⟩
  | _, _, _ => none

end Sys2Proof.Machine
end

