-- ==== Sys2Proof/Machine/Control.lean ====
section
/-! DEFINITION. Control instructions (R110 to R120) and accesses that keep their instruction from issuing (R116, R120,
R280). -/
namespace Sys2Proof.Machine

/-! ### Accesses that are never deferred: R116, R120, R280 -/

/-- What a try answers. -/
inductive Tried
  | ok (key vpage : Nat)
  | wait
  | fault (cause : Nat)
  deriving DecidableEq, Repr
/-- A warp's wait noted or dropped. -/
def setStall (s : State) (crew wid : Nat) (x : Option Stall) : State :=
  s.modCrew crew fun c => c.modWarp wid fun w => { w with stall := x }
/-- R116, R275: a translation that the instruction waits for. The fourth recoverable fault is unrecoverable; a full merge table
is tried again; an answer that cannot mend it comes back in the stall's cause. -/
def tryAccess (s : State) (crew wid core ctx va : Nat) (kind : Access) : State × Tried :=
  let old := ((s.crew? crew).bind fun c => c.warp? wid).bind (·.stall)
  let here := match old with | some x => x.va / 2 ^ 15 == va / 2 ^ 15 && x.kind == kind | none => false
  let tries := if here then (old.map (·.tries)).getD 0 else 0
  let dead := if here then (match old with | some x => if x.cause == 4 || x.cause == 5 then some x.cause else none | none => none) else none
  match (old.map (·.waiting)).getD false, dead with
  | true, _ => (s, .wait)
  | false, some c => (s, .fault c)
  | false, none =>
    let r := xlate s (dieOf core) (some core) ctx va kind
    match r.2 with
    | .ok k p => (r.1, .ok k p)
    | .ats p => (setStall (atsAsk r.1 ctx p) crew wid (some ⟨va, kind, tries, 0, true⟩), .wait)
    | .fault c =>
      if !recoverable c then (r.1, .fault c)
      else if 3 ≤ tries then (r.1, .fault 6)
      else
        let m := mergeJoin r.1 (dieOf core) ctx (va / 2 ^ 15) kind (.warp crew wid)
        if m.2 then (setStall m.1 crew wid (some ⟨va, kind, tries + 1, c, true⟩), .wait) else (s, .wait)
/-- A wait for accesses of one kind is over. -/
def endStall (s : State) (crew wid : Nat) (kind : Access) : State :=
  s.modCrew crew fun c => c.modWarp wid fun w => { w with stall := w.stall.filter fun x => x.kind != kind }
/-- The precise data-fault trap of such an access. -/
def faultTrap (cause va : Nat) (lanes : Mask) : Trap := { cls := 7, cause := cause, tval := BitVec.ofNat 64 va, lanes := lanes }

/-! ### `nop` and branches: R112 -/

/-- `nop` (format N). -/
def execNopN (f : Fields) (s : State) : Host.Outcome State Fault Refusal := issue (.nopN f) s fun _ s => .go s
/-- `nop` (format I). -/
def execNopI (f : Fields) (s : State) : Host.Outcome State Fault Refusal := issue (.nopI f) s fun _ s => .go s
/-- `nop` (format W). -/
def execNopW (f : Fields) (s : State) : Host.Outcome State Fault Refusal := issue (.nopW f) s fun _ s => .go s
/-- R112: the destination of `bra` and `call`, computed in 64 bits. -/
def branchTo (e : Env) : Nat := wrapN 64 ((e.pc.toNat : Int) + 4 * sInt 32 (e.f.imm.getD 0).toNat)
/-- R112: a computed destination that is no address. -/
def badTarget (t : Nat) : Bool := t % 4 != 0 || decide (2 ^ 56 ≤ t)
/-- R112: the control-target trap over lanes with their destinations, if any is bad. -/
def targetCheck (ls : List (Nat × Nat)) : Check :=
  let bad := ls.filter fun l => badTarget l.2
  match bad.head? with
  | none => .pass
  | some b => .trap (controlTrap 2 (BitVec.ofNat 64 b.2) (maskOf (bad.map (·.1))) (.values bad))
/-- R110, R112: lanes go to their destinations, once these are addresses. -/
def branchLanes (e : Env) (s : State) (ls : List (Nat × Nat)) : Res :=
  match targetCheck ls with
  | .trap t => .trap s t
  | .wait => .wait
  | .pass => placeAll e s (ls.map fun l => (l.1, BitVec.ofNat 56 l.2))
/-- `bra`. -/
def execBra (f : Fields) (s : State) : Host.Outcome State Fault Refusal :=
  issueCtl (.bra f) s fun e s => branchLanes e s (e.lanes.map fun l => (l.1, branchTo e))
/-- `bri`. -/
def execBri (f : Fields) (s : State) : Host.Outcome State Fault Refusal :=
  issueCtl (.bri f) s fun e s => branchLanes e s (e.lanes.map fun l => (l.1, srcBits e.w (e.th l.2) .b64 e.f.a))

/-! ### Calls and the return stack: R113 to R116 -/

/-- R116, R218: accesses of n bytes by lanes (lane, thread, address): each translated in lane order, then all performed, or the wait or
trap that the first of them meets. `k` goes on with the keys. -/
def spillAll (e : Env) (s : State) (kind : Access) (n : Nat) (xs : List (Nat × Nat × Nat)) (k : State → List (Nat × Nat × Nat) → Res) : Res :=
  let core := e.c.warpCore e.w
  let mine (id tid : Nat) : Bool := ((e.th tid).facq.getD []).contains id || (kind == .write && ((e.th tid).frel.getD []).contains id)
  let hit (x : LogEntry) : Bool := xs.any fun l => logMeets x .global l.2.1 l.2.2 n || mine x.id l.2.1
  let tr (x : Transfer) : Bool := xs.any fun l => transferMeets x .global (kind == .write) l.2.1 l.2.2 n || (x.tid == l.2.1 && mine x.id l.2.1)
  if xs.isEmpty then k s []
  else
    match holdCheck s e hit tr with
    | .trap t => .trap s t
    | .wait => .wait
    | .pass =>
      let r := xs.foldl (fun (r : State × List (Nat × Nat × Nat) × Option (Nat × Tried)) l =>
        match r.2.2 with
        | some _ => r
        | none =>
          let x := tryAccess r.1 e.c.id e.w.wid core e.c.ctx l.2.2 kind
          match x.2 with
          | .ok key p => if x.1.poisoned key n then (x.1, r.2.1, some (l.2.2, .fault 7)) else (x.1, r.2.1 ++ [(l.2.1, key, p)], none)
          | y => (x.1, r.2.1, some (l.2.2, y))) (s, [], none)
      match r.2.2 with
      | some (_, .wait) => .stall r.1
      | some (va, .fault c) => .trap (setStall r.1 e.c.id e.w.wid none)
          (faultTrap c va (maskOf ((xs.filter fun l => l.2.2 == va).map (·.1))))
      | some (_, .ok _ _) => .wait
      | none =>
        if kind == .write && r.1.writesBlocked (r.2.1.map (·.2.1)) then .wait
        else k (endStall r.1 e.c.id e.w.wid kind) r.2.1
/-- The plain 64-bit access of a spill or fill. -/
def spillOp (kind : Access) : MemOp := ⟨.global, kind, .b64, 1, .plain, .add⟩
/-- R114: push and branch; each lane with its destination. The depth comes first, then the spill's translation, then the destination;
nothing is written before all of them have passed (R127). -/
def callBody (e : Env) (s : State) (ls : List (Nat × Nat)) : Res :=
  let over' := e.lanes.filter fun l => decide (512 ≤ (e.th l.2).rsdepth)
  if !over'.isEmpty then
    .trap s (controlTrap 3 (BitVec.ofNat 64 ((over'.head?.map fun l => (e.th l.2).rsdepth).getD 0)) (maskOf (over'.map (·.1)))
      (.values (over'.map fun l => (l.1, (e.th l.2).rsdepth))))
  else
    let spill := (e.lanes.filter fun l => decide (8 ≤ (e.th l.2).rsdepth)).map fun l =>
      (l.1, l.2, spillAddr (e.th l.2) ((e.th l.2).rsdepth - 8))
    spillAll e s .write 8 spill fun s keys =>
      match branchLanes e s ls with
      | .go _ =>
        let core := e.c.warpCore e.w
        let s := keys.foldl (fun s x => (accessKey s e.c.ctx core (spillOp .write) x.2.1 x.2.2
          [((e.th x.1).rstack.getD 7 0).toNat]).1) s
        let back : Quad := (e.pc + BitVec.ofNat 56 e.len).setWidth 64
        branchLanes e (s.modCrew e.c.id fun c => e.lanes.foldl (fun c l => c.modThread l.2 fun t =>
          { t with rsdepth := t.rsdepth + 1, rstack := back :: t.rstack.take 7 }) c) ls
      | r => r
/-- `call`. -/
def execCall (f : Fields) (s : State) : Host.Outcome State Fault Refusal :=
  issueCtl (.call f) s fun e s => callBody e s (e.lanes.map fun l => (l.1, branchTo e))
/-- `calli`. -/
def execCalli (f : Fields) (s : State) : Host.Outcome State Fault Refusal :=
  issueCtl (.calli f) s fun e s => callBody e s (e.lanes.map fun l => (l.1, srcBits e.w (e.th l.2) .b64 e.f.a))
/-- `ret`: R115. -/
def execRet (f : Fields) (s : State) : Host.Outcome State Fault Refusal :=
  issueCtl (.ret f) s fun e s =>
    let none' := e.lanes.filter fun l => (e.th l.2).rsdepth == 0
    let ls := e.lanes.map fun l => (l.1, ((e.th l.2).rstack.headD 0).toNat)
    if !none'.isEmpty then .trap s (controlTrap 4 0 (maskOf (none'.map (·.1))) (.values (none'.map fun l => (l.1, 0))))
    else
      match targetCheck ls with
      | .trap t => .trap s t
      | .wait => .wait
      | .pass =>
        let dest := ls.map fun l => (l.1, BitVec.ofNat 56 l.2)
        match placeAll e s dest with
        | .go _ =>
          let fill := (e.lanes.filter fun l => decide (9 ≤ (e.th l.2).rsdepth)).map fun l =>
            (l.1, l.2, spillAddr (e.th l.2) ((e.th l.2).rsdepth - 9))
          spillAll e s .read 8 fill fun s keys =>
            let core := e.c.warpCore e.w
            let r := keys.foldl (fun (r : State × List (Nat × Nat)) x =>
              let y := accessKey r.1 e.c.ctx core (spillOp .read) x.2.1 x.2.2 []
              (y.1, r.2 ++ [(x.1, ((y.2.getD []).headD 0))])) (s, [])
            placeAll e (r.1.modCrew e.c.id fun c => e.lanes.foldl (fun c l => c.modThread l.2 fun t =>
              let low := match r.2.find? fun y => y.1 == l.2 with | some y => [BitVec.ofNat 64 y.2] | none => []
              { t with rsdepth := t.rsdepth - 1, rstack := t.rstack.drop 1 ++ low }) c) dest
        | r => r

/-! ### Ending and yielding: R117, R118 -/

/-- R110, R117, R118: the entry's other lanes go to the next word before the executing lanes leave the warp, so that lanes which a
join then releases find the frontier as it will be; an overflow changes nothing (R111). -/
def leaveWarp (e : Env) (s : State) (k : State → State) : Res :=
  match placeSome e s [] e.execMask 0 with
  | .go t => .go ((k t).modCrew e.c.id freeSlots)
  | r => r
/-- `exit`. -/
def execExit (f : Fields) (s : State) : Host.Outcome State Fault Refusal :=
  issueCtl (.exit f) s fun e s => leaveWarp e s fun s => endThreads s e.c.id e.w.wid e.lanes
/-- R118: the lanes of a width-free `park` leave their warp and its joins for the pool. -/
def poolLanes (e : Env) (s : State) : State :=
  match s.crew? e.c.id with
  | none => s
  | some c =>
    match c.warp? e.w.wid with
    | none => s
    | some w =>
      let j := leaveJoins c.kernel e.execMask (emptyLanes e.execMask w)
      let c := lanesToPool c.kernel s.cycle (e.pc + 8) none (e.lanes.map (·.2)) (c.setWarp j.1)
      comeHome c w (acquireIf j.2 (c.warpCore w) (s.setCrew (poolSettle 16 c)))
/-- R118: the width-free `park`. -/
def parkFree (e : Env) (s : State) : Res := leaveWarp e s (poolLanes e)
/-- R118: the width-declared `park`: a yield to every other entry that may issue. -/
def parkDeclared (e : Env) (s : State) : Res :=
  match placeAll e s (e.lanes.map fun l => (l.1, e.pc + 8)) with
  | .go s =>
    if e.lanes.isEmpty then .go s
    else .go (s.modCrew e.c.id fun c => c.modWarp e.w.wid fun w =>
      { w with entries := w.entries.map fun x =>
          if x.hold == .none && x.mask &&& e.execMask != 0 then
            { x with yield := (w.entries.filter fun y => y.hold == .none && y.eid != x.eid).map (·.eid) } else x })
  | r => r
/-- `park`. -/
def execPark (f : Fields) (s : State) : Host.Outcome State Fault Refusal :=
  issueCtl (.park f) s fun e s => if e.sh.width = 0 then parkFree e s else parkDeclared e s

/-! ### Joins: R119 -/

/-- `jset`. On a join with held lanes it traps whatever its guard, as the pseudocode of R119 has it (log entry 150). -/
def execJset (j : BitVec 3) (f : Fields) (s : State) : Host.Outcome State Fault Refusal :=
  issueCtl (.jset j f) s fun e s0 =>
    if e.w.entries.any fun x => x.hold == .jwait j.toNat then .trap s0 (controlTrap 5 (j.setWidth 64) e.execMask)
    else
      let s := s0.modCrew e.c.id fun c => c.modWarp e.w.wid fun w => { w with joins := w.joins.set j.toNat ⟨e.execMask, 0⟩ }
      precisely s0 (placeAll e s (e.lanes.map fun l => (l.1, e.pc + 8)))
/-- `jwait`. -/
def execJwait (j : BitVec 3) (f : Fields) (s : State) : Host.Outcome State Fault Refusal :=
  issueCtl (.jwait j f) s fun e s =>
    let join := e.w.joins.getD j.toNat ⟨0, 0⟩
    let come := e.lanes.filter fun l => join.members.getLsbD l.1
    let m := maskOf (come.map (·.1))
    match releaseCheck s { e with lanes := come } with
    | .trap t => .trap s t
    | .wait => .wait
    | .pass =>
      match placeSome e s [] m (if come.isEmpty then 0 else 1) with
      | .go s =>
        match s.crew? e.c.id with
        | none => .go s
        | some c =>
          match c.warp? e.w.wid with
          | none => .go s
          | some w =>
            let w := { w with entries := placeHeld s.uid e.pc (c.kernel.prioAt e.pc) (.jwait j.toNat) m w.entries
                              joins := w.joins.set j.toNat { join with arrived := join.arrived ||| m } }
            let x := checkJoin c.kernel j.toNat w
            .go (acquireIf x.2 (c.warpCore w) { s.setCrew (c.setWarp x.1) with uid := s.uid + 1 })
      | r => r

/-! ### Migration: R120, R241 -/

/-- R241: the landing slots taken on a core. -/
def slotsTaken (s : State) (core : Nat) : List Nat :=
  s.crews.flatMap fun c => c.warps.flatMap fun w => match w.away with
    | some a => if a.core = core then (if c.kernel.shape.width = 128 then [0, 1] else [a.slot]) else []
    | none => []
/-- R120, R231: a landing slot on a die, searched from the quad beside the home slice. -/
def findSlot (s : State) (slice : Nat) (pair : Bool) : Option Away :=
  let cores := (List.range 16).flatMap fun i => (List.range 4).map fun j => (slice / 16 * 16 + (slice % 16 + i) % 16) * 4 + j
  cores.findSome? fun k =>
    if s.quadOut (quadOf k) then none
    else
      let t := slotsTaken s k
      if pair then (if t.isEmpty then some ⟨k, 0⟩ else none)
      else ((List.range 2).find? fun i => !t.contains i).map fun i => ⟨k, i⟩
/-- R241: a request for the die that began to wait earlier, or with it from a lower home core. -/
def waitsBefore (s : State) (die : Nat) (me : Nat × Nat) (at' : Nat) : Bool :=
  s.crews.any fun c => c.warps.any fun w => match w.migWait with
    | some x => x.2 == die && (c.id, w.wid) != me &&
        (decide (x.1 < at') || (x.1 == at' && decide (c.core < ((s.crew? me.1).map (·.core)).getD 0)))
    | none => false
/-- R120 step 4: the warp's destinations are full, its links settled and its log empty. -/
def settled (c : Crew) (w : Warp) : Bool :=
  (c.logOf w).isEmpty && (w.lanes.filterMap id).all fun t => let th := c.thread t; th.exited || (th.full.all (· == true) && th.chain.isEmpty)
/-- R120 step 5: where the warp goes: nowhere, home, or a landing slot; none while it must wait. -/
def migPlace (s : State) (c : Crew) (w : Warp) (key : Nat) (at' : Nat) : Option (Option Away) :=
  let slice := homeSlice key
  let die := slice / 16
  if die = dieOf (c.warpCore w) then some w.away
  else if w.away.isSome && die == dieOf c.core then some none
  else if waitsBefore s die (c.id, w.wid) at' then none
  else (findSlot s slice (c.kernel.shape.width == 128)).map some
/-- R120 step 6: the commit. The core that the warp comes to keeps no word of its L1 that an access of the warp made stale (R253). -/
def migMove (s : State) (c : Crew) (w : Warp) (dest : Option Away) : State :=
  let v := { w with away := dest, migWait := none, stall := none
                    entries := w.entries.map fun e => { e with pc := e.pc + 8, prio := c.kernel.prioAt (e.pc + 8) } }
  let t := s.setCrew (c.setWarp v)
  if dest = w.away then t else l1Acquire t (c.warpCore v)
/-- R230: the other half of a width-8 slot has a live lane. -/
def partnerLive (c : Crew) (w : Warp) : Bool :=
  c.kernel.shape.width == 8 && c.warps.any fun x => x.wid != w.wid && x.wid / 2 == w.wid / 2 && x.live != 0
/-- `mig`. It is divergent too when its guard is false in every lane (R120 step 1, log entry 131); a trap ends its wait for a landing
slot. -/
def execMig (f : Fields) (s : State) : Host.Outcome State Fault Refusal :=
  issueCtl (.mig f) s fun e s =>
    let s0 := s.modCrew e.c.id fun c => c.modWarp e.w.wid fun w => { w with migWait := none }
    let divergent : Res := .trap s0 (controlTrap 6 (BitVec.ofNat 64 e.w.entries.length) (if e.lanes.isEmpty then e.mask else e.execMask))
    match e.lanes with
    | [] => divergent
    | l :: _ =>
      if decide (1 < e.w.entries.length) || e.w.live != e.execMask || partnerLive e.c e.w then divergent
      else
        let va := srcBits e.w (e.th l.2) .b64 e.f.a
        if 2 ^ 56 ≤ va then .trap s0 (accessTrap 5 [(l.1, va)])
        else
          let r := tryAccess s e.c.id e.w.wid (e.c.warpCore e.w) e.c.ctx va .read
          match r.2 with
          | .wait => .stall r.1
          | .fault c => .trap (setStall s0 e.c.id e.w.wid none) (faultTrap c va (maskOf [l.1]))
          | .ok key _ =>
            if !settled e.c e.w then .wait
            else
              let at' := (e.w.migWait.map (·.1)).getD s.cycle
              match migPlace r.1 e.c e.w key at' with
              | some x => .go (migMove r.1 e.c e.w x)
              | none => .stall (r.1.modCrew e.c.id fun c => c.modWarp e.w.wid fun w =>
                  { w with migWait := some (at', homeSlice key / 16), stall := none })
/-- MIG_COMMIT: a waiting `mig` commits once its operands are settled and a landing slot is free (R120, R241). The `mig` stands
at the warp's entry; its address is read again. -/
def execMigCommit (crew wid : Nat) (s : State) : Host.Outcome State Fault Refusal :=
  match s.crew? crew with
  | none => .refused .notEnabled
  | some c =>
    match c.warp? wid with
    | none => .refused .notEnabled
    | some w =>
      match w.migWait, w.entries with
      | some wt, [e] =>
        let word := BitVec.ofNat 128 (c.kernel.code.nat (e.pc.toNat - c.kernel.codeVA) 16)
        match decode c.kernel.shape (e.pc.toNat % 32) word, w.lanesIn e.mask with
        | .ok (.mig f), l :: _ =>
          let r := xlate s (dieOf (c.warpCore w)) (some (c.warpCore w)) c.ctx (srcBits w (c.thread l.2) .b64 f.a % 2 ^ 56) .read
          match r.2 with
          | .ok key _ =>
            if !settled c w then .refused .notEnabled
            else match migPlace r.1 c w key wt.1 with
              | some x => .next (migMove r.1 c w x)
              | none => .refused .notEnabled
          | _ => .refused .notEnabled
        | _, _ => .refused .notEnabled
      | _, _ => .refused .notEnabled

end Sys2Proof.Machine
end

