-- ==== Sys2Proof/Machine/TileOps.lean ====
section
/-! DEFINITION. Tiles: their shapes and states (R185 to R190), `tld`, `tst` and `tzero` (R191 to R195). -/
namespace Sys2Proof.Machine

def modTile (s : State) (crew t : Nat) (g : Tile → Tile) : State :=
  s.modCrew crew fun c => { c with tiles := c.tiles.modify t g }
/-- R187: bits of a shape register. -/
def tileEW (cfg : Word) : Nat := if cfg.getLsbD 14 then 4 else 2
def tileSpan (cfg : Word) : Nat := let k := bitsOf cfg.toNat 17 15; if k = 0 then 0 else 16 * 2 ^ k
/-- R187: the tile byte of element c of row r. -/
def tileByte (cfg : Word) (r c : Nat) : Nat :=
  let o := c * tileEW cfg
  let spc := tileSpan cfg
  let ch := if spc = 0 then o / 16 else Nat.xor (o / 16) (r % (spc / 16))
  16 * tileRL cfg * r + 16 * ch + o % 16
/-- R188, R297: the tile-shape trap. -/
def shapeTrap (t code : Nat) (lanes : Mask) : Trap :=
  { cls := 6, cause := 9, tval := BitVec.ofNat 64 (t * 256 + code), lanes := lanes }
/-- R186: what `csrr` reads of a shape register. -/
def tcfgRead (t : Tile) : Word :=
  BitVec.ofNat 32 ((if t.writers.isEmpty then 0 else 2 ^ 31) + t.lends % 64 * 2 ^ 25 + t.cfg.toNat % 2 ^ 19 / 32 * 32)
/-- R188: the field code of a shape that traps. -/
def tcfgFault (x : Word) : Option Nat :=
  let spc := tileSpan x
  if 25 ≤ tileRL x then some 1
  else if 5 ≤ bitsOf x.toNat 17 15 then some 2
  else if spc ≠ 0 ∧ 16 * tileRL x % spc ≠ 0 then some 3
  else none
/-- R186: the bits of a shape register that a write replaces. -/
def tcfgKeep (x : Word) : Word := x &&& 0x0007FFE0
/-- R189: EMPTY = 0 and LENDS = 0. -/
def Tile.idle (t : Tile) : Bool := t.writers.isEmpty && t.lends == 0
/-- The bytes of a tile written, which becomes dirty (R323). -/
def tileWrite (s : State) (crew t : Nat) (xs : List (Nat × List Byte)) : State :=
  match s.crew? crew with
  | none => s
  | some c =>
    markAll (s.setCrew { c with tiles := c.tiles.modify t fun y => { y with data := xs.foldl (fun m x => m.store x.1 x.2) y.data } }) c.ctx
      [CkUnit.tile c.pos t]

/-! ### Issue: R190 to R194 -/

/-- R191: misaligned, or a row that fails its space's check. -/
def rowsCheck (c : Crew) (x : Ctx) (spc : TSpace) (lane : Nat) (rows : List (Nat × Nat)) : Check :=
  let a0 := (rows.head?.map (·.1)).getD 0
  if a0 % 16 ≠ 0 then .trap (accessTrap 1 [(lane, a0)])
  else match rows.findSome? fun r => (spanCheck c x (spaceOfTile spc) r.1 r.2).map fun k => (k, r.1) with
    | some y => .trap (accessTrap y.1 [(lane, y.2)])
    | none => .pass
/-- R189: a transfer issued by the leader, with its tile marked. -/
def issueTransfer (e : Env) (s : State) (lane tid t base : Nat) (cfg : Word) (writer : Bool) : State :=
  let x : Transfer := ⟨s.uid, e.instr, e.pc, e.w.wid, lane, tid, t, BitVec.ofNat 64 base, cfg, none, false⟩
  modTile ({ s with uid := s.uid + 1 }.modCrew e.c.id fun c => { c with transfers := c.transfers ++ [x] }) e.c.id t fun y =>
    if writer then { y with writers := y.writers ++ [s.uid] } else { y with lends := y.lends + 1 }
/-- The checks and waits of a tile transfer by the leader, before it marks its tile. -/
def transferBody (spc : TSpace) (stride : BitVec 16) (disp : BitVec 32) (t : Nat) (o : Opd) (load : Bool) (e : Env) (s : State)
    (l : Nat × Nat) : Res :=
  let tile := e.c.tile t
  let base := tileBase e (e.th l.2) o disp
  let rows := tileSpans base stride.toNat tile.cfg
  let hit (x : LogEntry) : Bool := rows.any fun r => logMeets x (spaceOfTile spc) l.2 r.1 r.2
  let tr (x : Transfer) : Bool := rows.any fun r => transferMeets x (spaceOfTile spc) (!load) l.2 r.1 r.2
  if tileRL tile.cfg = 0 then .trap s (shapeTrap t 4 (maskOf [l.1]))
  else
    match firstCheck [rowsCheck e.c (s.ctx e.c.ctx) spc l.1 rows, holdCheck s e hit tr] with
    | .trap x => .trap s x
    | .wait => .wait
    | .pass =>
      if (load && !tile.idle) || (!load && decide (63 ≤ tile.lends)) then .wait
      else .go (issueTransfer e (clearFences s e) l.1 l.2 t base tile.cfg load)
/-- `tld`. -/
def execTld (space : TSpace) (stride : BitVec 16) (disp : BitVec 32) (f : Fields) (s : State) : Host.Outcome State Fault Refusal :=
  issue (.tld space stride disp f) s fun e s =>
    match e.lanes, e.f.d with
    | l :: _, .t n => transferBody space stride disp n.toNat e.f.a true e s l
    | _, _ => .go s
/-- `tst`: the tile is full, or its E bit says what an empty one does (R61). -/
def execTst (space : TSpace) (stride : BitVec 16) (disp : BitVec 32) (f : Fields) (s : State) : Host.Outcome State Fault Refusal :=
  issue (.tst space stride disp f) s fun e s =>
    match e.lanes, e.f.a with
    | l :: _, .t n =>
      if !(e.c.tile n.toNat).writers.isEmpty then
        (if e.f.e.getLsbD 0 then .trap s { cls := 2, cause := 1, tval := e.f.a.code.setWidth 64, lanes := maskOf [l.1] } else .wait)
      else transferBody space stride disp n.toNat e.f.b false e s l
    | _, _ => .go s
/-- `tzero`. -/
def execTzero (f : Fields) (s : State) : Host.Outcome State Fault Refusal :=
  issue (.tzero f) s fun e s =>
    match e.lanes, e.f.d with
    | l :: _, .t n =>
      let tile := e.c.tile n.toNat
      if tileRL tile.cfg = 0 then .trap s (shapeTrap n.toNat 4 (maskOf [l.1]))
      else if !tile.idle then .wait
      else .go (tileWrite s e.c.id n.toNat [(0, List.replicate (16 * tileRL tile.cfg * tileRows tile.cfg) 0)])
    | _, _ => .go s

/-! ### The transfer itself: R192, R193 -/

/-- The 16-byte pieces of a transfer: memory address and tile byte. -/
def transferPieces (x : Transfer) : List (Nat × Nat) :=
  let st := match x.instr with | .tld _ st _ _ => st.toNat | .tst _ st _ _ => st.toNat | _ => 0
  ((tileSpans x.base.toNat st x.cfg).zipIdx).flatMap fun r =>
    (List.range (r.1.2 / 16)).map fun i => (r.1.1 + 16 * i, 16 * tileRL x.cfg * r.2 + 16 * i)
def transferSpace (x : Transfer) : TSpace := match x.instr with | .tld spc _ _ _ => spc | .tst spc _ _ _ => spc | _ => .sp
/-- The keys of a transfer's pieces, or what the first bad one meets: a page, an ATS request, or a cause. -/
def transferKeys (s : State) (c : Crew) (x : Transfer) (kind : Access) : State × Except (Nat × Xl) (List (Nat × Nat × Nat)) :=
  (transferPieces x).foldl (fun r p =>
    match r.2 with
    | .error z => (r.1, .error z)
    | .ok l =>
      match transferSpace x with
      | .sp => (r.1, .ok (l ++ [(p.1, 0, p.2)]))
      | .vt =>
        let k := vaultOf (s.ctx c.ctx) p.1
        (r.1, if s.busError k then .error (p.1, .fault 7) else .ok (l ++ [(k, 0, p.2)]))
      | .gl =>
        let t := xlate r.1 (dieOf c.core) (some c.core) c.ctx (p.1 % 2 ^ 56) kind
        match t.2 with
        | .ok k vp => (t.1, .ok (l ++ [(k, vp, p.2)]))
        | y => (t.1, .error (p.1, y))) (s, .ok [])
def modTransfer (s : State) (crew id : Nat) (g : Transfer → Transfer) : State :=
  s.modCrew crew fun c => { c with transfers := c.transfers.map fun x => if x.id = id then g x else x }
/-- R117: an access of a thread that has ended turned unrecoverable: no later instruction of the thread can raise the trap, so
it is raised at once (log entry 23). -/
def raiseEnded (s : State) (crew wid tid : Nat) (t : Warp → Trap) (t0 : Trap) (pc : BitVec 56) : State :=
  match s.crew? crew with
  | none => s
  | some c =>
    if !(c.thread tid).exited then s
    else
      match (c.warp? wid).bind fun w => w.entries.head?.map fun e => (w, e) with
      | some x => takeTrap s crew wid x.2.eid x.2.pc 0 (t x.1)
      | none => warplessTrap s c wid (trapRec s t0 pc 0)
/-- R300: nobody can hold the trap of an access now: its thread and its warp are gone and the crew is being stopped. -/
def trapHomeless (s : State) (c : Crew) (wid tid : Nat) : Bool :=
  (c.thread tid).exited && !(s.ctx c.ctx).trapStop && (s.ctx c.ctx).holds c.pos
    && (match c.warp? wid with | some w => w.entries.isEmpty | none => true)
/-- R162: a transfer turns unrecoverable; one whose trap nobody can hold walks again after the stop. -/
def killTransfer (s : State) (crew id : Nat) (w : Stall) : State :=
  match (s.crew? crew).bind fun c => (c.transfers.find? fun x => x.id == id).map fun x => (c, x) with
  | none => s
  | some (c, x) =>
    if trapHomeless s c x.wid x.tid then modTransfer s crew id fun x => { x with wait := some { w with waiting := false } }
    else
      let y := { x with wait := some w, dead := true }
      let t0 : Trap := { cls := 7, cause := w.cause, tval := BitVec.ofNat 64 w.va, lanes := maskOf [x.lane], tinst := some x.pc }
      raiseEnded (modTransfer s crew id fun _ => y) crew x.wid x.tid (fun v => y.trapOf v) t0 x.pc
/-- R162, R278: a transfer put aside. -/
def transferDefer (s : State) (c : Crew) (x : Transfer) (kind : Access) (va : Nat) (r : Xl) : Option State :=
  let tries := (x.wait.map (·.tries)).getD 0
  let die (s : State) (cause : Nat) : State := killTransfer s c.id x.id ⟨va, kind, tries, cause, false⟩
  match r with
  | .ok _ _ => none
  | .ats p => some (modTransfer (atsAsk s c.ctx p) c.id x.id fun x => { x with wait := some ⟨va, kind, tries, 0, true⟩ })
  | .fault q =>
    if !recoverable q then some (die s q)
    else if 3 ≤ tries then some (die s 6)
    else
      let m := mergeJoin s (dieOf c.core) c.ctx (va % 2 ^ 56 / 2 ^ 15) kind (.tile c.id x.id)
      if m.2 then some (modTransfer m.1 c.id x.id fun x => { x with wait := some ⟨va, kind, tries + 1, q, true⟩ }) else none
/-- A finished transfer goes, and with it its mark on the tile. -/
def transferEnd (s : State) (c : Crew) (x : Transfer) (writer : Bool) : State :=
  modTile (s.modCrew c.id fun c => { c with transfers := c.transfers.filter fun y => y.id != x.id }) c.id x.tile fun t =>
    if writer then { t with writers := t.writers.filter (· != x.id) } else { t with lends := t.lends - 1 }
/-- R192: a `tld` performed in full, or put aside. -/
def loadTile (s : State) (c : Crew) (x : Transfer) : Option State :=
  if ((c.tile x.tile).writers.head? != some x.id) then none
  else
    let k := transferKeys s c x .read
    match k.2 with
    | .error z => transferDefer s c x .read z.1 z.2
    | .ok l =>
      let r := l.foldl (fun (r : State × List (Nat × List Byte) × Option Nat) p =>
        match r.2.2 with
        | some _ => r
        | none =>
          match transferSpace x with
          | .sp => (r.1, r.2.1 ++ [(p.2.2, c.scratch.bytes p.1 16)], none)
          | _ =>
            let y := loadBytes r.1 c.core true p.1 16
            match y.2 with
            | some bs => (y.1, r.2.1 ++ [(p.2.2, bs)], none)
            | none => (y.1, r.2.1, some p.2.2)) (k.1, [], none)
      match r.2.2 with
      | some off => transferDefer s c x .read (((transferPieces x).find? fun p => p.2 == off).map (·.1) |>.getD 0) (.fault 7)
      | none => some (transferEnd (tileWrite r.1 c.id x.tile r.2.1) c x true)
/-- R193: a `tst` reads its tile and writes it in full, or is put aside. It registers no word (R249); its own core's valid words take
the bytes, for R253 (log entry 130). -/
def storeTile (s : State) (c : Crew) (x : Transfer) : Option State :=
  let k := transferKeys s c x .write
  match k.2 with
  | .error z => transferDefer s c x .write z.1 z.2
  | .ok l =>
    match transferSpace x with
    | .sp => some (transferEnd (l.foldl (fun s p => scratchWrite s c.id p.1 ((c.tile x.tile).data.bytes p.2.2 16)) k.1) c x false)
    | spc =>
      let s1 := k.1.clearPoison (coveredGranules (l.map fun p => (p.1, 16)))
      match l.find? fun p => s1.poisoned p.1 16 with
      | some p => transferDefer s c x .write (((transferPieces x).find? fun y => y.2 == p.2.2).map (·.1) |>.getD 0) (.fault 7)
      | none =>
        if s1.writesBlocked (l.map (·.1)) then none
        else some (transferEnd (l.foldl (fun s p =>
          let bs := (c.tile x.tile).data.bytes p.2.2 16
          l1Update (physWrite s (some c.ctx) (if spc = .vt then none else some p.2.1) none p.1 bs) c.core p.1 16 false) s1) c x false)
/-- One transfer of a crew moved on, when it may. -/
def transferStep (s : State) (crew id : Nat) (load : Bool) : Option State :=
  match s.crew? crew with
  | none => none
  | some c =>
    match c.transfers.find? fun x => x.id == id with
    | none => none
    | some x =>
      if !Crew.runs s c || x.dead || (x.wait.map (·.waiting)).getD false then none
      else
        match x.instr with
        | .tld _ _ _ _ => if load then loadTile s c x else none
        | .tst _ _ _ _ => if load then none else storeTile s c x
        | _ => none
/-- TILE_LOAD_COMPLETE: R192. -/
def execTileLoadComplete (crew id : Nat) (s : State) : Host.Outcome State Fault Refusal :=
  match transferStep s crew id true with | some s => .next s | none => .refused .notEnabled
/-- TILE_STORE_READ_DONE: R193. -/
def execTileStoreReadDone (crew id : Nat) (s : State) : Host.Outcome State Fault Refusal :=
  match transferStep s crew id false with | some s => .next s | none => .refused .notEnabled

end Sys2Proof.Machine
end

