-- ==== Sys2Proof/Machine/System.lean ====
section
/-! DEFINITION. Control registers (R204 to R206), time (R207), traps, halts and the handler's instructions (R209 to R214). -/
namespace Sys2Proof.Machine

/-! ### Control registers: R204 to R206 -/

/-- R223: the logical identifiers of a crew. -/
def Crew.crewid (c : Crew) : Nat := c.pos % c.kernel.shape.qgroup
def Crew.quadid (c : Crew) : Nat := c.pos / c.kernel.shape.qgroup % c.kernel.shape.dgroup
def Crew.dieid (c : Crew) : Nat := c.pos / (c.kernel.shape.qgroup * c.kernel.shape.dgroup)
/-- R205: the value of a control register for a thread of a warp. -/
def csrValue (s : State) (c : Crew) (w : Warp) (th : Thread) (tid num : Nat) : Nat :=
  let r : Option TrapRec := w.handler.map (·.record)
  let h (g : TrapRec → Nat) : Nat := (r.map g).getD 0
  match num with
  | 0x000 => tid
  | 0x001 => c.crewid
  | 0x002 => c.quadid
  | 0x003 => c.dieid
  | 0x004 => s.domain
  | 0x010 => th.fpctl.toNat
  | 0x011 => th.fpflags.toNat
  | 0x018 => th.rsdepth
  | 0x019 => th.rsbase.toNat
  | 0x020 => c.kernel.dataVA.toNat
  | 0x030 => s.timebase.toNat
  | 0x031 => (s.ctx c.ctx).stepcount.toNat
  | 0x040 => h fun r => r.tcause.toNat
  | 0x041 => h fun r => r.tpc.toNat
  | 0x042 => h fun r => r.tval.toNat
  | 0x043 => h fun r => (r.tmask.setWidth 64).toNat
  | 0x044 => h fun r => ((r.tmask >>> 64).setWidth 64).toNat
  | n => (tcfgRead (c.tile (n - 0x100))).toNat
/-- R204: the type in which a control register is read and written. -/
def csrTy (num : Nat) : Ty := if csrRegs num = 2 then .n64 else .n32
/-- `csrr`. -/
def execCsrr (num : BitVec 12) (f : Fields) (s : State) : Host.Outcome State Fault Refusal :=
  issue (.csrr num f) s fun e s =>
    .go (writeD e s (csrTy num.toNat) (e.lanes.map fun l => (l.2, csrValue s e.c e.w (e.th l.2) l.2 num.toNat)))
/-- R35, R36, R113: the bits that a write of a thread's control register takes. -/
def csrThreadWrite (num : Nat) (x : Nat) (t : Thread) : Thread :=
  match num with
  | 0x010 => { t with fpctl := BitVec.ofNat 32 x &&& 0x1F03 }
  | 0x011 => { t with fpflags := BitVec.ofNat 32 x &&& 0x1F }
  | _ => { t with rsbase := BitVec.ofNat 64 x &&& 0x00FFFFFFFFFFFFF8 }
/-- R206: a link consumer of the thread is in flight. -/
def Thread.consuming (t : Thread) : Bool := t.chain.any fun r => !r.producer
/-- R186, R188: the leader's write of a shape register. -/
def writeShape (e : Env) (s : State) (t x lane : Nat) : Res :=
  let v := tcfgKeep (BitVec.ofNat 32 x)
  match tcfgFault v with
  | some code => .trap s (shapeTrap t code (maskOf [lane]))
  | none => if (e.c.tile t).idle then .go (modTile s e.c.id t fun y => { y with cfg := v }) else .wait
/-- `csrw`. -/
def execCsrw (num : BitVec 12) (f : Fields) (s : State) : Host.Outcome State Fault Refusal :=
  issue (.csrw num f) s fun e s =>
    let val (l : Nat × Nat) : Nat := srcBits e.w (e.th l.2) (csrTy num.toNat) e.f.a
    match e.lanes with
    | [] => .go s
    | l :: _ =>
      if 0x100 ≤ num.toNat then writeShape e s (num.toNat - 0x100) (val l) l.1
      else if num.toNat = 0x041 then
        .go (s.modCrew e.c.id fun c => c.modWarp e.w.wid fun w =>
          { w with handler := w.handler.map fun h => { h with record := { h.record with tpc := BitVec.ofNat 64 (val l) } } })
      else if num.toNat ≠ 0x019 && e.lanes.any fun l => (e.th l.2).consuming then .wait
      else .go (s.modCrew e.c.id fun c => e.lanes.foldl (fun c l => c.modThread l.2 (csrThreadWrite num.toNat (val l))) c)

/-! ### Time: R207 -/

/-- `time`. -/
def execTime (f : Fields) (s : State) : Host.Outcome State Fault Refusal :=
  issue (.time f) s fun e s => .go (writeD e s .n64 (e.lanes.map fun l => (l.2, s.timebase.toNat)))
/-- R207: an earlier instruction of an executing thread has not completed. -/
def unfinished (s : State) (e : Env) : Bool :=
  e.lanes.any fun l => !(e.th l.2).chain.isEmpty || s.rets.any fun r => r.crew == e.c.id && r.tid == l.2
/-- `time.ord`. -/
def execTimeOrd (f : Fields) (s : State) : Host.Outcome State Fault Refusal :=
  issue (.timeOrd f) s fun e s =>
    match releaseCheck s e with
    | .trap t => .trap s t
    | .wait => .wait
    | .pass =>
      if unfinished s e then .wait
      else .go (writeD e (clearFences s e) .n64 (e.lanes.map fun l => (l.2, s.timebase.toNat)))

/-! ### Traps, assertions and halts: R209 to R211 -/

/-- `trap`. -/
def execTrap (code : BitVec 16) (f : Fields) (s : State) : Host.Outcome State Fault Refusal :=
  issue (.trap code f) s fun e s =>
    if e.lanes.isEmpty then .go s
    else .trap s { cls := 10, cause := 0, tval := code.setWidth 64, lanes := e.execMask, after := true }
/-- `assert`. -/
def execAssert (msg : Word) (f : Fields) (s : State) : Host.Outcome State Fault Refusal :=
  issue (.assert msg f) s fun e s =>
    let bad := e.lanes.filter fun l => !predOf (e.th l.2) e.f.a
    if bad.isEmpty then .go s
    else .trap s { cls := 11, cause := 0, tval := e.c.kernel.dataVA + msg.setWidth 64, lanes := maskOf (bad.map (·.1)),
                      note := .values bad }
/-- R303, R300: a debugger halt of a context begins. -/
def haltCtx (s : State) (ctx : Nat) : State :=
  (s.modCtx ctx fun x => { x with stop := some ⟨5, 4, 0⟩, halting := true }).setHostF (ctxOff ctx + 0x18) 6 5 1
/-- `brk`: the halt reports its address (log entry 70). -/
def execBrk (code : BitVec 16) (f : Fields) (s : State) : Host.Outcome State Fault Refusal :=
  issue (.brk code f) s fun e s =>
    if e.lanes.isEmpty || !s.haltEn e.c.ctx then .go s
    else .go ((haltCtx s e.c.ctx).modCtx e.c.ctx fun x => { x with brkAt := some (e.c.pos, e.w.wid, e.pc.setWidth 64) })
/-- ILLEGAL_INSTRUCTION: the word at the current entry is illegal (R68, R297): the first of all causes (R299). -/
def execIllegalInstruction (cause : BitVec 8) (tval : Quad) (s : State) : Host.Outcome State Fault Refusal :=
  match envOf (.illegalInstruction cause tval) s with
  | none => .refused .noWarp
  | some e => finish e s e.noted (.trap s { cls := 1, cause := cause.toNat, tval := tval, lanes := e.mask })

/-! ### The handler's instructions: R213, R214 -/

/-- `rte`; outside a handler it comes here only with no executing lane, and then retires (R60). -/
def execRte (f : Fields) (s : State) : Host.Outcome State Fault Refusal :=
  issueCtl (.rte f) s fun e s =>
    if !e.hmode then .go (e.moveOn s)
    else .go (s.modCrew e.c.id fun c => c.modWarp e.w.wid fun w => match w.handler with
      | some h => returnFromTrap c.kernel w h
      | none => w)
/-- R214: the thread of the lane that source B names; none at or above the declared width. A lane that exited keeps its
thread (R229). -/
def laneThread (e : Env) : Option Nat :=
  let n := match e.f.b with | .k n => n.toNat | .s n => (e.w.s.getD n.toNat 0).toNat | _ => 0
  if e.sh.width ≤ n then none else some (((e.w.lanes.getD n none)).getD (e.w.wid * e.sh.width + n))
/-- R47, R214: the snapshot of a link in the format of KIND; of a link in flight in the other format no rule states it, so it
is free (log entry 14). -/
def linkQuads (s : State) (l : LinkReg) (wide : Bool) : State × List Quad :=
  let n := if wide then 4 else 2
  if l.wide = wide ∨ l.st = .consumed then
    let y : LinkReg := { l with wide := wide }
    let x := y.snapshot
    (s, (List.range n).map fun i => BitVec.ofNat 64 (x / 2 ^ (64 * i)))
  else ({ s with drawn := s.drawn + n }, (List.range n).map fun i => Config.freeQuad (s.drawn + i))
/-- `lrd`; outside a handler it comes here only with no executing lane, and then retires (R60). -/
def execLrd (kind : BitVec 3) (f : Fields) (s : State) : Host.Outcome State Fault Refusal :=
  issue (.lrd kind f) s fun e s =>
    if !e.hmode then .go s else
    match laneThread e with
    | none => .trap s (handlerTrap e)
    | some tid =>
      let th := e.th tid
      let r : State × List Quad := match e.f.a with
        | .v n => if kind = 1 then (s, [th.pair n.toNat])
            else (s, [(th.reg n.toNat).setWidth 64 ||| (if th.isFull n.toNat 1 then 0 else 0x100000000)])
        | .l n => linkQuads s (th.link n.toNat) (kind == 3)
        | .p n => (s, [if th.pred n.toNat then 1 else 0])
        | _ => (s, [])
      match e.f.d with
      | .s d => .go ((r.2.zipIdx).foldl (fun s x => writeS s e.c.id e.w.wid (d.toNat + x.2) x.1) r.1)
      | _ => .go r.1
/-- R214: a fabric request that nobody waits for any more. -/
def FabOut.cancelled (x : FabOut) : FabOut := { x with instr := .nopN Fields.blank }
/-- R214: the producers in flight of registers of a thread are cancelled. -/
def cancelProducers (s : State) (crew tid : Nat) (regs : List Nat) : State :=
  match s.crew? crew with
  | none => s
  | some c =>
    let hits (d : Option (Nat × Nat)) : Bool := match d with | some d => regs.any fun r => decide (d.1 ≤ r) && decide (r < d.1 + d.2) | none => false
    let cut (x : LogEntry) : LogEntry := if hits (x.dest c.kernel.shape) then { x with lanes := x.lanes.filter fun l => l.tid != tid } else x
    let c : Crew := { c with log := (c.log.map cut).filter fun x => !x.lanes.isEmpty }
    let writer (t : Thread) (r : ChainRec) : Bool := !r.producer && r.op != 0x58 && regs.any fun n => Thread.regBusy { t with chain := [r] } n 1
    let c := c.modThread tid fun t => (t.chain.filter (writer t)).foldl Thread.finishRec t
    { s.setCrew c with
      rets := s.rets.filter fun r => !(r.crew == crew && r.tid == tid && r.writes.any fun w => regs.contains w.1)
      fabOut := s.fabOut.map fun x =>
        if x.crew == crew && x.tid == tid && hits (LogEntry.dest c.kernel.shape ⟨0, 0, x.instr, 0, []⟩) then x.cancelled else x }
/-- R214: a link replaced, its producer cancelled (R144); a consumer that can then complete does (R143). -/
def writeLink (s : State) (crew tid n : Nat) (l : LinkReg) : State :=
  settleThread (s.modCrew crew fun c => c.modThread tid fun t => (consumeLinks 16 [n] t).setLink n l) crew tid
/-- `lwr`; as `lrd` outside a handler. -/
def execLwr (kind : BitVec 3) (f : Fields) (s : State) : Host.Outcome State Fault Refusal :=
  issue (.lwr kind f) s fun e s =>
    if !e.hmode then .go s else
    match laneThread e with
    | none => .trap s (handlerTrap e)
    | some tid =>
      let sq (i : Nat) : Nat := match e.f.a with | .s n => (e.w.s.getD (n.toNat + i) 0).toNat | _ => 0
      match e.f.d with
      | .v n =>
        let k := if kind = 1 then 2 else 1
        let ws := (List.range k).map fun i => (n.toNat + i, BitVec.ofNat 32 (sq 0 / 2 ^ (32 * i)))
        .go (writeRegs (cancelProducers s e.c.id tid (ws.map (·.1))) e.c.id [(tid, ws)])
      | .l n =>
        let x := (List.range (if kind = 3 then 4 else 2)).foldl (fun x i => x + sq i * 2 ^ (64 * i)) 0
        match LinkReg.ofSnapshot (kind == 3) x with
        | some l =>
          if l.legal && (l.st == .full || l.st == .consumed) then .go (writeLink s e.c.id tid n.toNat l)
          else .trap s { cls := 5, cause := 4, tval := n.setWidth 64, lanes := e.execMask }
        | none => .trap s { cls := 5, cause := 4, tval := n.setWidth 64, lanes := e.execMask }
      | .p n => .go (s.modCrew e.c.id fun c => c.modThread tid fun t => t.setPred n.toNat (sq 0 % 2 == 1))
      | _ => .go s

end Sys2Proof.Machine
end

