-- ==== Sys2Proof/Machine/Deprecated.lean ====
section
/-! DEFINITION. The deprecated microcoded instructions: R93, R94, R215 to R217. -/
namespace Sys2Proof.Machine

/-- R93: step 0: the warp's record, and what it captures in each thread. -/
def startMicro (e : Env) (s : State) (vals : List Word) (cap : Nat → List Byte) : State :=
  s.modCrew e.c.id fun c => e.lanes.foldl (fun c l => c.modThread l.2 fun t => { t with capture := padTo 32 (cap l.2) })
    (c.modWarp e.w.wid fun w => { w with micro := some ⟨e.instr, e.eid, e.execMask, e.mask, 1, vals⟩ })
/-- `vgat`: step 0. -/
def execVgat (f : Fields) (s : State) : Host.Outcome State Fault Refusal :=
  issueCtl (.vgat f) s fun e s =>
    if e.lanes.isEmpty then .go (e.moveOn s)
    else .go (startMicro e s [] fun tid =>
      leBytes 8 (srcBits e.w (e.th tid) .b64 e.f.a) ++ (match e.f.b with
        | .v n => (List.range 4).flatMap fun i => leBytes 4 ((e.th tid).reg (n.toNat + i)).toNat
        | _ => []))
/-- `dmov`: step 0. -/
def execDmov (f : Fields) (s : State) : Host.Outcome State Fault Refusal :=
  issueCtl (.dmov f) s fun e s =>
    if e.lanes.isEmpty then .go (e.moveOn s)
    else .go (startMicro e s [] fun tid => leBytes 8 (srcBits e.w (e.th tid) .b64 e.f.a) ++ leBytes 8 (srcBits e.w (e.th tid) .b64 e.f.b))
/-- `lcpy`: step 0. -/
def execLcpy (n : BitVec 5) (f : Fields) (s : State) : Host.Outcome State Fault Refusal :=
  issueCtl (.lcpy n f) s fun e s =>
    if e.lanes.isEmpty then .go (e.moveOn s)
    else
      let src := match e.f.b with | .k k => k.toNat | .s k => (e.w.s.getD k.toNat 0).toNat | _ => 0
      let vals := match e.lanes.find? fun l => l.1 == src, e.f.a with
        | some l, .v a => (List.range n.toNat).map fun i => (e.th l.2).reg (a.toNat + i)
        | _, _ => List.replicate n.toNat 0
      .go (startMicro e s vals fun _ => [])
/-- R93: the retire step of each. -/
def retireStep : Instr → Nat | .vgat _ => 5 | .dmov _ => 9 | _ => 17
/-- The issue that a micro-operation record goes on with. -/
def microEnv (c : Crew) (w : Warp) (m : Micro) : Option Env :=
  (w.entries.find? fun e => e.eid == m.eid).map fun e =>
    { c := c, w := w, eid := m.eid, mask := m.all, pc := e.pc, len := 16, instr := m.instr
      f := (m.instr.fields?).getD Fields.blank, lanes := w.lanesIn m.mask }
/-- Lanes whose address is not a multiple of n, or lies beyond 56 bits. -/
def stepCheck (n : Nat) (ls : List (Nat × Nat × Nat)) : Check :=
  let mis := ls.filter fun l => l.2.2 % n != 0
  let far := ls.filter fun l => decide (2 ^ 56 ≤ l.2.2)
  if !mis.isEmpty then .trap (accessTrap 1 (mis.map fun l => (l.1, l.2.2)))
  else if !far.isEmpty then .trap (accessTrap 5 (far.map fun l => (l.1, l.2.2))) else .pass
/-- R215: step m of `vgat`. -/
def vgatStep (e : Env) (m : Nat) (s : State) : Res :=
  let ls := e.lanes.map fun l =>
    (l.1, l.2, (sliceNat (e.th l.2).capture 0 8 + sliceNat (e.th l.2).capture (8 + 4 * (m - 1)) 4) % 2 ^ 64)
  match stepCheck 4 ls with
  | .trap t => .trap s t
  | .wait => .wait
  | .pass => spillAll e s .read 4 ls fun s keys =>
      .go (keys.foldl (fun s x =>
        let r := accessKey s e.c.ctx (e.c.warpCore e.w) ⟨.global, .read, .n32, 1, .plain, .add⟩ x.2.1 x.2.2 []
        match e.f.d with
        | .v d => writeRegs r.1 e.c.id [(x.1, [(d.toNat + (m - 1), BitVec.ofNat 32 ((r.2.getD []).headD 0))])]
        | _ => r.1) (clearFences s e))
/-- R216: step m of `dmov`. -/
def dmovStep (e : Env) (m : Nat) (s : State) : Res :=
  let at' (l : Nat × Nat) (o : Nat) : Nat × Nat × Nat := (l.1, l.2, (sliceNat (e.th l.2).capture o 8 + 32 * (m - 1)) % 2 ^ 64)
  let dst := e.lanes.map fun l => at' l 0
  let src := e.lanes.map fun l => at' l 8
  let op (k : Access) : MemOp := ⟨.global, k, .b64, 4, .plain, .add⟩
  match firstCheck [stepCheck 32 dst, stepCheck 32 src] with
  | .trap t => .trap s t
  | .wait => .wait
  | .pass => spillAll e s .read 32 src fun s ks => spillAll e s .write 32 dst fun s kd =>
      .go ((ks.zip kd).foldl (fun s x =>
        let r := accessKey s e.c.ctx (e.c.warpCore e.w) (op .read) x.1.2.1 x.1.2.2 []
        (accessKey r.1 e.c.ctx (e.c.warpCore e.w) (op .write) x.2.2.1 x.2.2.2 (r.2.getD [])).1) (clearFences s e))
/-- R217: step m of `lcpy`; steps above n do nothing. -/
def lcpyStep (e : Env) (vals : List Word) (m : Nat) (s : State) : Res :=
  match vals[m - 1]?, e.f.d with
  | some x, .v d => .go (writeRegs s e.c.id (e.lanes.map fun l => (l.2, [(d.toNat + (m - 1), x)])))
  | _, _ => .go s
/-- The retire step: the lanes that stood at the instruction go on. -/
def retireMicro (e : Env) (s : State) : Res :=
  let s := s.modCrew e.c.id fun c => c.modWarp e.w.wid fun w => { w with micro := none }
  match s.crew? e.c.id with
  | none => .go s
  | some c =>
    match c.warp? e.w.wid with
    | none => .go s
    | some w =>
      let stay := ((w.entries.find? fun x => x.eid == e.eid).map (·.mask)).getD 0 &&& ~~~e.mask
      let gs := addGroup e.pc stay [(e.pc + 16, e.mask)]
      match placeGroups s.cycle s.uid 0 c w e.eid gs with
      | some (c, w) => .go { s.setCrew (c.setWarp w) with uid := s.uid + 2 }
      | none => .trap s (overflowTrap e w gs)
/-- MICRO_STEP: the next micro-step of a warp's deprecated instruction (R93, R94). -/
def execMicroStep (crew wid : Nat) (s : State) : Host.Outcome State Fault Refusal :=
  match s.crew? crew with
  | none => .refused .notEnabled
  | some c =>
    match c.warp? wid with
    | none => .refused .notEnabled
    | some w =>
      match w.micro with
      | none => .refused .notEnabled
      | some m =>
        match microEnv c w m with
        | none => .refused .notEnabled
        | some e =>
          if !Crew.runs s c || w.handler.isSome || w.trap.isSome then .refused .notEnabled
          else
            let r := if retireStep m.instr ≤ m.mstep then retireMicro e s
              else match m.instr with
                | .vgat _ => vgatStep e m.mstep s
                | .dmov _ => dmovStep e m.mstep s
                | _ => lcpyStep e m.vals m.mstep s
            let bump (s : State) : State := s.modCrew crew fun c => c.modWarp wid fun w =>
              { w with micro := w.micro.map fun y => { y with mstep := y.mstep + 1 } }
            match r with
            | .wait => .refused .notEnabled
            | .stall t => .next t
            | .go t => .next (bump t)
            | .trap t x => .next (takeTrap t crew wid e.eid e.pc e.len { x with mstep := m.mstep })
            | .refuse x => .refused x

end Sys2Proof.Machine
end

