-- ==== Sys2Proof/Machine/Copy.lean ====
section
/-! DEFINITION. Asynchronous copies: descriptors (R174 to R177, R180), the engine (R178, R181), their state (R182). -/
namespace Sys2Proof.Machine

/-! ### Descriptors: R175 -/

/-- The fields of a copy descriptor. -/
structure CopyDesc where
  src : Nat
  dst : Nat
  swa : Nat
  rows : Nat
  elems : Nat
  sfmt : Nat
  dfmt : Nat
  ssp : Nat
  dsp : Nat
  swz : Nat
  mcast : Nat
  sstride : Int
  dstride : Int
  deriving DecidableEq, Repr
def copyDesc (b : List Byte) : CopyDesc :=
  let n (a k : Nat) : Nat := sliceNat b a k
  ⟨n 0 8, n 8 8, n 16 8, n 0x18 2, n 0x1A 2, n 0x1C 1 % 16, n 0x1C 1 / 16, n 0x1D 1 % 16, n 0x1D 1 / 16, n 0x1E 1, n 0x1F 1,
    sInt 64 (n 0x20 8), sInt 64 (n 0x28 8)⟩
/-- R175: bytes of four elements, by format code. -/
def fmtQuarter (f : Nat) : Nat := [4, 4, 3, 8, 16, 8, 16].getD f 0
def rowBytes (elems f : Nat) : Nat := elems * fmtQuarter f / 4
def CopyDesc.dlen (d : CopyDesc) : Nat := rowBytes d.elems d.dfmt
def CopyDesc.slen (d : CopyDesc) : Nat := rowBytes d.elems d.sfmt
/-- R177: the span, 0 for none. -/
def CopyDesc.span (d : CopyDesc) : Nat := if d.swz % 8 = 0 then 0 else 16 * 2 ^ (d.swz % 8)
/-- R178: granules of a row and of the copy. -/
def CopyDesc.perRow (d : CopyDesc) : Nat := d.dlen / 32
def CopyDesc.total (d : CopyDesc) : Nat := d.rows * d.perRow
/-- The addresses of row r. -/
def CopyDesc.srcRow (d : CopyDesc) (r : Nat) : Nat := wrapN 64 ((d.src : Int) + d.sstride * (r : Int))
def CopyDesc.dstRow (d : CopyDesc) (r : Nat) : Nat := wrapN 64 ((d.dst : Int) + d.dstride * (r : Int))
/-- R176: the listed conversions and their spaces. -/
def pairListed (d : CopyDesc) : Bool :=
  if d.sfmt == 0 || d.dfmt == 0 then d.sfmt == 0 && d.dfmt == 0
  else if d.dfmt == 5 || d.dfmt == 6 then decide (d.sfmt ≤ 4) && d.dsp != 0
  else if d.sfmt == 5 || d.sfmt == 6 then decide (d.dfmt ≤ 4) && d.ssp != 0
  else false
/-- R175 to R180: the field at fault, by its offset in the descriptor. -/
def descFault (qgroup : Nat) (b : List Byte) : Option Nat :=
  let d := copyDesc b
  let six := d.sfmt == 2 || d.dfmt == 2
  let sp := d.span
  ([(d.rows == 0, 0x18), (d.elems == 0, 0x1A), (decide (6 < d.sfmt) || decide (6 < d.dfmt), 0x1C),
    (decide (2 < d.ssp) || decide (2 < d.dsp), 0x1D), (decide (4 < d.swz), 0x1E), (decide (15 < d.mcast), 0x1F),
    (sliceNat b 0x30 16 != 0, 0x30), (!pairListed d, 0x1C), (six && d.elems % 4 != 0, 0x1A), (d.dlen % 32 != 0, 0x1A),
    (d.dst % 32 != 0, 0x08), (d.dstride % 32 != 0, 0x28),
    (sp != 0 && (d.dsp == 0 || d.dlen % sp != 0 || d.dst % sp != 0 || d.dstride % (sp : Int) != 0), 0x1E),
    (d.mcast != 0 && (d.dsp != 2 || decide (2 ^ qgroup ≤ d.mcast)), 0x1F)].find? fun x => x.1).map (·.2)
def spaceOfCode (n : Nat) : Space := if n = 0 then .global else if n = 1 then .vault else .scratch
/-- R175, R171: the first and last rows and the sync word: the access cause with its address. -/
def rowFault (c : Crew) (x : Ctx) (d : CopyDesc) : Option (Nat × Nat) :=
  let rows := [(d.ssp, d.srcRow 0, d.slen), (d.dsp, d.dstRow 0, d.dlen), (d.ssp, d.srcRow (d.rows - 1), d.slen), (d.dsp, d.dstRow (d.rows - 1), d.dlen)]
  match rows.findSome? fun r => (spanCheck c x (spaceOfCode r.1) r.2.1 r.2.2).map fun k => (k, r.2.1) with
  | some y => some y
  | none => if d.swa = 2 ^ 64 - 1 then none else (swCheck c x d.swa).map fun k => (k, d.swa)
/-- R120: the copy names the scratchpad of an away warp; the descriptor itself lies in it. -/
def lowestOf (bad : List (Nat × Nat × Nat)) : Check :=
  match bad.head? with
  | none => .pass
  | some b => .trap (accessTrap b.2.1 ((bad.filter fun y => y.2.1 == b.2.1).map fun y => (y.1, y.2.2)))

/-! ### Issue: R174 -/

/-- R174: the lowest-numbered free entry. -/
def freeCopy (c : Crew) : Option Nat :=
  (List.range 16).find? fun i => match c.copies.getD i none with | some x => x.st != .running | none => true
/-- R174: a copy takes an entry. -/
def startCopy (qpri : BitVec 2) (desc : List Byte) (c : Crew) : Crew × Nat :=
  match freeCopy c with
  | none => (c, 0)
  | some i =>
    let h := c.copySerial % 2 ^ 28 * 16 + i
    ({ c with copies := c.copies.set i (some ⟨BitVec.ofNat 32 h, qpri, .running, 0, 0, 0, 0, desc, false, none⟩)
              copySerial := (c.copySerial + 1) % 2 ^ 28 }, h)
/-- R174: copies issued for lanes in order while an entry is free: the crew, the handles, and the lanes that must wait. -/
def startCopies (qpri : BitVec 2) : List (Nat × List Byte) → Crew × List (Nat × Nat) → Crew × List (Nat × Nat) × List (Nat × List Byte)
  | [], r => (r.1, r.2, [])
  | l :: ls, r =>
    match freeCopy r.1 with
    | none => (r.1, r.2, l :: ls)
    | some _ => let y := startCopy qpri l.2 r.1; startCopies qpri ls (y.1, r.2 ++ [(l.1, y.2)])
/-- `cpy`: every descriptor is read and checked at issue; a lane that finds no free entry waits with the instruction (R174). -/
def execCpy (qpri : BitVec 2) (f : Fields) (s : State) : Host.Outcome State Fault Refusal :=
  issue (.cpy qpri f) s fun e s =>
    if e.lanes.isEmpty then .go s
    else
      let part : CpyPart := (e.w.cpy.filter fun x => x.pc == e.pc).getD ⟨e.pc, [], []⟩
      let begun (tid : Nat) : Bool := part.todo.any (·.1 == tid) || part.done.any (·.1 == tid)
      let ls := (e.lanes.filter fun l => !begun l.2).map fun l => (l.1, l.2, srcBits e.w (e.th l.2) .n32 e.f.a)
      let desc (a : Nat) : List Byte := e.c.scratch.bytes a 64
      let mis := ls.filter fun l => l.2.2 % 64 != 0
      let far := ls.filter fun l => decide (e.sh.scratch < l.2.2 + 64)
      let bad := ls.filterMap fun l => (descFault e.sh.qgroup (desc l.2.2)).map fun k => (l.1, 8, l.2.2 * 256 + k)
      let row := ls.filterMap fun l => (rowFault e.c (s.ctx e.c.ctx) (copyDesc (desc l.2.2))).map fun k => (l.1, k.1, k.2)
      let own := firstCheck [lowestOf (mis.map fun l => (l.1, 1, l.2.2)), lowestOf (far.map fun l => (l.1, 3, l.2.2)), lowestOf bad, lowestOf row]
      match own with
      | .trap t => .trap s t
      | .wait => .wait
      | .pass =>
        match orderCheck s e .scratch false 64 ls with
        | .trap t => .trap s t
        | .wait => .wait
        | .pass =>
          let s := clearFences s e
          match s.crew? e.c.id with
          | none => .go s
          | some c =>
            let r := startCopies qpri (part.todo ++ ls.map fun l => (l.2.1, desc l.2.2)) (c, part.done)
            let keep (x : Option CpyPart) : State := s.setCrew (r.1.modWarp e.w.wid fun w => { w with cpy := x })
            if r.2.2.isEmpty then .go (writeD e (keep none) .n32 (r.2.1.filter fun x => e.lanes.any (·.2 == x.1)))
            else .stall (keep (some ⟨e.pc, r.2.2, r.2.1⟩))

/-! ### The engine's accesses: R178, R181 -/

/-- Why a granule does not finish. -/
inductive EngStop
  | fault (cause addr : Nat)
  | page (va cause : Nat) (kind : Access)
  | ats (va page : Nat) (kind : Access)
  | held
  deriving DecidableEq, Repr
/-- A global span cut at page boundaries. -/
def pageSpans : Nat → Nat → Nat → List (Nat × Nat)
  | 0, _, _ => []
  | k + 1, a, n => if n = 0 then [] else
      let m := Nat.min n (2 ^ 15 - a % 2 ^ 15)
      (a, m) :: pageSpans k (a + m) (n - m)
/-- The keys of a span for an engine of a crew, or what stops it. -/
def engKeys (s : State) (c : Crew) (sp : Space) (a n : Nat) (kind : Access) : State × Except EngStop (List (Nat × Nat × Nat)) :=
  let x := s.ctx c.ctx
  match spanCheck c x sp a n with
  | some k => (s, .error (.fault (0x80 + k) a))
  | none =>
    if sp = .vault then
      let l := (quadSpans a n).map fun y => (vaultOf x y.1, y.2, 0)
      (s, if l.any fun y => s.busError y.1 then .error (.fault 7 a) else .ok l)
    else
      (pageSpans 3 a n).foldl (fun r y =>
        match r.2 with
        | .error z => (r.1, .error z)
        | .ok l =>
          let t := xlate r.1 (dieOf c.core) none c.ctx y.1 kind
          match t.2 with
          | .ok k p => (t.1, .ok (l ++ [(k, y.2, p)]))
          | .ats p => (t.1, .error (.ats y.1 p kind))
          | .fault q => (t.1, .error (if recoverable q then .page y.1 q kind else .fault q y.1))) (s, .ok [])
/-- Bytes that an engine reads for a crew. -/
def engRead (s : State) (c : Crew) (sp : Space) (a n : Nat) : State × Except EngStop (List Byte) :=
  if sp = .scratch then (s, match spanCheck c (s.ctx c.ctx) sp a n with
    | some k => .error (.fault (0x80 + k) a)
    | none => .ok (c.scratch.bytes a n))
  else
    let r := engKeys s c sp a n .read
    match r.2 with
    | .error z => (r.1, .error z)
    | .ok l => if l.any fun k => r.1.poisoned k.1 k.2.1 then (r.1, .error (.fault 7 a)) else (r.1, .ok (l.flatMap fun k => r.1.physRead k.1 k.2.1))
/-- Bytes that an engine writes for a crew; R262: it registers nothing. -/
def engWrite (s : State) (c : Crew) (sp : Space) (a : Nat) (bs : List Byte) : State × Option EngStop :=
  if sp = .scratch then
    match spanCheck c (s.ctx c.ctx) sp a bs.length with
    | some k => (s, some (.fault (0x80 + k) a))
    | none => (scratchWrite s c.id a bs, none)
  else
    let r := engKeys s c sp a bs.length .write
    match r.2 with
    | .error z => (r.1, some z)
    | .ok l =>
      let s := r.1.clearPoison (coveredGranules (l.map fun k => (k.1, k.2.1)))
      if l.any fun k => s.poisoned k.1 k.2.1 then (r.1, some (.fault 7 a))
      else if s.writesBlocked (l.map (·.1)) then (r.1, some .held)
      else
        ((l.foldl (fun (x : State × List Byte) k =>
          (physWrite x.1 (some c.ctx) (if sp = .vault then none else some k.2.2) none k.1 (x.2.take k.2.1), x.2.drop k.2.1)) (s, bs)).1, none)

/-! ### Conversion: R176 -/

/-- The codes of packed elements. -/
def unpackElems (f : Nat) (bs : List Byte) (n : Nat) : List Nat :=
  if f = 2 then (List.range n).map fun j => bitsOf (sliceNat bs (j / 4 * 3) 3) (6 * (j % 4) + 5) (6 * (j % 4))
  else (List.range n).map fun j => sliceNat bs (j * (fmtQuarter f / 4)) (fmtQuarter f / 4)
def packElems (f : Nat) (xs : List Nat) : List Byte :=
  if f = 2 then (List.range (xs.length / 4)).flatMap fun g =>
    leBytes 3 (xs.getD (4 * g) 0 + xs.getD (4 * g + 1) 0 * 2 ^ 6 + xs.getD (4 * g + 2) 0 * 2 ^ 12 + xs.getD (4 * g + 3) 0 * 2 ^ 18)
  else xs.flatMap fun x => leBytes (fmtQuarter f / 4) x
/-- R41, R42, R176: one element converted. -/
def copyConv (sf df code : Nat) : Nat :=
  if sf = 0 then code
  else
    let x := match sf with
      | 1 => taperedDecode 8 2 code
      | 2 => taperedDecode 6 1 code
      | 3 => Fl.ofBits fmtF16 code
      | 5 => Fl.ofBits fmtBf16 code
      | _ => Fl.ofBits fmtF32 code
    match df with
    | 1 => taperedEncode 8 2 x
    | 2 => taperedEncode 6 1 x
    | 3 => (roundFl fmtF16 .rne x).1
    | 5 => (roundFl fmtBf16 .rne x).1
    | _ => (roundFl fmtF32 .rne x).1
/-- R178: the 32 bytes at offset o of a destination row: the source span they need, and the bytes from it. -/
def pieceSpan (d : CopyDesc) (o : Nat) : Nat × Nat :=
  let lo := o * 4 / fmtQuarter d.dfmt
  let hi := Nat.min (ceilDiv ((o + 32) * 4) (fmtQuarter d.dfmt)) d.elems
  if d.sfmt = 2 ∨ d.dfmt = 2 then (lo / 4 * 4, Nat.min (ceilDiv hi 4 * 4) d.elems) else (lo, hi)
def pieceBytes (d : CopyDesc) (o : Nat) (raw : List Byte) : List Byte :=
  let sp := pieceSpan d o
  let out := packElems d.dfmt ((unpackElems d.sfmt raw (sp.2 - sp.1)).map (copyConv d.sfmt d.dfmt))
  (out.drop (o - rowBytes sp.1 d.dfmt)).take 32

/-! ### One granule: R178 to R181 -/

/-- R180: the destinations: bit and crew. An absent crew of the group is evicted, and the copy waits for it (R308). -/
def copyDests (s : State) (c : Crew) (d : CopyDesc) : List (Nat × Option Crew) :=
  let q := c.kernel.shape.qgroup
  if d.mcast = 0 then [(c.pos % q, some c)]
  else ((List.range 4).filter fun i => d.mcast.testBit i).map fun i =>
    (i, s.crews.find? fun y => y.ctx == c.ctx && y.launch == c.launch && y.pos == c.pos / q * q + i)
/-- R178, R180: the sync word's address in a destination. -/
def destSwa (d : CopyDesc) : Nat := if d.mcast = 0 then d.swa else d.swa % 2 ^ 32
def modCopy (s : State) (crew i : Nat) (g : CopyEnt → CopyEnt) : State :=
  s.modCrew crew fun c => { c with copies := c.copies.modify i fun x => x.map g }
/-- FAULTED set in a destination's sync word where it can be written. -/
def setFaulted (s : State) (c : Crew) (a : Nat) : State :=
  if (swCheck c (s.ctx c.ctx) a).isSome || swLost s c a then s
  else swWrite s c.id a { swRead s c.id a with faulted := true }
/-- R181: the copy ends faulted. -/
def copyFault (s : State) (crew i cause addr : Nat) : State :=
  match s.crew? crew with
  | none => s
  | some c =>
    match c.copies.getD i none with
    | none => s
    | some x =>
      let d := copyDesc x.desc
      let s := modCopy s crew i fun x => { x with st := .faulted, cause := BitVec.ofNat 8 cause, faultAddr := BitVec.ofNat 64 addr, wait := none }
      if d.swa = 2 ^ 64 - 1 then s
      else (copyDests s c d).foldl (fun s y => match y.2 with | some k => setFaulted s k (destSwa d) | none => s) s
/-- R180: a destination fails. -/
def failDest (s : State) (crew i bit : Nat) : State :=
  match s.crew? crew with
  | none => s
  | some c =>
    match c.copies.getD i none with
    | none => s
    | some x =>
      let d := copyDesc x.desc
      let s := modCopy s crew i fun x => { x with pmask := x.pmask ||| (1 : BitVec 4) <<< bit }
      if d.swa = 2 ^ 64 - 1 then s
      else (copyDests s c d).foldl (fun s y => match y.2 with | some k => if y.1 = bit then setFaulted s k (destSwa d) else s | none => s) s
/-- R177: where 16 bytes at unswizzled offset o of row r go. -/
def swizzle (d : CopyDesc) (r o : Nat) : Nat :=
  let ch := if d.span = 0 then o / 16 else Nat.xor (o / 16) (r % (d.span / 16))
  (d.dstRow r + 16 * ch) % 2 ^ 64
/-- R178: a granule read, converted, written to every live destination and counted. -/
def granuleDo (s : State) (c : Crew) (x : CopyEnt) (d : CopyDesc) (live : List Crew) : State × Option EngStop :=
  let r := x.prog / d.perRow
  let o := 32 * (x.prog % d.perRow)
  let sp := pieceSpan d o
  let a := (d.srcRow r + rowBytes sp.1 d.sfmt) % 2 ^ 64
  let rd := engRead s c (spaceOfCode d.ssp) a (rowBytes sp.2 d.sfmt - rowBytes sp.1 d.sfmt)
  match rd.2 with
  | .error z => (rd.1, some z)
  | .ok raw =>
    let bs := pieceBytes d o raw
    let wr := live.foldl (fun (q : State × Option EngStop) k =>
      (List.range 2).foldl (fun (q : State × Option EngStop) h => match q.2 with
        | some _ => q
        | none => engWrite q.1 k (spaceOfCode d.dsp) (swizzle d r (o + 16 * h)) ((bs.drop (16 * h)).take 16)) q) (rd.1, none)
    match wr.2 with
    | some z => (wr.1, some z)
    | none =>
      if d.swa = 2 ^ 64 - 1 then (wr.1, none)
      else
        live.foldl (fun (q : State × Option EngStop) k => match q.2 with
          | some _ => q
          | none =>
            let w := swRead q.1 k.id (destSwa d)
            if swLost q.1 k (destSwa d) then (q.1, some (.fault 7 (destSwa d)))
            else if w.target = 0 then (q.1, some (.fault 0x87 (destSwa d)))
            else (swWrite q.1 k.id (destSwa d) (swBump w 32), none)) (wr.1, none)
/-- R178 to R181: the engine at a copy's current granule: finished, faulted, or waiting for a page. None where it cannot move. -/
def copyStep (s : State) (crew i : Nat) : Option State :=
  match s.crew? crew with
  | none => none
  | some c =>
    match c.copies.getD i none with
    | none => none
    | some x =>
      let d := copyDesc x.desc
      let dests := copyDests s c d
      if x.st != .running || (x.wait.map (·.waiting)).getD false || dests.any (fun y => y.2.isNone && !x.pmask.getLsbD y.1) then none
      else
        let live := dests.filterMap fun y => if x.pmask.getLsbD y.1 then none else y.2
        let r := granuleDo s c x d live
        match r.2 with
        | none =>
          some (modCopy r.1 crew i fun x =>
            { x with prog := x.prog + 1, wait := none
                     st := if d.total ≤ x.prog + 1 then (if x.pmask = 0 then .done else .part) else .running })
        | some (.fault cause a) => some (copyFault s crew i cause a)
        | some .held => none
        | some (.ats va p k) =>
          some (modCopy (atsAsk s c.ctx p) crew i fun x => { x with wait := some ⟨va, k, (x.wait.map (·.tries)).getD 0, 0, true⟩ })
        | some (.page va cause k) =>
          let tries := (x.wait.map (·.tries)).getD 0
          if 3 ≤ tries then some (copyFault s crew i 6 va)
          else
            let m := mergeJoin s (dieOf c.core) c.ctx (va / 2 ^ 15) k (.copy crew i)
            if m.2 then some (modCopy m.1 crew i fun x => { x with wait := some ⟨va, k, tries + 1, cause, true⟩ }) else none
/-- COPY_GRANULE. -/
def execCopyGranule (crew entry : Nat) (s : State) : Host.Outcome State Fault Refusal :=
  match s.crew? crew with
  | none => .refused .notEnabled
  | some c =>
    if !Crew.runs s c then .refused .notEnabled
    else match copyStep s crew entry with | some s => .next s | none => .refused .notEnabled

/-! ### `cpyq`: R182 -/

def CopySt.code : CopySt → Nat | .running => 0 | .done => 1 | .part => 2 | .faulted => 3
/-- R182: the status of a handle. -/
def copyStatus (c : Crew) (h : Nat) : Nat × Option (Nat × CopyEnt) :=
  match c.copies.getD (h % 16) none with
  | none => (4, none)
  | some x =>
    if x.handle.toNat = h then
      (x.prog * 32 % 2 ^ 32 * 2 ^ 32 + (if x.st = .part then x.pmask.toNat * 16 else 0) + x.st.code, some (h % 16, x))
    else (4, none)
/-- A long-latency result of 64 bits on its way to D (R158). -/
def sendStatus (s : State) (crew tid : Nat) (d : Opd) (x : Nat) : State :=
  match d with
  | .v r =>
    { s.modCrew crew fun c => c.modThread tid fun th => th.setEmpty r.toNat 2 with
      rets := s.rets ++ [⟨s.uid, crew, tid, resultWords .b64 r.toNat x, false, none⟩], uid := s.uid + 1 }
  | _ => s
/-- R182: the status of one lane's handle on its way, or written at once where the instruction traps; reading a partial state clears
its PMASK (R173). -/
def cpyqLane (e : Env) (now : Nat → Bool) (r : State × Bool) (l : Nat × Nat) : State × Bool :=
  match r.1.crew? e.c.id with
  | none => r
  | some c =>
    let h := srcBits e.w (e.th l.2) .n32 e.f.a
    let q := copyStatus c h
    let c := match q.2 with
      | some y => { c with copies := c.copies.modify y.1 fun x => x.map fun x => { x with pmask := if x.st == .part then 0 else x.pmask } }
      | none => c
    let s := r.1.setCrew c
    let s := if now h then (match e.f.d with | .v d => writeRegs s e.c.id [(l.2, resultWords .b64 d.toNat q.1)] | _ => s)
      else sendStatus s e.c.id l.2 e.f.d q.1
    (s, r.2 || (match q.2 with | some y => y.2.st != .running | none => false))
/-- `cpyq`: the first faulted copy not yet reported, by lane, traps in every lane that names it, with its status written first; another one
traps at its next report (R297, log entry 133). -/
def execCpyq (f : Fields) (s : State) : Host.Outcome State Fault Refusal :=
  issue (.cpyq f) s fun e s =>
    let handle (l : Nat × Nat) : Nat := srcBits e.w (e.th l.2) .n32 e.f.a
    let fresh := e.lanes.findSome? fun l => (copyStatus e.c (handle l)).2.filter fun y => y.2.st == .faulted && !y.2.reported
    let now (h : Nat) : Bool := match fresh with | some y => y.2.handle.toNat == h | none => false
    let r := e.lanes.foldl (cpyqLane e now) (s, false)
    let s := if r.2 then l1Acquire r.1 (e.c.warpCore e.w) else r.1
    match fresh with
    | none => .go s
    | some y => .trap (modCopy s e.c.id y.1 fun x => { x with reported := true })
        (copyTrap y.2 (maskOf ((e.lanes.filter fun l => now (handle l)).map (·.1))))

end Sys2Proof.Machine
end

