-- ==== Sys2Proof/Machine/Matrix.lean ====
section
/-! DEFINITION. Matrix requests: `mmx` and its checks (R196 to R198), passes (R48, R199, R200), progress (R202) and `mmq`
(R203). -/
namespace Sys2Proof.Machine

/-! ### Parameter blocks: R197, R198 -/

/-- R198: operand and accumulator shapes. -/
def operandShape (cfg : Word) (k : Nat) (tr : Bool) : Bool :=
  tileEW cfg == 2 && cfg.getLsbD 18 == tr && tileRows cfg == 16 && decide (2 * k ≤ 16 * tileRL cfg)
def accShape (cfg : Word) : Bool := tileEW cfg == 4 && !cfg.getLsbD 18 && tileRows cfg == 16 && tileRL cfg == 4
def matPartial (h : List Byte) : Nat := sliceNat h 4 4
/-- R198: the first failing check: a code of the matrix-parameter trap, or the tile with RL = 0. -/
def blockFault (c : Crew) (a : Nat) (b : MatBlock) : Option (Nat ⊕ Nat) :=
  let n := sliceNat b.header 0 1
  let p := matPartial b.header
  let sz := 16 + 8 * n
  let sc := c.kernel.shape.scratch
  let cfg (t : Nat) : Word := (c.tile t).cfg
  let each (f : Quad → Option (Nat ⊕ Nat)) : Option (Nat ⊕ Nat) := b.passes.findSome? f
  let ix (q : Quad) : Nat := (b.passes.findIdx? fun x => x == q).getD 0
  let shaped (t : Quad → Nat) (ok : Quad → Word → Bool) : Option (Nat ⊕ Nat) := each fun q =>
    if tileRL (cfg (t q)) = 0 then some (.inr (t q)) else if ok q (cfg (t q)) then none else some (.inl (ix q))
  if sc < a + sz ∨ sc < p + 4096 ∨ p % 128 ≠ 0 ∨ (p < a + sz ∧ a < p + 4096) then some (.inl 0xFF)
  else if n = 0 ∨ 32 < n ∨ sliceNat b.header 1 3 ≠ 0 ∨ sliceNat b.header 8 8 ≠ 0 then some (.inl 0xFE)
  else
    match each fun q =>
      if passCT q < c.kernel.shape.tiles ∧ passAT q < c.kernel.shape.tiles ∧ passBT q < c.kernel.shape.tiles ∧ 1 ≤ passK8 q ∧ passK8 q ≤ 24
        ∧ q.toNat % 2 ^ 43 = 0 then none else some (.inl (ix q)) with
    | some x => some x
    | none =>
      match shaped passAT fun q w => operandShape w (8 * passK8 q) false with
      | some x => some x
      | none =>
        match shaped passBT fun q w => operandShape w (8 * passK8 q) true with
        | some x => some x
        | none => shaped passCT fun _ w => accShape w
/-- The tiles that a request reads, and those it accumulates into, each once. -/
def readTiles (ps : List Quad) : List Nat := (ps.flatMap fun p => [passAT p, passBT p]).eraseDups
def accTiles (ps : List Quad) : List Nat := (ps.map passCT).eraseDups

/-! ### Issue: R196 -/

/-- R196: entries of a quad's reservation table in use. -/
def matLive (r : MatReq) : Bool := r.st == .queued || r.st == .running
def tableUsed (s : State) (quad : Nat) : Nat :=
  s.crews.foldl (fun n c => if quadOf c.core = quad then n + (c.mats.filter fun r => match r with | some r => matLive r | none => false).length else n) 0
def freeMat (c : Crew) : Option Nat :=
  (List.range 32).find? fun i => match c.mats.getD i none with | some r => !matLive r | none => true
/-- R189: a request's tiles marked. -/
def markTiles (c : Crew) (mark : Nat) (ps : List Quad) : Crew :=
  let c := { c with tiles := (readTiles ps).foldl (fun ts t => ts.modify t fun y => { y with lends := y.lends + 1 }) c.tiles }
  { c with tiles := (accTiles ps).foldl (fun ts t => ts.modify t fun y => { y with writers := y.writers ++ [mark] }) c.tiles }
/-- `mmx`. -/
def execMmx (mpri : BitVec 2) (f : Fields) (s : State) : Host.Outcome State Fault Refusal :=
  issue (.mmx mpri f) s fun e s =>
    match e.lanes with
    | [] => .go s
    | l :: _ =>
      let a := srcBits e.w (e.th l.2) .n32 e.f.a
      let b := readBlock e.c a
      let lead := maskOf [l.1]
      if a % 16 ≠ 0 then .trap s (accessTrap 1 [(l.1, a)])
      else
        match blockFault e.c a b with
        | some (.inl k) => .trap s { cls := 6, cause := 10, tval := BitVec.ofNat 64 (a * 256 + k), lanes := lead }
        | some (.inr t) => .trap s (shapeTrap t 4 lead)
        | none =>
          match orderCheck s e .scratch false (16 + 8 * b.passes.length) [(l.1, l.2, a)] with
          | .trap t => .trap s t
          | .wait => .wait
          | .pass =>
            if 32 ≤ tableUsed s (quadOf e.c.core) || (readTiles b.passes).any fun t => decide (63 ≤ (e.c.tile t).lends) then .wait
            else
              match freeMat e.c, (clearFences s e).crew? e.c.id with
              | some i, some c =>
                let h := c.matSerial % 2 ^ 27 * 32 + i
                let shapes := ((readTiles b.passes) ++ accTiles b.passes).map fun t => (t, (c.tile t).cfg)
                let r : MatReq := ⟨i, BitVec.ofNat 32 h, mpri, .queued, 0, 0, a, b.header, b.passes, shapes, s.uid, 0, 0, []⟩
                let c := markTiles { c with mats := c.mats.set i (some r), matSerial := (c.matSerial + 1) % 2 ^ 27 } s.uid b.passes
                .go (writeD e { (clearFences s e).setCrew c with uid := s.uid + 1 } .n32 (e.lanes.map fun l => (l.2, h)))
              | _, _ => .wait

/-! ### Passes: R199, R200 -/

/-- The pass that a request is at. -/
def MatReq.pass (r : MatReq) : Quad := r.passes.getD r.cur 0
/-- R199: the pass is ready. A tile lent to a `tst` cannot change (R195), so its accumulator is not lent. -/
def passReady (c : Crew) (r : MatReq) : Bool :=
  let p := r.pass
  r.st == .queued && (c.tile (passAT p)).writers.isEmpty && (c.tile (passBT p)).writers.isEmpty
    && (c.tile (passCT p)).writers.head? == some r.mark && (c.tile (passCT p)).lends == 0
/-- R199: the effective priority. -/
def matPrio (s : State) (r : MatReq) : Nat := Nat.min 3 (r.mpri.toNat + (if r.since = 0 then 0 else (s.cycle - r.since) / 256))
def modMat (s : State) (crew i : Nat) (g : MatReq → MatReq) : State :=
  s.modCrew crew fun c => { c with mats := c.mats.modify i fun x => x.map g }
/-- R199: requests note the cycle from which they wait with a ready pass. -/
def noteReady (s : State) : State :=
  { s with crews := s.crews.map fun c =>
      if c.mats.any Option.isSome then
        { c with mats := c.mats.map fun x => x.map fun r =>
            if passReady c r then (if r.since = 0 then { r with since := s.cycle } else r) else { r with since := 0 } }
      else c }
/-- The requests of a quad with their crews. -/
def quadMats (s : State) (quad : Nat) : List (Crew × MatReq) :=
  (s.crews.filter fun c => quadOf c.core == quad).flatMap fun c => c.mats.filterMap fun x => x.map fun r => (c, r)
/-- R199: the request that the engine grants: highest effective priority, then issued earliest. -/
def grantPick (s : State) (quad : Nat) : Option (Crew × MatReq) :=
  ((quadMats s quad).filter fun x => Crew.runs s x.1 && passReady x.1 x.2).foldl (fun b x => match b with
    | none => some x
    | some y => if matPrio s y.2 < matPrio s x.2 ∨ (matPrio s y.2 = matPrio s x.2 ∧ x.2.mark < y.2.mark) then some x else some y) none
/-- A number in a tile. -/
def tileNat (c : Crew) (t : Nat) (cfg : Word) (r k : Nat) : Nat := (c.tile t).data.nat (tileByte cfg r k) (tileEW cfg)
def shapeOf (r : MatReq) (t : Nat) : Word := ((r.shapes.find? fun x => x.1 == t).map (·.2)).getD 0
/-- R48: W at the start of a pass. -/
def passStart (c : Crew) (r : MatReq) : List (BitVec 128) :=
  let p := r.pass
  if passZ p then List.replicate 256 (wpEncode (.zero false))
  else (List.range 256).map fun n => wpEncode (Fl.ofBits fmtF32 (tileNat c (passCT p) (shapeOf r (passCT p)) (n / 16) (n % 16)))
/-- R48, R50: beats `lo` to `hi - 1` of a pass. -/
def passBeatsDo (c : Crew) (r : MatReq) (w : List (BitVec 128)) (lo hi : Nat) : List (BitVec 128) :=
  let p := r.pass
  let el (t i k : Nat) : Fl := Fl.ofBits fmtBf16 (tileNat c t (shapeOf r t) i k)
  w.zipIdx.map fun x => wpEncode ((List.range (hi - lo)).foldl (fun acc b =>
    let ks := (List.range 32).filter fun k => decide (32 * (lo + b) + k < 8 * passK8 p)
    wpBeat acc (ks.map fun k => mulFl (el (passAT p) (x.2 / 16) (32 * (lo + b) + k)) (el (passBT p) (x.2 % 16) (32 * (lo + b) + k)))) (wpDecode x.1))
/-- R200: a request's marks on tiles whose last naming pass is among those given. -/
def releaseMarks (c : Crew) (r : MatReq) (rest : List Quad) (done : List Quad) : Crew :=
  let c := { c with tiles := ((readTiles done).filter fun t => !(readTiles rest).contains t).foldl (fun ts t =>
    ts.modify t fun y => { y with lends := y.lends - 1 }) c.tiles }
  { c with tiles := ((accTiles done).filter fun t => !(accTiles rest).contains t).foldl (fun ts t =>
    ts.modify t fun y => { y with writers := y.writers.filter (· != r.mark) }) c.tiles }
/-- R200: the running pass of a request ends. -/
def passEnd (s : State) (c : Crew) (r : MatReq) : State :=
  let p := r.pass
  let w := passBeatsDo c r r.w r.beat (passBeats p)
  let cfg := shapeOf r (passCT p)
  let s := tileWrite s c.id (passCT p) (w.zipIdx.map fun x =>
    (tileByte cfg (x.2 / 16) (x.2 % 16), leBytes 4 (roundFl fmtF32 .rne (wpDecode x.1)).1))
  let fin := r.cur + 1 == r.passes.length
  modMat (s.modCrew c.id fun c => releaseMarks c r (r.passes.drop (r.cur + 1)) [p]) c.id r.num fun r =>
    { r with cur := r.cur + 1, beat := 0, w := [], since := 0, st := if fin then .done else .queued }
/-- MATRIX_PASS_GRANT: R199. -/
def execMatrixPassGrant (quad : Nat) (s : State) : Host.Outcome State Fault Refusal :=
  if (quadMats s quad).any fun x => x.2.st == .running then .refused .notEnabled
  else
    match grantPick s quad with
    | none => .refused .notEnabled
    | some x => .next (modMat s x.1.id x.2.num fun r =>
        { r with st := .running, start := s.cycle, since := 0, w := if r.w.isEmpty then passStart x.1 r else r.w })
/-- Beats that the running pass has finished by now, one per cycle (R200). -/
def beatsDone (s : State) (r : MatReq) : Nat := Nat.min (passBeats r.pass) (r.beat + (s.cycle - r.start))
/-- MATRIX_PASS_END: R200, once the pass has run its beats. -/
def execMatrixPassEnd (quad : Nat) (s : State) : Host.Outcome State Fault Refusal :=
  match (quadMats s quad).find? fun x => x.2.st == .running with
  | none => .refused .notEnabled
  | some x => if beatsDone s x.2 < passBeats x.2.pass then .refused .notEnabled else .next (passEnd s x.1 x.2)
/-- R200: a request ends faulted at its current pass. -/
def matFault (s : State) (crew i : Nat) : State :=
  match s.crew? crew with
  | none => s
  | some c =>
    match c.mats.getD i none with
    | none => s
    | some r =>
      if !matLive r then s
      else modMat (s.modCrew crew fun c => releaseMarks c r [] (r.passes.drop r.cur)) crew i fun r => { r with st := .faulted, w := [], since := 0 }
/-- R202: a request at a stop: the running pass ends its current beat, and the header and partials are written. -/
def matStop (s : State) (c : Crew) (r : MatReq) : State :=
  let b := Nat.min (passBeats r.pass) (r.beat + (s.cycle - r.start) + 1)
  let head (s : State) (cur beat saved : Nat) : State := scratchWrite s c.id (r.block + 1) (leBytes 1 cur ++ leBytes 1 beat ++ leBytes 1 saved)
  if r.st == .running then
    if passBeats r.pass ≤ b then
      let s := passEnd s c r
      if r.cur + 1 = r.passes.length then s else head s (r.cur + 1) 0 0
    else
      let w := passBeatsDo c r r.w r.beat b
      let s := scratchWrite s c.id (matPartial r.header) (w.flatMap fun x => leBytes 16 x.toNat)
      head (modMat s c.id r.num fun r => { r with st := .queued, beat := b, w := w, since := 0 }) r.cur b 1
  else if r.st == .queued then head s r.cur r.beat (if r.w.isEmpty then 0 else 1)
  else s

/-! ### `mmq`: R203 -/

def MatSt.code : MatSt → Nat | .queued => 0 | .running => 1 | .done => 2 | .faulted => 3
/-- R203: the status of a handle, and whether it reports the end. -/
def matStatus (s : State) (c : Crew) (h : Nat) : Nat × Bool :=
  match c.mats.getD (h % 32) none with
  | none => (4, false)
  | some r =>
    if r.handle.toNat ≠ h then (4, false)
    else
      let beat := if r.st = .running then beatsDone s r else r.beat
      (beat * 2 ^ 16 + r.cur * 2 ^ 8 + r.st.code, !matLive r)
/-- `mmq`. -/
def execMmq (f : Fields) (s : State) : Host.Outcome State Fault Refusal :=
  issue (.mmq f) s fun e s =>
    match e.lanes with
    | [] => .go s
    | l :: _ =>
      let q := matStatus s e.c (srcBits e.w (e.th l.2) .n32 e.f.a)
      let s := e.lanes.foldl (fun s l => sendStatus s e.c.id l.2 e.f.d q.1) s
      .go (if q.2 then l1Acquire s (e.c.warpCore e.w) else s)

end Sys2Proof.Machine
end

