-- ==== Sys2Proof/Machine/Faults.lean ====
section
/-! DEFINITION. Answers to page requests and to ATS requests, and the replay of what waited for them: R276 to R279. -/
namespace Sys2Proof.Machine

/-! ### Replay of operand-log lanes: R278 -/

/-- A lane of a log entry put back, or taken out; an entry that is then empty goes. -/
def putLane (s : State) (crew id lane : Nat) (l : Option LogLane) : State :=
  let f (x : LogEntry) : LogEntry :=
    if x.id = id then { x with lanes := x.lanes.filterMap fun y => if y.lane = lane then l else some y } else x
  s.modCrew crew fun c => { c with log := (c.log.map f).filter fun x => !x.lanes.isEmpty }
/-- R117: the trap of a lane whose thread has ended. -/
def endedTrap (s : State) (crew : Nat) (x : LogEntry) (l : LogLane) : State :=
  let t : Trap := { cls := 7, cause := l.cause, tval := l.addr, lanes := maskOf [l.lane], tinst := some x.pc }
  raiseEnded s crew x.wid l.tid (fun _ => t) t x.pc
/-- A lane made unrecoverable with a cause; one whose trap nobody can hold walks again after the stop. -/
def killLane (s : State) (crew : Nat) (x : LogEntry) (l : LogLane) (cause : Nat) : State :=
  match s.crew? crew with
  | none => s
  | some c =>
    if trapHomeless s c x.wid l.tid then putLane s crew x.id l.lane (some { l with wait := .table })
    else
      let l := { l with cause := cause, wait := .dead }
      endedTrap (putLane s crew x.id l.lane (some l)) crew x l
/-- The core of the warp that holds a thread, else of the warp that issued for it, else the crew's. -/
def Crew.coreOf (c : Crew) (wid tid : Nat) : Nat :=
  match c.warps.find? fun w => w.lanes.contains (some tid) with
  | some w => c.warpCore w
  | none => match c.warp? wid with | some w => c.warpCore w | none => c.core
/-- The values of a replayed lane on their way; a fence that waits for the access then waits for them (R167). -/
def replaySend (s : State) (crew : Nat) (x : LogEntry) (l : LogLane) (o : MemOp) (vals : List Nat) : State :=
  if o.dcount = 0 then s
  else
    let id := s.uid
    (sendBack s crew l.tid o.t ((x.instr.fields?).getD Fields.blank).d o.dcount vals
      (some ⟨x.wid, l.lane, x.id, x.instr, x.pc, l.addr, l.ops⟩)).modCrew crew fun c => c.modThread l.tid fun t =>
      { t with facq := t.facq.map fun ids => if ids.contains x.id then id :: ids else ids }
/-- R278: a deferred lane walks again. `replay` says whether the walk counts among its replays (a lane that found the merge
table full did not replay yet). -/
def replayLane (s : State) (crew id lane : Nat) (replay : Bool) : State :=
  match s.crew? crew with
  | none => s
  | some c =>
    match c.log.find? fun x => x.id == id with
    | none => s
    | some x =>
      match x.lanes.find? fun l => l.lane == lane, memOf x.instr with
      | some l, some (o, _) =>
        if !Crew.runs s c && l.wait != .flight then
          putLane s crew id lane (some { l with wait := .table, tries := if replay then l.tries + 1 else l.tries })
        else
        let core := c.coreOf x.wid l.tid
        let g : State × LaneGo := if o.space = .device then (s, .at l.addr.toNat 0)
          else laneGo s c core (logSpace o.space) o.kind l.addr.toNat (.log crew id lane)
        match g.2 with
        | .defer .dead cause => killLane g.1 crew x l cause
        | .defer wt cause =>
          let tries := if replay then l.tries + 1 else l.tries
          if wt != .ats && decide (3 ≤ tries) then killLane s crew x l 6
          else putLane g.1 crew id lane (some { l with wait := wt, cause := cause, tries := tries })
        | .at k vp =>
          if o.space = .device then putLane (replaySend (devLoad s k o.bytes).1 crew x l o [(devLoad s k o.bytes).2]) crew id lane none
          else if o.kind != .read && g.1.writesBlocked [k] then putLane g.1 crew id lane (some { l with wait := .table })
          else
            match accessKey g.1 c.ctx core o k vp (l.ops.map (·.toNat)) with
            | (s, some vals) => putLane (replaySend s crew x l o vals) crew id lane none
            | (s, none) => killLane s crew x l 7
      | _, _ => s
/-- Every deferred lane that `p` picks walks again, in log order. -/
def replayWhere (s : State) (p : Crew → LogLane → Bool) (replay : Bool) : State :=
  let xs := s.crews.flatMap fun c => c.log.flatMap fun x => (x.lanes.filter (p c)).map fun l => (c.id, x.id, l.lane)
  xs.foldl (fun s x => replayLane s x.1 x.2.1 x.2.2 replay) s
/-- R276: lanes of running crews that found the merge table full, or that a protected page held (R328), walk again. -/
def retryTable (s : State) : State := replayWhere s (fun c l => l.wait == .table && Crew.runs s c) false

/-- R164: the lowest lane of an access that is on its way is performed. -/
def performLane (s : State) (crew id : Nat) : Option State :=
  match (s.crew? crew).bind fun c => (c.log.find? fun x => x.id == id).bind fun x => x.lanes.find? fun l => l.wait == .flight with
  | some l => some (replayLane s crew id l.lane false)
  | none => none
/-- R304: accesses of a crew that are on their way are performed before it stands at its restart point. -/
def landFlights (s : State) (crew : Nat) : State := replayWhere s (fun c l => c.id == crew && l.wait == .flight) false

/-! ### Answers: R277 -/

/-- R291: a stop has arrived at a crew, so the wait of its copies is over: no answer moves them any more. -/
def copiesStopped (s : State) (crew : Nat) : Bool :=
  match s.crew? crew with | some c => (s.ctx c.ctx).holds c.pos | none => false
/-- A waiting instruction walks again. -/
def rewalk (s : State) : Waiter → State
  | .log crew id lane => replayLane s crew id lane true
  | .warp crew wid => s.modCrew crew fun c => c.modWarp wid fun w => { w with stall := w.stall.map fun x => { x with waiting := false } }
  | .copy crew i => if copiesStopped s crew then s else modCopy s crew i fun x => { x with wait := x.wait.map fun y => { y with waiting := false } }
  | .tile crew id => modTransfer s crew id fun x => { x with wait := x.wait.map fun y => { y with waiting := false } }
/-- A waiting instruction becomes unrecoverable. -/
def failWaiter (cause : Nat) (s : State) : Waiter → State
  | .log crew id lane =>
    match (s.crew? crew).bind fun c => c.log.find? fun x => x.id == id with
    | none => s
    | some x => match x.lanes.find? fun l => l.lane == lane && l.wait == .page with
      | some l => killLane s crew x l cause
      | none => s
  | .warp crew wid => s.modCrew crew fun c => c.modWarp wid fun w =>
      { w with stall := w.stall.map fun x => { x with waiting := false, cause := cause } }
  | .copy crew i =>
    match (s.crew? crew).bind fun c => (c.copies.getD i none).bind (·.wait) with
    | some y => if copiesStopped s crew then s else copyFault s crew i cause y.va
    | none => s
  | .tile crew id =>
    match (s.crew? crew).bind fun c => (c.transfers.find? fun x => x.id == id).bind (·.wait) with
    | some y => killTransfer s crew id { y with waiting := false, cause := cause }
    | none => s
/-- An entry leaves the merge table; its index returns to the pool. -/
def freeMerge (s : State) (m : MergeEnt) : State :=
  { s with merge := s.merge.filter (· != m), prgFree := s.prgFree ++ m.prgi.toList }
/-- PRG_RESPONSE. A response whose index belongs to no entry is dropped; the index is free again (R291). -/
def execPrgResponse (prgi : Nat) (code : PrgCode) (s : State) : Host.Outcome State Fault Refusal :=
  match s.merge.find? fun m => m.prgi == some prgi with
  | none => .next (if prgi < 512 ∧ !s.prgFree.contains prgi then { s with prgFree := s.prgFree ++ [prgi] } else s)
  | some m =>
    let t := freeMerge s m
    match code with
    | .success => .next (retryTable (m.waiters.foldl rewalk t))
    | .invalidRequest => .next (retryTable (m.waiters.foldl (failWaiter 4) t))
    | .responseFailure =>
      let t := { s with priStopped := true }
      .next (retryTable (s.merge.foldl (fun s m => m.waiters.foldl (failWaiter 5) (freeMerge s m)) t))
/-- PRI_STOPPED_CLEAR: the host clears Stopped. -/
def execPriStoppedClear (s : State) : Host.Outcome State Fault Refusal := .next { s with priStopped := false }

/-! ### ATS: R270, R274 -/

/-- A host leaf enters a die's TLB with its ATS completion. -/
def hostFill (s : State) (die ctx va page host : Nat) : State :=
  match walk s va 4 1 (bitsOf ((s.ctx ctx).xl 0) 51 8 * 2 ^ 8) with
  | .ok (leaf, level) =>
    if entTgt leaf = 2 ∧ entAddr leaf / 2 ^ 15 = page then
      s.tlbPut va ⟨die, none, ctx, va / 2 ^ 15, level, BitVec.ofNat 64 leaf, some (host * 2 ^ 15)⟩
    else s
  | .error _ => s
/-- R377: the aperture addresses of fabric requests that wait at a port, for contexts of a PASID. -/
def fabWaits (s : State) (pasid : Nat) : List (Nat × Nat × Nat) :=
  s.ports.flatMap fun p => (p.ingress.filter fun q => decide (q.type < 3)).flatMap fun q =>
    match s.ctxs.find? fun x => x.bound && x.jobV && x.jobId == q.job && x.pasid == pasid with
    | some x => let a := s.hostF (aperOff x.num) 55 16 * 2 ^ 16 + q.off; [(1, x.num, a), (1, x.num, a + q.len - 1)]
    | none => []
/-- The dies, contexts and addresses that wait for an ATS completion of a PASID. -/
def atsWaits (s : State) (pasid : Nat) : List (Nat × Nat × Nat) :=
  fabWaits s pasid ++ (s.crews.filter fun c => (s.ctx c.ctx).pasid == pasid).flatMap fun c =>
    let held (x : Option Stall) : List Nat := match x with | some x => if x.waiting && x.cause == 0 then [x.va] else [] | none => []
    (c.log.flatMap fun x => (x.lanes.filter fun l => l.wait == .ats).map fun l => (dieOf (c.coreOf x.wid l.tid), c.ctx, l.addr.toNat))
      ++ (c.warps.flatMap fun w => (held w.stall).map fun va => (dieOf (c.warpCore w), c.ctx, va))
      ++ ((c.copies.flatMap fun x => match x with | some x => held x.wait | none => []) ++ c.transfers.flatMap fun x => held x.wait).map
        fun va => (dieOf c.core, c.ctx, va)
/-- ATS_COMPLETION: the translation of a host page arrives; what waited for ATS walks again. -/
def execAtsCompletion (pasid : BitVec 20) (page host : Nat) (s : State) : Host.Outcome State Fault Refusal :=
  let m := HostMsg.atsRequest pasid.toNat page
  if !s.hostOut.contains m then .refused .notEnabled
  else
    let t := { s with hostOut := s.hostOut.filter (· != m) }
    let t := (atsWaits s pasid.toNat).foldl (fun t x => hostFill t x.1 x.2.1 (x.2.2 % 2 ^ 56) page host) t
    let go (x : Stall) : Stall := if x.cause = 0 then { x with waiting := false } else x
    let wake (c : Crew) : Crew :=
      if (s.ctx c.ctx).pasid == pasid.toNat then
        { c with warps := c.warps.map fun w => { w with stall := w.stall.map go }
                 copies := if (s.ctx c.ctx).holds c.pos then c.copies else c.copies.map fun x => x.map fun y => { y with wait := y.wait.map go }
                 transfers := c.transfers.map fun x => { x with wait := x.wait.map go } }
      else c
    .next (replayWhere { t with crews := t.crews.map wake } (fun c l => l.wait == .ats && (s.ctx c.ctx).pasid == pasid.toNat) false)

end Sys2Proof.Machine
end

