-- ==== Sys2Proof/Machine/Invalidate.lean ====
section
/-! DEFINITION. Invalidations (R268, R281, R282). -/
namespace Sys2Proof.Machine

/-- R268: the translation registers of a context as written: its shadow. -/
def shadowXlat (s : State) (n : Nat) : List Quad := (List.range 13).map fun i => s.host (xlatOff n + 8 * i)
/-- R268: a bound context takes up its shadow. -/
def loadShadow (s : State) (n : Nat) : State :=
  if (s.ctx n).bound then s.modCtx n fun x => { x with xlat := shadowXlat s n } else s
/-- R281: GO of `XLAT_INV_CTL`. -/
def invGo (s : State) : State :=
  let f := s.hostF 0x300008
  if f 63 63 = 1 ∨ f 61 60 = 3 ∨ (f 61 60 = 0 ∧ f 51 32 = 0) then s
  else
    let page := s.hostF 0x300000 55 15
    { s.setHostF 0x300008 63 63 1 with inval := s.inval ++ [⟨f 61 60, f 59 52, page, f 51 32, none⟩] }
/-- The two registers written for one scope, with GO. -/
def writeInv (s : State) (scope ctx : Nat) (addr : Option Quad) (count : Nat) : State :=
  let s := match addr with | some a => s.setHostF 0x300000 55 15 (bitsOf a.toNat 55 15) | none => s
  invGo (((s.setHostF 0x300008 61 60 scope).setHostF 0x300008 59 52 ctx).setHostF 0x300008 51 32 count)
/-- INVALIDATE_RANGE. -/
def execInvalidateRange (ctx : BitVec 8) (addr : Quad) (count : BitVec 20) (s : State) : Host.Outcome State Fault Refusal :=
  .next (writeInv s 0 ctx.toNat (some addr) count.toNat)
/-- INVALIDATE_CONTEXT. -/
def execInvalidateContext (ctx : BitVec 8) (s : State) : Host.Outcome State Fault Refusal :=
  .next (writeInv s 1 ctx.toNat none (s.hostF 0x300008 51 32))
/-- INVALIDATE_ALL. -/
def execInvalidateAll (s : State) : Host.Outcome State Fault Refusal :=
  .next (writeInv s 2 (s.hostF 0x300008 59 52) none (s.hostF 0x300008 51 32))
/-- ATS_INVALIDATE_REQUEST: R281: a range of host frames, `pages` of 32 KiB from the host address. -/
def execAtsInvalidateRequest (pasid : BitVec 20) (addr : Quad) (pages : Nat) (s : State) : Host.Outcome State Fault Refusal :=
  .next { s with inval := s.inval ++ [⟨0, 0, addr.toNat / 2 ^ 15, pages, some pasid.toNat⟩] }
/-- The TLB entry is in the scope of an invalidation; a 128 MiB leaf is when it overlaps the range. -/
def invHits (s : State) (v : Inval) (t : TlbEnt) : Bool :=
  match v.ats with
  | some p => t.host.isSome && (s.ctx t.ctx).pasid == p && decide (v.page ≤ entAddr t.leaf.toNat / 2 ^ 15)
      && decide (entAddr t.leaf.toNat / 2 ^ 15 < v.page + v.count)
  | none =>
    match v.scope with
    | 0 =>
      let lo := if t.level = 3 then t.vpage / 2 ^ 12 * 2 ^ 12 else t.vpage
      let n := if t.level = 3 then 2 ^ 12 else 1
      t.ctx == v.ctx && decide (lo < v.page + v.count) && decide (v.page < lo + n)
    | 1 => t.ctx == v.ctx
    | _ => true
/-- The blocks of 32 bytes that instruction caches keep (R53, R282): core, context, block number. -/
def icHits (v : Inval) (x : Nat × Nat × Nat) : Bool :=
  v.ats.isNone && (v.scope != 0 || (x.2.1 == v.ctx && decide (v.page ≤ x.2.2 / 1024) && decide (x.2.2 / 1024 < v.page + v.count)))
/-- R282: what no agent uses any more goes. -/
def invalidate (s : State) (v : Inval) : State :=
  let s := { s with tlb := s.tlb.filter fun t => !invHits s v t, icache := s.icache.filter fun x => !icHits v x }
  if v.ats.isSome then s
  else match v.scope with
    | 0 => s
    | 1 => loadShadow s v.ctx
    | _ => (s.ctxs.map (·.num)).foldl loadShadow s
/-- INVALIDATION_COMPLETE: the oldest invalidation is done. -/
def execInvalidationComplete (s : State) : Host.Outcome State Fault Refusal :=
  match s.inval with
  | [] => .refused .notEnabled
  | v :: r =>
    let s := invalidate { s with inval := r } v
    match v.ats with
    | some p => .next { s with hostOut := s.hostOut ++ [.invalidateCompletion p] }
    | none => .next ((s.setHostF 0x300008 63 63 0).setHostF 0x300008 62 62 1)

end Sys2Proof.Machine
end

