-- ==== Sys2Proof/Machine/MemCtl.lean ====
section
/-! DEFINITION. The memory controllers: slot tables and slots (R287 to R289). -/
namespace Sys2Proof.Machine

/-- R287: the registers of a channel. -/
def mcBase (stack ch : Nat) : Nat := devAddr (13 + stack) (0x100000 + 0x100 * ch)
/-- R287: the shadow slot table, as written. -/
def mcShadow (s : State) (stack ch : Nat) : List Quad := (List.range 8).map fun k => s.reg (mcBase stack ch + 0x10 + 8 * k)
/-- A channel; one that nothing touched is idle. -/
def State.chan (s : State) (stack ch : Nat) : Chan := (s.chans.find? fun c => c.stack == stack && c.ch == ch).getD (Chan.idle stack ch)
def State.setChan (s : State) (c : Chan) : State :=
  { s with chans := c :: s.chans.filter fun x => !(x.stack == c.stack && x.ch == c.ch) }
/-- R287: COMMIT takes effect at the channel's next slot 0. -/
def mcCommit (s : State) (stack ch : Nat) : State := s.setDev (mcBase stack ch) (s.reg (mcBase stack ch) ||| 0x100)
/-- R287: owner of slot n: none for a free slot. -/
def slotOwner (live : List Quad) (n : Nat) : Option Nat :=
  let b := bitsOf (live.getD (n / 8) 0).toNat (8 * (n % 8) + 7) (8 * (n % 8))
  if 128 ≤ b then some (b % 16) else none
/-- R287: entries of a partition's queue on a channel. -/
def queueDepth (s : State) (stack ch part : Nat) : Nat := bitsOf (s.reg (mcBase stack ch + 8)).toNat (4 * part + 3) (4 * part) + 1
/-- R289: a request that goes through one sub-channel. -/
def ChanReq.half (r : ChanReq) : Option Nat :=
  if r.size ≤ 64 ∧ r.addr % 128 / 64 = (r.addr + r.size - 1) % 128 / 64 then some (r.addr % 128 / 64) else none
/-- R288, R289: a partition is served: the head of its queue, and a second request in the other sub-channel. -/
def serve (part : Nat) (c : Chan) : Chan :=
  let mine := c.queue.filter fun r => r.part == part
  match mine with
  | [] => c
  | a :: r =>
    let b := match r with
      | b :: _ => (match a.half, b.half with | some x, some y => if x != y then [b] else [] | _, _ => [])
      | [] => []
    { c with queue := b.foldl (fun q x => q.erase x) (c.queue.erase a) }
/-- R288: the partition that a donated slot goes to: cyclically after the last one, among those that wait. -/
def donee (c : Chan) : Option Nat :=
  ((List.range 16).map fun i => (c.lastDon + 1 + i) % 16).find? fun p => c.queue.any fun r => r.part == p
/-- R287, R288: one slot of a channel. -/
def channelSlot (s : State) (stack ch : Nat) : State :=
  let c := s.chan stack ch
  let ctl := s.reg (mcBase stack ch)
  let s := if c.slot = 0 ∧ ctl.getLsbD 8 then s.setDev (mcBase stack ch) (ctl &&& ~~~(0x100 : Quad)) else s
  let c := if c.slot = 0 ∧ ctl.getLsbD 8 then { c with live := mcShadow s stack ch } else c
  let own := slotOwner c.live c.slot
  let busy := match own with | some p => c.queue.any fun r => r.part == p | none => false
  let c :=
    if busy then serve (own.getD 0) c
    else if ctl.getLsbD 0 then c
    else match donee c with | some p => { serve p c with lastDon := p } | none => c
  s.setChan { c with slot := (c.slot + 1) % 64 }
/-- R288: a request joins its partition's queue when that has room. -/
def joinQueue (s : State) (stack ch : Nat) (r : ChanReq) : Option State :=
  let c := s.chan stack ch
  if queueDepth s stack ch r.part ≤ (c.queue.filter fun x => x.part == r.part).length then none
  else some (s.setChan { c with queue := c.queue ++ [r] })
/-- R289: the request for the bytes that an instruction touches in one aligned block of 128 bytes: the smallest aligned span of 16, 32,
64 or 128 bytes that holds them all. -/
def blockSpan (block : Nat) (touched : List Nat) : Nat × Nat :=
  let mine := touched.filter fun a => a / 128 == block
  let lo := mine.foldl Nat.min (128 * block + 127)
  let size := ([16, 32, 64].find? fun n => mine.all fun a => a / n == lo / n).getD 128
  (lo / size * size, size)
/-- R288: the partition of a request on a channel: its context's, or SYSPART of one that belongs to no context. -/
def partOf (s : State) (stack ch : Nat) : Option Nat → Nat
  | some n => bitsOf ((s.ctx n).xl 1) 23 20
  | none => bitsOf (s.reg (mcBase stack ch)).toNat 7 4
/-- R288, R289: the requests for the DRAM bytes that one instruction, walk or unit touches join their queues; none while a queue is full,
which holds the access at its home slice. -/
def dramRequest (s : State) (ctx : Option Nat) (touched : List Nat) : Option State :=
  if touched.isEmpty || !touched.all isDram then none
  else ((touched.map fun a => a / 128).eraseDups).foldl (fun (r : Option State) b => r.bind fun s =>
    let q := blockSpan b touched
    let st := stackOf (128 * b)
    let ch := channelOf (128 * b)
    joinQueue s st ch ⟨partOf s st ch ctx, q.1, q.2⟩) (some s)
/-- MC_COMMIT. -/
def execMcCommit (stack ch : Nat) (s : State) : Host.Outcome State Fault Refusal :=
  if 12 ≤ stack ∨ 32 ≤ ch then .refused .notEnabled else .next (mcCommit s stack ch)
/-- CHANNEL_SLOT. -/
def execChannelSlot (stack ch : Nat) (s : State) : Host.Outcome State Fault Refusal :=
  if 12 ≤ stack ∨ 32 ≤ ch then .refused .notEnabled else .next (channelSlot s stack ch)

end Sys2Proof.Machine
end

