-- ==== Sys2Proof/Machine/Kernel.lean ====
section
/-! DEFINITION. Kernel descriptors, priority maps and code segments (R78, R222, R225, R250, R390), and spans of physical memory
read and written whole. -/
namespace Sys2Proof.Machine

/-! ### Spans of memory -/

/-- Bytes as cells from 0 on. -/
def memOfBytes (bs : List Byte) : Mem := (bs.zipIdx).filterMap fun x => if x.1 = 0 then none else some (x.2, x.1)

/-- Every byte is where its address says: no migration and no live stack fence moves it. -/
def State.still (s : State) : Bool := s.mig.isEmpty && s.ras.stkLive.isNone && bitsOf (s.host 0x910018).toNat 63 61 == 0
/-- n bytes from a key on, as cells from 0 on. -/
def State.section (s : State) (k n : Nat) : Mem :=
  if s.still then s.mem.section k n else Mem.store [] 0 (s.physRead k n)
/-- Nothing of the memory system is fenced, off or retired, and the CXL window is backed in one part. -/
def State.whole (s : State) : Bool :=
  s.plat.fenced.isEmpty && s.plat.islandsOff.isEmpty && decide (s.plat.cxl.length ≤ 1) && (s.host 0x910008 == 0)
    && !(s.dev.any fun x => decide (devAddr 0 0x900000 ≤ x.1) && decide (x.1 < devAddr 0 0x910000) && x.2.getLsbD 0)
/-- Some byte of the span has no memory that answers. -/
def State.spanBad (s : State) (k n : Nat) : Bool :=
  n != 0 && (s.busError k || s.busError (k + n - 1)
    || (!s.whole && (List.range ((k + n - 1) / 128 + 1 - k / 128)).any fun i => s.busError (k / 128 * 128 + 128 * i)))
/-- R285: a span in parts that no migrating frame divides: the key of each at its point of service, and its bytes. -/
def State.pieces (s : State) (k n : Nat) : List (Nat × Nat) :=
  if s.mig.isEmpty ∨ n = 0 then [(k, n)]
  else (List.range ((k + n - 1) / 32768 + 1 - k / 32768)).map fun i =>
    let a := Nat.max k ((k / 32768 + i) * 32768)
    (s.service a, Nat.min (k + n) ((k / 32768 + i + 1) * 32768) - a)
/-- The spans [a, a + n) and [b, b + m) meet. -/
def spansMeet (a n b m : Nat) : Bool := n != 0 && m != 0 && decide (a < b + m) && decide (b < a + n)
/-- Some byte of the span is poisoned at its point of service. -/
def State.spanPoison (s : State) (k n : Nat) : Bool :=
  (s.pieces k n).any fun p =>
    if isVault p.1 then s.ras.vaultPoison.any (spansMeet p.1 p.2 · 128)
    else s.ras.poison.any (spansMeet p.1 p.2 · 64) || s.ras.poisonLines.any (spansMeet p.1 p.2 · 128)
/-- R358, R363: a write of the span meets a bus error: no memory answers some byte of it, a dirty line of it is lost, or it covers only
part of a poisoned granule. -/
def State.writeBad (s : State) (k n : Nat) : Bool :=
  s.spanBad k n || (s.pieces k n).any fun p => !isVault p.1 && (s.ras.poisonLines.any (spansMeet p.1 p.2 · 128)
    || s.ras.poison.any fun g => spansMeet p.1 p.2 g 64 && !(decide (p.1 ≤ g) && decide (g + 64 ≤ p.1 + p.2)))
/-- A unit of memory or a vault meets the span. -/
def unitMeets (x : Ctx) (k n : Nat) (u : CkUnit) : Bool :=
  match unitSpan x u with | some p => spansMeet k n p.1 p.2 | none => false
/-- R328: the protected units that a span meets, with their contexts. -/
def State.spanUnits (s : State) (k n : Nat) : List (Nat × CkUnit) :=
  (s.pieces k n).flatMap fun p => s.ctxs.flatMap fun c => (c.ckpt.protect.filter (unitMeets c p.1 p.2)).map fun u => (c.num, u)
/-- R362: the lines of a part of a span become dirty for a context; for none they are written back and stay clean. -/
def ownSpan (s : State) (ctx : Option Nat) (a n : Nat) : State :=
  match ctx with
  | some c => if isVault a then s else (List.range ((a + n - 1) / 128 + 1 - a / 128)).foldl (fun s i => ownLine s c ((a / 128 + i) * 128)) s
  | none => { s with ras := { s.ras with dirty := s.ras.dirty.filter fun d => !spansMeet a n d.line 128 } }
/-- R249: the owned bits of the words of a part of a span are revoked in every L1; the words stay valid. -/
def revokeSpan (s : State) (a n : Nat) : State :=
  let mask (l : Nat) : BitVec 32 := (List.range 32).foldl (fun m i => if spansMeet a n (l + 4 * i) 4 then m ||| (1 : BitVec 32) <<< i else m) 0
  { s with l1 := s.l1.map fun x => if spansMeet a n (s.service x.line) 128 then { x with owned := x.owned &&& ~~~mask (s.service x.line) } else x }
/-- A span of physical memory written by a unit of the module: protections over it are lifted (R328), its lines change their owner
(R362), no L1 owns a word of it, and whole granules lose their poison (R363). -/
def State.spanWrite (s : State) (ctx : Option Nat) (k n : Nat) (x : Mem) : State :=
  let s := (s.spanUnits k n).foldl (fun s u => liftProtection s u.1 u.2) s
  let ps := s.pieces k n
  let s := ps.foldl (fun s p => revokeSpan (ownSpan (breakLock s p.1 p.2) ctx p.1 p.2) p.1 p.2) s
  let whole (g : Nat) : Bool := ps.any fun p => decide (p.1 ≤ g) && decide (g + 64 ≤ p.1 + p.2)
  let s := { s with ras := { s.ras with poison := s.ras.poison.filter fun g => !whole g } }
  if s.still then { s with mem := s.mem.overwrite k n x } else s.putBytes k (x.bytes 0 n)
/-- R328: a write of the span must wait: it meets more protected pages than the pool has free pages, or bytes that an earlier write
waits for. -/
def State.spanHeld (s : State) (k n : Nat) : Bool :=
  let us := (s.spanUnits k n).eraseDups.filter fun p => match p.2 with | .page _ _ => true | _ => false
  let used := (s.ctxs.flatMap fun x => x.ckpt.old.filterMap fun o => o.2.2).length
  (!us.isEmpty && decide (s.hostF 0x700038 31 0 < used + us.length)) || s.lateWrites.any fun h => spansMeet k n h.key h.len
/-- A span written for a context or for none, now or when the pool has a page. -/
def State.writeFor (s : State) (ctx : Option Nat) (k n : Nat) (x : Mem) : State :=
  if s.spanHeld k n then { s with lateWrites := s.lateWrites ++ [⟨ctx, k, n, x⟩] } else s.spanWrite ctx k n x
/-- A span written for no context. -/
def State.blockWrite (s : State) (k n : Nat) (x : Mem) : State := s.writeFor none k n x
/-- R328: writes that waited are performed, in order, where they need not wait any more. -/
def settleWrites (s : State) : State :=
  if s.lateWrites.isEmpty then s
  else s.lateWrites.foldl (fun s h => s.writeFor h.ctx h.key h.len h.data) { s with lateWrites := [] }

/-! ### Shapes: R78, R222, R225 -/

/-- R225: warp slots of a crew. -/
def shapeSlots (sh : Shape) : Nat :=
  match sh.width with
  | 0 => ceilDiv sh.crew 32
  | 8 => ceilDiv sh.crew 16
  | 128 => 2 * (sh.crew / 128)
  | w => ceilDiv sh.crew w
/-- R75, R16, R222, R225: the limits of a shape. -/
def shapeLegal (sh : Shape) : Bool :=
  [0, 8, 16, 32, 64, 128].contains sh.width && decide (16 ≤ sh.regs) && decide (sh.regs ≤ 256) && sh.regs % 16 == 0
    && decide (8 ≤ sh.preds) && decide (sh.preds ≤ 96) && sh.preds % 8 == 0 && decide (sh.links ≤ 16) && decide (sh.tiles ≤ 32)
    && decide (sh.scratch ≤ 262144) && sh.scratch % 128 == 0 && decide (1 ≤ sh.crew) && decide (sh.crew ≤ 2048)
    && (sh.width == 0 || sh.crew % sh.width == 0) && decide (sh.crew * sh.regs * 4 ≤ 2 ^ 20)
    && decide (1 ≤ sh.qgroup) && decide (sh.qgroup ≤ 4) && decide (1 ≤ sh.dgroup) && decide (sh.dgroup ≤ 16) && decide (shapeSlots sh ≤ 64)
/-- R78: Omlyn header bytes 0x00 to 0x17. -/
def shapeBytes (sh : Shape) : List Byte :=
  leBytes 4 0x4E594C4F ++ leBytes 2 1 ++ leBytes 1 sh.width ++ [0] ++ leBytes 2 sh.regs ++ leBytes 1 sh.preds ++ leBytes 1 sh.links
    ++ leBytes 1 sh.tiles ++ [0] ++ leBytes 2 sh.crew ++ leBytes 4 sh.scratch ++ leBytes 1 sh.qgroup ++ leBytes 1 sh.dgroup ++ [0, 0]
/-- The same read back; none where they are no legal shape. -/
def shapeOfBytes (b : List Byte) : Option Shape :=
  let n (a k : Nat) : Nat := sliceNat b a k
  let sh : Shape := ⟨n 6 1, n 8 2, n 10 1, n 11 1, n 12 1, n 14 2, n 16 4, n 20 1, n 21 1⟩
  if shapeBytes sh = b ∧ shapeLegal sh then some sh else none

/-- Crews of a launch: R222, R223. -/
def crewTotal (k : Kernel) (g : Nat) : Nat := g * k.shape.dgroup * k.shape.qgroup

/-! ### A context's translations outside issue -/

/-- R268: the values a context would translate by: those it took up, or its shadow while it is not bound. -/
def xlatCtx (s : State) (n : Nat) : Ctx :=
  let x := s.ctx n
  if x.bound then x else { x with xlat := (List.range 13).map fun i => s.host (xlatOff n + 8 * i) }
/-- The key of a virtual address, if its page is present. -/
def vaKey (s : State) (x : Ctx) (va : Nat) : Option Nat :=
  if x.inWindow va then
    let k := (va : Int) + sInt 64 (x.xl 4)
    if k < 0 ∨ s.busError k.toNat then none else some k.toNat
  else
    match walk s va 4 1 (bitsOf (x.xl 0) 51 8 * 2 ^ 8) with
    | .ok (leaf, level) => (leafKey leaf level va none).filter fun k => !s.busError k
    | .error _ => none
/-- Bytes at a virtual address; none where a page is not present, or a byte answers with a bus error (R358). -/
def vaRead (s : State) (x : Ctx) (va n : Nat) : Option (List Byte) :=
  (pageSpans (n / 32768 + 2) va n).foldl (fun r y => match r, vaKey s x y.1 with
    | some bs, some k => if s.spanBad k y.2 || s.spanPoison k y.2 then none else some (bs ++ s.physRead k y.2)
    | _, _ => none) (some [])

/-! ### Units: R323 -/

/-- R323: the unit belongs to a checkpoint: shared CXL ranges and host frames never do. -/
def eligible (s : State) : CkUnit → Bool
  | .page _ f => (isDram f || isCxl f) && !s.isShared f
  | _ => true
/-- R323: the frame that a virtual page has now, or had when it was written. -/
def pageNow (s : State) (x : Ctx) : CkUnit → CkUnit
  | .page v f => .page v ((vaKey s x (v * 32768)).getD f)
  | u => u
/-- The units of a list, each once. -/
def unitSet (us : List CkUnit) : List CkUnit := us.foldl (fun r u => if r.contains u then r else r ++ [u]) []
def isRowUnit (u : CkUnit) : Bool := match u with | .row _ _ _ => true | _ => false
/-- R269, R323: pages that a table maps to memory, found from its entries that are not zero. -/
def tablePages (s : State) : Nat → Nat → Nat → Nat → List CkUnit
  | 0, _, _, _ => []
  | fuel + 1, level, va, table =>
    let n := if level = 1 then 256 else 32768
    let span := match level with | 1 => 2 ^ 51 | 2 => 2 ^ 39 | 3 => 2 ^ 27 | _ => 2 ^ 15
    let idx := ((s.section table n).map fun c => c.1 / 8).eraseDups
    idx.flatMap fun i =>
      let x := s.physNat (table + 8 * i) 8
      let va := va + i * span
      if s.busError (table + 8 * i) || !entV x || entMalformed x level then []
      else if !entLeaf x then tablePages s fuel (level + 1) va (entAddr x)
      else if entTgt x ≠ 0 then []
      else (List.range (span / 32768)).filterMap fun j =>
        match leafKey x level (va + j * 32768) none with
        | some k => if s.busError k then none else some (.page (va / 32768 + j) k)
        | none => none
/-- R273: the pages of the window. -/
def windowPages (s : State) (x : Ctx) : List CkUnit :=
  (List.range (x.xl 3 / 32768)).filterMap fun i =>
    let va := x.xl 2 + 32768 * i
    if x.inWindow va then (vaKey s x va).map fun k => .page (va / 32768) k else none
/-- R326: vault lines below the staging reserve. -/
def vaultLines (x : Ctx) : Nat := 65536 - 512 * x.vres
/-- R320: every vault line and every page of a context, as FULL takes them. -/
def fullMemory (s : State) (x : Ctx) : List CkUnit :=
  let pages := (tablePages s 4 1 0 (bitsOf (x.xl 0) 51 8 * 2 ^ 8)).filter fun u => match u with
    | .page v _ => !x.inWindow (v * 32768)
    | _ => false
  ((x.quadMap.zipIdx).filter fun q => decide (q.1 < Config.quads)).flatMap (fun q => (List.range (vaultLines x)).map fun l => .vault q.2 l)
    ++ ((windowPages s x ++ pages).filter (eligible s))
/-! ### Descriptors: R390 -/

/-- R390: the priority map; none where it breaks a limit. -/
def prioMap (codeVA : Nat) (b : List Byte) (n : Nat) : Option (List (Nat × Nat)) :=
  let xs := (List.range n).map fun i => sliceNat b (8 * i) 8
  let rec rising : List Nat → Bool
    | a :: c :: r => decide (bitsOf a 55 0 < bitsOf c 55 0) && rising (c :: r)
    | _ => true
  if n = 0 ∨ 256 < n ∨ (xs.headD 0) % 2 ^ 56 ≠ codeVA ∨ !rising xs ∨ xs.any (fun x => decide (2 ^ 60 ≤ x)) then none
  else some (xs.map fun x => (x % 2 ^ 56, bitsOf x 59 56))
/-- R250: the bytes of a page of the code segment taken into the kernel. -/
def takePage (s : State) (x : Ctx) (k : Kernel) (page : Nat) : Kernel :=
  let lo := Nat.max (page * 32768) k.codeVA
  let hi := Nat.min ((page + 1) * 32768) (k.codeVA + k.codeLen)
  if hi ≤ lo ∨ k.pages.contains page then k
  else match vaKey s x lo with
    | some a => { k with code := k.code.overwrite (lo - k.codeVA) (hi - lo) (s.section a (hi - lo)), pages := page :: k.pages }
    | none => k
/-- R390: a kernel read from its descriptor for a context; none where the descriptor breaks a limit, or gives the program counter an
address that is no multiple of 4 (R52; log entry 138). -/
def readKernel (s : State) (ctx desc : Nat) : Option Kernel :=
  if desc % 128 ≠ 0 ∨ s.spanBad desc 128 ∨ s.spanPoison desc 128 then none
  else
    let b := s.physRead desc 128
    let n (a k : Nat) : Nat := sliceNat b a k
    let x := xlatCtx s ctx
    let zero := n 0x0C 4 == 0 && n 0x1C 4 == 0 && n 0x38 8 == 0 && n 0x56 2 == 0 && n 0x60 32 == 0
    let aligned := n 0 8 % 4 == 0 && n 0x40 8 % 4 == 0 && n 0x48 8 % 4 == 0
    match shapeOfBytes ((b.drop 0x20).take 24), vaRead s x (n 0x58 8 % 2 ^ 56) (8 * Nat.min (n 0x54 2) 257) with
    | some sh, some m =>
      match prioMap (n 0 8) m (n 0x54 2) with
      | some p =>
        if !zero ∨ !aligned ∨ 2 ^ 56 ≤ n 0 8 then none
        else
          let k : Kernel := ⟨desc, n 0 8, n 8 4, BitVec.ofNat 64 (n 0x10 8), sh, n 0x40 8, n 0x48 8, BitVec.ofNat 32 (n 0x50 4), p, [], []⟩
          let pages := (List.range (n 8 4 / 32768 + 2)).map fun i => n 0 8 / 32768 + i
          some (pages.foldl (takePage s x) k)
      | none => none
    | _, _ => none
/-- R250: a kernel as it was loaded, while an accepted launch or a bound crew of the context uses it. -/
def State.loaded (s : State) (ctx desc : Nat) : Option Kernel :=
  match (s.launches.filter fun l => l.ctx == ctx && l.kdesc == desc).findSome? (·.kernel) with
  | some k => some k
  | none => (s.crews.find? fun c => c.ctx == ctx && c.kernel.desc == desc).map (·.kernel)
/-- R250, R390: the kernel of a descriptor: what is loaded stays as it is until its last launch has completed. -/
def loadKernel (s : State) (ctx desc : Nat) : Option Kernel :=
  match s.loaded ctx desc with | some k => some k | none => readKernel s ctx desc
/-- R250: a page of code taken by every crew and launch that uses the kernel. -/
def State.takeCode (s : State) (ctx : Nat) (k : Kernel) (page : Nat) : State :=
  if k.pages.contains page then s
  else
    let q := takePage s (s.ctx ctx) k page
    { s with crews := s.crews.map fun c => if c.ctx = ctx ∧ c.kernel.desc = k.desc then { c with kernel := q } else c
             launches := s.launches.map fun l => if l.ctx = ctx ∧ l.kdesc = k.desc ∧ l.kernel.isSome then { l with kernel := some q } else l }

end Sys2Proof.Machine
end

