-- ==== Sys2Proof/Machine/Migration.lean ====
section
/-! DEFINITION. Tier migration (R284 to R286). -/
namespace Sys2Proof.Machine

/-- R284: the frame that a slot register names; none where it may not migrate. -/
def migFrame (s : State) (x : Quad) : Option Nat :=
  let a := entAddr x.toNat
  match entTgt x.toNat with
  | 0 => if (isDram a || s.backed a) && !s.isShared a then some a else none
  | 1 => if bitsOf x.toNat 30 23 < 160 ∧ bitsOf x.toNat 51 31 = 0 then some (vaultKey (bitsOf x.toNat 30 23) (bitsOf x.toNat 22 15 * 2 ^ 15)) else none
  | _ => none
def migState (s : State) (slot : Nat) : Nat := s.hostF (migOff slot + 0x10) 63 61
/-- R284: GO starts a copy from idle; in any other STATE it does nothing (log entry 24). -/
def migGo (s : State) (slot : Nat) : State :=
  let st (x : Nat) (s : State) : State := s.setHostF (migOff slot + 0x10) 63 61 x
  if migState s slot ≠ 0 then s
  else
    match migFrame s (s.host (migOff slot)), migFrame s (s.host (migOff slot + 8)) with
    | some a, some b =>
      if a = b ∨ (s.mig.any fun m => m.src == a || m.dst == a || m.src == b || m.dst == b) then st 4 s
      else st 1 { s with mig := s.mig ++ [⟨slot, a, b, 0⟩] }
    | _, _ => st 4 s
/-- R285: the next line copied at its old home; the slot fails on an uncorrectable line. -/
def migCopy (s : State) (slot : Nat) : Option State :=
  match s.mig.find? fun m => m.slot == slot with
  | none => none
  | some m =>
    if 256 ≤ m.copied then none
    else
      let a := m.src + 128 * m.copied
      if s.poisoned a 128 then
        some ({ s with mig := s.mig.filter fun x => x.slot != slot }.setHostF (migOff slot + 0x10) 63 61 3)
      else
        let bs := (List.range 128).map fun i => s.mem.read (s.backing (a + i))
        let b := m.dst + 128 * m.copied
        let mem := (bs.zipIdx).foldl (fun mm x => Mem.write mm (s.backing (b + x.2)) x.1) s.mem
        let s := { s.clearPoison [b, b + 64] with mem := mem, mig := s.mig.map fun x => if x.slot = slot then { x with copied := x.copied + 1 } else x }
        some (if m.copied + 1 = 256 then s.setHostF (migOff slot + 0x10) 63 61 2 else s)
/-- R324: units of the old frame are known by the new one. -/
def moveUnit (src dst : Nat) (u : CkUnit) : CkUnit := match u with | .page v f => if f = src then .page v dst else u | u => u
/-- R323: the units by which a context knows a frame: the vault lines of a logical quad, or the virtual page that leads to it. -/
def frameUnits (s : State) (x : Ctx) (f : Nat) (v : Option Nat) : List CkUnit :=
  match (if isVault f then x.logicalQuad ((f - 2 ^ 52) / 2 ^ 23) else none) with
  | some l => (List.range 256).map fun i => .vault l (f % 2 ^ 23 / 128 + i)
  | none =>
    match v with
    | some v => [.page v f]
    | none => (fullMemory s x).filter fun u => match u with | .page _ g => g == f | _ => false
/-- R324: the place of a line of the old frame among the vault lines of a context. -/
def vaultUnitIn (x : Ctx) (src : Nat) : CkUnit → Option Nat
  | .vault l i => match unitSpan x (.vault l i) with
    | some p => if isVault src && decide (src ≤ p.1) && decide (p.1 < src + 32768) then some ((p.1 - src) / 128) else none
    | none => none
  | _ => none
/-- R324: what a dirty unit of the old frame is in the new one. -/
def carryUnit (s : State) (x : Ctx) (src dst : Nat) (u : CkUnit) : List CkUnit :=
  match u, vaultUnitIn x src u with
  | .page v f, _ => if f = src then frameUnits s x dst (some v) else [u]
  | _, some i => match (if isVault dst then (frameUnits s x dst none)[i]? else none) with
    | some u => [u]
    | none => frameUnits s x dst none
  | u, none => [u]
/-- R324, R328: protected vault lines of the old frame are kept for their stream before the frame moves. -/
def keepVaultLines (s : State) (src : Nat) : State :=
  s.ctxs.foldl (fun s x => (x.ckpt.protect.filter fun u => (vaultUnitIn x src u).isSome).foldl (fun s u => liftProtection s x.num u) s) s
/-- R286, R324: END of a mirrored slot: L1 copies of the old frame go, and marks move to the new frame. A line of the new frame is
owned by whoever owned the old one. -/
def migEnd (s : State) (slot : Nat) : State :=
  match s.mig.find? fun m => m.slot == slot with
  | none => s
  | some m =>
    if migState s slot ≠ 2 then s
    else
      let s := keepVaultLines s m.src
      let inOld (line : Nat) : Bool := decide (m.src ≤ line) && decide (line < m.src + 32768)
      let mv (line : Nat) : Nat := if inOld line then line - m.src + m.dst else line
      let mvDirty (d : DirtyLine) : DirtyLine := { d with line := mv d.line }
      let mvCtx (x : Ctx) : Ctx :=
        { x with firstBits := x.firstBits.map mv
                 ckpt := { x.ckpt with dirty := unitSet (x.ckpt.dirty.flatMap (carryUnit s x m.src m.dst))
                                       streaming := unitSet (x.ckpt.streaming.flatMap (carryUnit s x m.src m.dst))
                                       protect := x.ckpt.protect.map (moveUnit m.src m.dst)
                                       old := x.ckpt.old.map fun o => (moveUnit m.src m.dst o.1, o.2)
                                       shards := x.ckpt.shards.map fun h => { h with members := h.members.map (moveUnit m.src m.dst) } } }
      { s with mig := s.mig.filter fun x => x.slot != slot, l1 := s.l1.filter fun x => !inOld x.line
               ctxs := s.ctxs.map mvCtx
               ras := { s.ras with dirty := (s.ras.dirty.map mvDirty).filter fun d => !isVault d.line } }.setHostF (migOff slot + 0x10) 63 61 0
/-- MIGRATION_GO. -/
def execMigrationGo (slot : Nat) (s : State) : Host.Outcome State Fault Refusal :=
  if 16 ≤ slot then .refused .notEnabled else .next (migGo s slot)
/-- MIGRATION_LINE_COPY. -/
def execMigrationLineCopy (slot : Nat) (s : State) : Host.Outcome State Fault Refusal :=
  match migCopy s slot with | some s => .next s | none => .refused .notEnabled
/-- MIGRATION_END. -/
def execMigrationEnd (slot : Nat) (s : State) : Host.Outcome State Fault Refusal :=
  if 16 ≤ slot then .refused .notEnabled else .next (migEnd s slot)

end Sys2Proof.Machine
end

