-- ==== Sys2Proof/Machine/Millet.lean ====
section
/-! DEFINITION. Millet: forming, refilling and handing off warps of width-free crews (R229, R232 to R236). -/
namespace Sys2Proof.Machine

/-- R232: the older of two records. -/
def PoolRec.older (a b : PoolRec) : Bool := decide (a.cycle < b.cycle) || (a.cycle == b.cycle && decide (a.tid < b.tid))
/-- The oldest record of a list. -/
def oldest (l : List PoolRec) : Option PoolRec :=
  l.foldl (fun b x => match b with | none => some x | some y => if x.older y then some x else some y) none
/-- R17: home lanes. -/
def homeLane (tid : Nat) : Nat := tid % 32
/-- R234: the bin holds a record for every lane position. -/
def Bin.full (b : Bin) : Bool := (List.range 32).all fun l => b.recs.any fun r => homeLane r.tid == l
def Bin.eligible (cycle : Nat) (b : Bin) : Bool :=
  b.full || (match oldest b.recs with | some r => decide (r.cycle + 64 ≤ cycle) | none => false)
/-- R225, R234: the lowest free warp slot of a width-free crew. -/
def freeSlot (c : Crew) : Option Nat :=
  (List.range (ceilDiv c.kernel.shape.crew 32)).find? fun i => !c.warps.any fun w => w.wid == i
/-- R234: the eligible bin that holds the oldest binned record, with its number. -/
def pickBin (cycle : Nat) (c : Crew) : Option (Nat × Bin) :=
  (c.bins.zipIdx).foldl (fun b x =>
    match x.1 with
    | none => b
    | some y =>
      if !y.eligible cycle then b
      else match b, oldest y.recs with
        | none, _ => some (x.2, y)
        | some z, some r => (match oldest z.2.recs with | some q => if r.older q then some (x.2, y) else b | none => b)
        | _, none => b) none
/-- Records leave a bin. -/
def takeRecs (i : Nat) (out : List PoolRec) (c : Crew) : Crew :=
  poolSettle 16 { c with bins := c.bins.modify i fun x => x.map fun b => { b with recs := b.recs.filter fun r => !out.contains r } }
/-- R229, R234: a warp with one entry. -/
def newWarp (wid : Nat) (lanes : List (Option Nat)) (eid : Nat) (pc : BitVec 56) (prio : Nat) (consts : List Quad) : Warp :=
  { wid := wid, lanes := lanes
    entries := [⟨eid, pc, maskOf ((List.range lanes.length).filter fun i => (lanes.getD i none).isSome), prio, .none, [], 0⟩]
    s := consts, joins := List.replicate 8 ⟨0, 0⟩, trap := none, trapEid := 0, handler := none, micro := none, stall := none
    away := none, migWait := none, cpy := none, waiting := 0 }
/-- POOL_CYCLE: R234. -/
def execPoolCycle (crew : Nat) (s : State) : Host.Outcome State Fault Refusal :=
  match s.crew? crew with
  | none => .refused .notEnabled
  | some c =>
    if c.kernel.shape.width ≠ 0 ∨ !Crew.runs s c then .refused .notEnabled
    else
      match freeSlot c, pickBin s.cycle c with
      | some wid, some (i, b) =>
        let pick := (List.range 32).map fun l => oldest (b.recs.filter fun r => homeLane r.tid == l)
        let out := pick.filterMap id
        let w := newWarp wid (pick.map fun r => r.map (·.tid)) s.uid b.key ((out.head?.map (·.prio)).getD 0) c.consts
        let c := takeRecs i out c
        .next { s.setCrew { c with warps := c.warps ++ [w] } with uid := s.uid + 1 }
      | _, _ => .refused .notEnabled
/-- R235: the binned records that may refill a lane of a warp, with their bins. -/
def refillOf (c : Crew) (w : Warp) (lane : Nat) : List (Nat × PoolRec) :=
  (c.bins.zipIdx).flatMap fun x => match x.1 with
    | none => []
    | some b => if w.entries.any fun e => e.hold == .none && e.pc == b.key then
        (b.recs.filter fun r => homeLane r.tid == lane).map fun r => (x.2, r) else []
/-- LANE_REFILL: R235. -/
def execLaneRefill (crew wid lane : Nat) (s : State) : Host.Outcome State Fault Refusal :=
  match s.crew? crew with
  | none => .refused .notEnabled
  | some c =>
    match c.warp? wid with
    | none => .refused .notEnabled
    | some w =>
      if c.kernel.shape.width ≠ 0 ∨ !Crew.runs s c ∨ w.away.isSome ∨ 32 ≤ lane ∨ (w.lanes.getD lane none).isSome then .refused .notEnabled
      else
        let xs := refillOf c w lane
        match oldest (xs.map (·.2)) with
        | none => .refused .notEnabled
        | some r =>
          let i := ((xs.find? fun x => x.2 == r).map (·.1)).getD 0
          let w := { w with lanes := w.lanes.set lane (some r.tid), entries := placeLanes c.kernel s.uid r.pc (maskOf [lane]) w.entries }
          .next (s.setCrew ((takeRecs i [r] c).setWarp w))
/-- IDLE_HANDOFF: R236. -/
def execIdleHandoff (crew wid entry : Nat) (s : State) : Host.Outcome State Fault Refusal :=
  match s.crew? crew with
  | none => .refused .notEnabled
  | some c =>
    match c.warp? wid with
    | none => .refused .notEnabled
    | some w =>
      match w.entries.find? fun e => e.eid == entry with
      | none => .refused .notEnabled
      | some e =>
        if c.kernel.shape.width ≠ 0 ∨ !Crew.runs s c ∨ w.away.isSome ∨ e.hold ≠ .none ∨ e.idle < 256 ∨ !(c.bins.any fun b : Option Bin => b.isNone)
            ∨ w.joined e.mask then .refused .notEnabled
        else
          let c := c.setWarp (emptyLanes e.mask w)
          .next (s.setCrew (freeSlots (lanesToPool c.kernel s.cycle e.pc (some e.prio) ((w.lanesIn e.mask).map (·.2)) c)))

end Sys2Proof.Machine
end

