-- ==== Sys2Proof/Machine/Bind.lean ====
section
/-! DEFINITION. Placement and binding: resources and bases (R225 to R227, R397), what a context takes up at binding (R268, R326,
R398), the state of a launch (R224, R392), and the freeing of crews. -/
namespace Sys2Proof.Machine

/-! ### Resources: R225, R397 -/

/-- Resource spans of a crew: register file (1 KiB units), scratchpad (128-byte units), warp slots, and tiles of the quad. -/
structure Bases where
  reg : Nat
  scr : Nat
  ws : Nat
  tile : Nat
  deriving DecidableEq, Repr
def regUnits (sh : Shape) : Nat := ceilDiv (sh.crew * sh.regs * 4) 1024
def scrUnits (sh : Shape) : Nat := ceilDiv sh.scratch 128
/-- The bases that a bind record names. -/
def basesOf (q0 q1 : Quad) : Bases := ⟨bitsOf q1.toNat 31 22, bitsOf q1.toNat 21 11, bitsOf q1.toNat 10 5, bitsOf q0.toNat 27 21⟩
def crewBases (s : State) (c : Crew) : Bases :=
  basesOf (s.devD (bindAddr c.core c.slot) 0) (s.devD (bindAddr c.core c.slot + 8) 0)
/-- A resource of n units from base b is free of the spans that other crews hold. -/
def spanFree (s : State) (p : Crew → Bool) (span : Crew → Nat × Nat) (b n : Nat) : Bool :=
  !s.crews.any fun c => p c && spansMeet b n (span c).1 (span c).2
def onCore (core : Nat) (c : Crew) : Bool := c.core == core
def fitReg (s : State) (core : Nat) (sh : Shape) (b : Nat) : Bool :=
  decide (b + regUnits sh ≤ 1024) && spanFree s (onCore core) (fun c => ((crewBases s c).reg, regUnits c.kernel.shape)) b (regUnits sh)
def fitScr (s : State) (core : Nat) (sh : Shape) (b : Nat) : Bool :=
  decide (b + scrUnits sh ≤ 2048) && spanFree s (onCore core) (fun c => ((crewBases s c).scr, scrUnits c.kernel.shape)) b (scrUnits sh)
def fitWs (s : State) (core : Nat) (sh : Shape) (b : Nat) : Bool :=
  decide (b + shapeSlots sh ≤ 64) && (sh.width != 128 || b % 2 == 0)
    && spanFree s (onCore core) (fun c => ((crewBases s c).ws, shapeSlots c.kernel.shape)) b (shapeSlots sh)
def fitTile (s : State) (core : Nat) (sh : Shape) (b : Nat) : Bool :=
  decide (b + sh.tiles ≤ 96)
    && spanFree s (fun c => quadOf c.core == quadOf core) (fun c => ((crewBases s c).tile, c.kernel.shape.tiles)) b sh.tiles
/-- R397: the crew fits from these bases beside the valid records of the core and of the quad. -/
def fits (s : State) (core : Nat) (sh : Shape) (b : Bases) : Bool :=
  fitReg s core sh b.reg && fitScr s core sh b.scr && fitWs s core sh b.ws && fitTile s core sh b.tile
/-- First-fit bases of a crew on a core (log entry 27). -/
def findBases (s : State) (core : Nat) (sh : Shape) : Option Bases :=
  match (List.range 1024).find? (fitReg s core sh), (List.range 2049).find? (fitScr s core sh), (List.range 64).find? (fitWs s core sh),
    (List.range 97).find? (fitTile s core sh) with
  | some r, some c, some w, some t => some ⟨r, c, w, t⟩
  | _, _, _, _ => none
/-- R374: the core's quad is in service. -/
def State.inService (s : State) (core : Nat) : Bool := !s.quadOut (quadOf core)
/-- R227: crews of a shape that one empty core, and one empty quad, can hold. -/
def perCore (sh : Shape) : Nat :=
  Nat.min 32 (Nat.min (1024 / Nat.max 1 (regUnits sh)) (Nat.min (if scrUnits sh = 0 then 32 else 2048 / scrUnits sh) (64 / Nat.max 1 (shapeSlots sh))))
def perQuad (sh : Shape) : Nat := Nat.min (4 * perCore sh) (if sh.tiles = 0 then 128 else 96 / sh.tiles)
/-- R227: a placement of g die groups exists on the cores in service with no other context resident. -/
def placeable (s : State) (sh : Shape) (g : Nat) : Bool :=
  let quadGroups := perQuad sh / sh.qgroup
  let dieGroups (d : Nat) : Nat := ((List.range 16).filter fun q => !s.quadOut (16 * d + q)).length * quadGroups / sh.dgroup
  decide (g ≤ ((List.range 10).map dieGroups).foldl (· + ·) 0)

/-! ### The state of a launch: R224, R392 -/

/-- R392: the launch value of `rsbase`. -/
def rsbaseOf (privBase : Quad) (privSize pos : Nat) : Quad :=
  BitVec.ofNat 64 (privBase.toNat + privSize * pos + privSize - 4032) &&& 0x00FFFFFFFFFFFFF8
/-- R224: a thread. -/
def freshThread (sh : Shape) (rsbase : Quad) : Thread :=
  { v := List.replicate sh.regs 0, full := List.replicate sh.regs true, p := 0, links := List.replicate sh.links LinkReg.clear, chain := []
    fpctl := 0, fpflags := 0, rsdepth := 0, rsbase := rsbase, rstack := [], capture := List.replicate 32 0, exited := false
    facq := none, frel := none, finv := false }
/-- R229 to R231: a warp of a width-declared crew at an address. -/
def freshWarp (k : Kernel) (wid eid : Nat) (consts : List Quad) : Warp :=
  let w := k.shape.width
  { wid := wid, lanes := (List.range w).map fun i => some (wid * w + i)
    entries := [⟨eid, BitVec.ofNat 56 k.codeVA, BitVec.ofNat 128 (2 ^ w - 1), k.prioAt (BitVec.ofNat 56 k.codeVA), .none, [], 0⟩]
    s := consts, joins := List.replicate 8 ⟨0, 0⟩, trap := none, trapEid := 0, handler := none, micro := none, stall := none
    away := none, migWait := none, cpy := none, waiting := 0 }
/-- A crew without its place: threads, warps and pool of the launch state; R224, R232. -/
def freshCrew (id eid0 ctx pos launch cls : Nat) (k : Kernel) (privBase : Quad) (privSize : Nat) (consts : List Quad) : Crew :=
  let sh := k.shape
  let c : Crew :=
    { id := id, ctx := ctx, pos := pos, launch := launch, cls := cls, core := 0, slot := 0, kernel := k, privBase := privBase
      privSize := privSize, consts := consts, started := false
      threads := (List.range sh.crew).map fun t => freshThread sh (rsbaseOf privBase privSize (pos * sh.crew + t))
      warps := if sh.width = 0 then [] else (List.range (sh.crew / sh.width)).map fun i => freshWarp k i (eid0 + i) consts
      bins := List.replicate 16 none, queue := [], held := [], waits := [], barrier := ⟨sh.crew, 0, 0⟩, scratch := []
      tiles := List.replicate sh.tiles ⟨[], 0, [], 0⟩, copies := List.replicate 16 none, copySerial := 0, mats := List.replicate 32 none
      matSerial := 0, transfers := [], log := [], stopped := false }
  c
/-- R232: at the start every thread of a width-free crew is a record at the kernel's first word. -/
def startCrew (cycle : Nat) (c : Crew) : Crew :=
  let c := { c with started := true }
  if c.kernel.shape.width = 0 then
    lanesToPool c.kernel cycle (BitVec.ofNat 56 c.kernel.codeVA) none (List.range c.kernel.shape.crew) c
  else c

/-! ### Binding: R268, R326, R397, R398 -/

/-- R326: the staging reserve in effect for a binding. -/
def vresNow (s : State) : Nat :=
  match s.ctxs.find? fun x => x.bound with | some x => x.vres | none => s.hostF 0x700040 5 0
/-- A vault line of a logical quad. -/
def isVaultUnit (u : CkUnit) : Bool := match u with | .vault _ _ => true | _ => false
/-- What a context takes up at its binding. Vault lines that Chervil still protects for it are kept for their stream first (R328). R364: `LOG_CTL.EN` takes effect at a launch. -/
def bindCtx (s : State) (n : Nat) (k : Kernel) (groups : Nat) (privBase : Quad) (privSize : Nat) : State :=
  if (s.ctx n).bound then s
  else
    let s := ((s.ctx n).ckpt.protect.filter isVaultUnit).foldl (fun s u => liftProtection s n u) s
    let x := s.ctx n
    s.setCtx { Ctx.clear n with
      bound := true, xlat := (List.range 13).map fun i => s.host (xlatOff n + 8 * i), job := s.host (ctxOff n + 0x30)
      dwin := (List.range 8).map fun i => s.host (ctxOff n + 0x40 + 8 * i), token := BitVec.ofNat 32 (s.hostF (ctxOff n + 0x38) 31 0)
      vres := vresNow s, kernel := some k, groups := groups, privBase := privBase, privSize := privSize
      logOn := s.hostF (logOff n) 0 0 == 1, ckpt := x.ckpt, poisoned := x.poisoned }
/-- The mark of a logical quad that no crew has been bound on yet. -/
def noQuad : Nat := 999
/-- R18, R226: the quad map after a crew is bound on a quad; none where its quad group stands on another quad. -/
def mapQuad (m : List Nat) (logical quad : Nat) : Option (List Nat) :=
  let m := m ++ List.replicate (logical + 1 - m.length) noQuad
  if m.getD logical noQuad = noQuad ∨ m.getD logical noQuad = quad then some (m.set logical quad) else none
/-- A crew put on a core: its bind record valid, and the crew added. -/
def putCrew (s : State) (c : Crew) (core slot : Nat) (b : Bases) : Option State :=
  let x := s.ctx c.ctx
  let l := c.pos / c.kernel.shape.qgroup
  match mapQuad x.quadMap l (quadOf core) with
  | none => none
  | some m =>
    let q0 := 2 ^ 63 + c.cls % 8 * 2 ^ 59 + c.ctx % 256 * 2 ^ 51 + c.pos % 2 ^ 23 * 2 ^ 28 + b.tile % 128 * 2 ^ 21
    let q1 := c.launch % 2 ^ 32 * 2 ^ 32 + b.reg % 1024 * 2 ^ 22 + b.scr % 2048 * 2 ^ 11 + b.ws % 64 * 2 ^ 5
    let s := (s.setDev (bindAddr core slot) (BitVec.ofNat 64 q0)).setDev (bindAddr core slot + 8) (BitVec.ofNat 64 q1)
    let s := s.setCtx { x with quadMap := m }
    some { s with crews := s.crews ++ [{ c with core := core, slot := slot }] }
/-- R398: the context may be bound: its fabric class is legal and no other bound context holds its job. -/
def jobOk (s : State) (n : Nat) : Bool :=
  let x := s.ctx n
  let j := if x.bound then x.job else s.host (ctxOff n + 0x30)
  decide (bitsOf j.toNat 18 16 ≤ 2) && (!j.getLsbD 19 || !s.ctxs.any fun y => y.num != n && y.bound && y.jobV && y.job.toNat % 2 ^ 16 == j.toNat % 2 ^ 16)
/-- R353: this device advertises READY for a job, or no longer does. -/
def advertise (s : State) (job : Half) (b : Bool) : State := setReady s job (BitVec.ofNat 12 s.domain).toNat b

/-! ### Restored crews find a place: R225 to R227, R337 -/

/-- Requests of a saved crew that need a reservation-table entry. -/
def liveMats (c : Crew) : Nat :=
  (c.mats.filter fun m => match m with | some r => r.st == .queued || r.st == .running | none => false).length
/-- The first place of a crew among the cores given (R225, R202). -/
def placeOn (s : State) (c : Crew) (cores : List Nat) : Option State :=
  cores.findSome? fun core =>
    let used := (s.crews.filter fun y => quadOf y.core == quadOf core).foldl (fun n y => n + liveMats y) 0
    let slot := (List.range 32).find? fun i => !s.crews.any fun y => y.core == core && y.slot == i
    if !s.inService core || decide (32 < used + liveMats c) then none
    else match slot, findBases s core c.kernel.shape with
      | some i, some b => putCrew s c core i b
      | _, _ => none
def quadCores (q : Nat) : List Nat := (List.range 4).map fun i => 4 * q + i
/-- A quad group on one quad. -/
def placeQuad (s : State) (cs : List Crew) (q : Nat) : Option State :=
  cs.foldl (fun (r : Option State) c => match r with | some s => placeOn s c (quadCores q) | none => none) (some s)
/-- A die group on one die: each of its quad groups on the first quad that takes it. -/
def placeDie (s : State) (groups : List (List Crew)) (d : Nat) : Option State :=
  groups.foldl (fun (r : Option State) cs => match r with
    | some s => (List.range 16).findSome? fun q => placeQuad s cs (16 * d + q)
    | none => none) (some s)
/-- Crews grouped by a key, in order. -/
def groupBy (key : Crew → Nat) : List Crew → List (List Crew)
  | [] => []
  | c :: r => match groupBy key r with
    | (d :: g) :: gs => if key d = key c then (c :: d :: g) :: gs else [c] :: (d :: g) :: gs
    | gs => [c] :: gs
/-- R226: crews in ascending position placed level by level. -/
def placeCrews (s : State) (cs : List Crew) : Option State :=
  let byDie := groupBy (fun c => c.pos / (c.kernel.shape.qgroup * c.kernel.shape.dgroup)) cs
  byDie.foldl (fun (r : Option State) g => match r with
    | some s => (List.range 10).findSome? fun d => placeDie s (groupBy (fun c => c.pos / c.kernel.shape.qgroup) g) d
    | none => none) (some s)

/-! ### Crews freed -/

/-- R277, R291: waiting instructions leave the merge table; an entry without any is freed, while its index stays allocated until
its response arrives. -/
def leaveMerge (s : State) (mine : Waiter → Bool) : State :=
  let ms := s.merge.map fun m => { m with waiters := m.waiters.filter fun w => !mine w }
  { s with merge := ms.filter fun m => !m.waiters.isEmpty }
/-- The crew of a waiting instruction. -/
def Waiter.crew : Waiter → Nat | .log c _ _ => c | .warp c _ => c | .copy c _ => c | .tile c _ => c
/-- Waiting instructions of crews that are gone leave the merge table. -/
def dropWaiters (s : State) (ids : List Nat) : State := leaveMerge s fun w => ids.contains w.crew
/-- R342, R355: fabric requests whose reply goes nowhere any more: stores of crews that are gone. -/
def dropRequests (s : State) (ids : List Nat) (keep : Bool) : State :=
  { s with fabOut := s.fabOut.filter fun x => !ids.contains x.crew ||
      (keep && match x.instr with | .ldf _ _ _ _ | .atmf _ _ _ _ => true | _ => false) }
/-- The cores that a crew's warps run on, and its own. -/
def Crew.allCores (c : Crew) : List Nat := c.core :: c.warps.map c.warpCore
/-- R267: cores that a context has left keep no word of their L1 (log entry 137). -/
def leaveL1 (s : State) (gone : List Crew) : State :=
  let left := gone.flatMap fun c => c.allCores.filter fun k => !s.crews.any fun d => d.ctx == c.ctx && d.allCores.contains k
  { s with l1 := s.l1.filter fun x => !left.contains x.core }
/-- R276: where merge-table entries were freed, lanes that found the table full walk again. -/
def retryFreed (s t : State) : State := if t.merge.length < s.merge.length then retryTable t else t
/-- The resources of crews freed: their bind records lose V (R397). `keep` keeps the fabric replies that a saving stop still
awaits (R355). A context without a crew is no longer bound. -/
def freeCrews (s0 : State) (ids : List Nat) (keep : Bool) : State :=
  let s := s0
  let gone := s.crews.filter fun c => ids.contains c.id
  let s := gone.foldl (fun s c => s.setDev (bindAddr c.core c.slot) (s.devD (bindAddr c.core c.slot) 0 &&& 0x7FFFFFFFFFFFFFFF)) s
  let s := dropRequests (dropWaiters { s with crews := s.crews.filter fun c => !ids.contains c.id
                                              rets := s.rets.filter fun r => !ids.contains r.crew } ids) ids keep
  let s := leaveL1 s gone
  retryFreed s0 <| (gone.map (·.ctx)).foldl (fun s n => if s.crews.any fun c => c.ctx == n then s else s.modCtx n fun x => { x with bound := false }) s
/-- The crews of a context. -/
def State.crewsOf (s : State) (ctx : Nat) : List Crew := s.crews.filter fun c => c.ctx == ctx

end Sys2Proof.Machine
end

