-- ==== Sys2Proof/Machine/Reach.lean ====
section
/-! DEFINITION. Restart points: what every stop does to the crews it takes in before it saves, holds, halts, cuts or dumps
(R183, R202, R291, R304, R305), the tiles that a restart kernel discards (R309), and the forced stop of a gang switch (R354). -/
namespace Sys2Proof.Machine

/-! ### Matrix requests: R202, R309 -/

/-- Requests that hold a reservation entry. -/
def Crew.liveReqs (c : Crew) : List MatReq :=
  c.mats.filterMap fun x => match x with | some r => if matLive r then some r else none | none => none
/-- R309: the tiles that a saving stop of the crew discards. -/
def discardTiles (c : Crew) : List Nat :=
  if c.kernel.rstVA = 0 then []
  else if c.kernel.rstTiles = 0 then ((c.liveReqs).flatMap fun r => accTiles r.passes).eraseDups
  else (List.range c.kernel.shape.tiles).filter fun t => c.kernel.rstTiles.getLsbD t
/-- R309: the request names a discarded tile in some role. -/
def namesAny (ts : List Nat) (r : MatReq) : Bool := (readTiles r.passes ++ accTiles r.passes).any fun t => ts.contains t
/-- R309: the running pass of a request that is to be dropped ends its beat; its partials are not written. -/
def matPause (s : State) (c : Crew) (r : MatReq) : State :=
  if r.st == .running then
    let b := Nat.min (passBeats r.pass) (r.beat + (s.cycle - r.start) + 1)
    if passBeats r.pass ≤ b then passEnd s c r
    else
      let w := passBeatsDo c r r.w r.beat b
      modMat s c.id r.num fun r => { r with st := .queued, beat := b, w := w, since := 0 }
  else s
/-- R202: every request of a crew at the stop; those naming a tile of `drop` keep their partials to themselves. -/
def matReach (s : State) (id : Nat) (drop : List Nat) : State :=
  (List.range 32).foldl (fun s i =>
    match s.crew? id with
    | none => s
    | some c => match c.mats.getD i none with
      | some r => if matLive r then (if namesAny drop r then matPause s c r else matStop s c r) else s
      | none => s) s

/-! ### Copies: R183, R291, R304 -/

/-- Granules done one after another while the copy can move. -/
def copyRunOn : Nat → State → Nat → Nat → State
  | 0, s, _, _ => s
  | n + 1, s, crew, i => match copyStep s crew i with | some t => copyRunOn n t crew i | none => s
/-- R291: a copy's wait for a page ends with the stop. -/
def copyUnwait (s : State) (crew i : Nat) : State :=
  leaveMerge (modCopy s crew i fun x => { x with wait := none }) fun w => w == .copy crew i
/-- R304: the copies of a crew at the stop: one with 4,096 bytes or fewer left runs on, unless it waits or the stop is forced. -/
def copiesReach (s : State) (id : Nat) (forced : Bool) : State :=
  (List.range 16).foldl (fun s i =>
    match (s.crew? id).bind fun c => c.copies.getD i none with
    | none => s
    | some x =>
      if x.st != .running then s
      else if (x.wait.map (·.waiting)).getD false then copyUnwait s id i
      else if !forced && decide (((copyDesc x.desc).total - x.prog) * 32 ≤ 4096) then copyUnwait (copyRunOn 136 s id i) id i
      else copyUnwait s id i) s

/-! ### Outstanding accesses: R304, R354 -/

/-- Data on its way reaches its registers. -/
def deliverRet (s : State) (r : Ret) : State :=
  writeRegs { s with rets := s.rets.filter fun x => x.id != r.id } r.crew [(r.tid, r.writes)]
/-- The words of a return as one value, the first register lowest. -/
def retValue (r : Ret) : Quad := BitVec.ofNat 64 ((r.writes.zipIdx).foldl (fun x w => x + w.1.2.toNat * 2 ^ (32 * w.2)) 0)
/-- R354: an outstanding load enters the operand log again, an atomic as the result it returned. -/
def deferRet (s : State) (r : Ret) : State :=
  match r.src with
  | none => deliverRet s r
  | some x =>
    match memOf x.instr with
    | some (o, _) =>
      let w : LaneWait := if o.kind = .atomic then .captured (retValue r) else .table
      let l : LogLane := ⟨x.lane, r.tid, x.addr, x.ops, 0, 0, w⟩
      ({ s with rets := s.rets.filter fun y => y.id != r.id }).modCrew r.crew fun c =>
        { c with log := logJoin ⟨x.id, x.wid, x.instr, x.pc, [l]⟩ c.log }
    | none => deliverRet s r
/-- What is on its way to a crew's registers at the stop. -/
def retsReach (s : State) (id : Nat) (forced : Bool) : State :=
  (s.rets.filter fun r => r.crew == id).foldl (fun s r => if forced then deferRet s r else deliverRet s r) s

/-! ### The stop itself -/

/-- R304: a crew reaches its restart points. -/
def reachCrew (saving forced : Bool) (s : State) (id : Nat) : State :=
  match s.crew? id with
  | none => s
  | some c => let s := landFlights s id
    retsReach (copiesReach (matReach s id (if saving then discardTiles c else [])) id forced) id forced
/-- R304: the crews given reach their restart points. -/
def reach (s : State) (ids : List Nat) (saving forced : Bool) : State := ids.foldl (reachCrew saving forced) s

end Sys2Proof.Machine
end

