-- ==== Sys2Proof/Machine/Image.lean ====
section
/-! DEFINITION. Context images as written: the header and directory (R310), the sections and records (R311 to R313, R147, R148,
R298), and the transformation of a restart kernel's crew (R309). -/
namespace Sys2Proof.Machine

/-! ### Bytes and sections -/

def zeros (n : Nat) : List Byte := List.replicate n 0
def pad64 (n : Nat) : Nat := ceilDiv n 64 * 64
/-- R310: a section: TYPE, UNIT, bytes and their number (a multiple of 64). -/
structure Sect where
  ty : Nat
  unit : Nat
  len : Nat
  data : Mem
  deriving DecidableEq, Repr
def sectOf (ty unit : Nat) (bs : List Byte) : Sect := ⟨ty, unit, pad64 bs.length, memOfBytes bs⟩

/-! ### Thread records: R312 -/

/-- R312: bytes of a thread record after its `v` registers, and of the whole record. -/
def threadRestLen (sh : Shape) : Nat := pad64 (4 * sh.regs + sh.regs / 8 + 516 + 32 * sh.links) - 4 * sh.regs
def threadLen (sh : Shape) : Nat := 4 * sh.regs + threadRestLen sh
def boolBits (l : List Bool) : Nat := (l.zipIdx).foldl (fun n x => if x.1 then n + 2 ^ x.2 else n) 0
/-- R312: the registers of a thread. -/
def threadRegs (sh : Shape) (t : Thread) : List Byte := (List.range sh.regs).flatMap fun i => leBytes 4 (t.reg i).toNat
/-- R147, R148: the links and chain records. -/
def linkBytes (sh : Shape) (t : Thread) : List Byte := (List.range sh.links).flatMap fun i => leBytes 32 (t.link i).snapshot
def chainBytes (t : Thread) : List Byte := padTo 384 ((t.chain.zipIdx).flatMap fun x => x.1.bytes x.2)
/-- R312: what follows the registers. -/
def threadRest (sh : Shape) (t : Thread) : List Byte :=
  padTo (threadRestLen sh)
    (leBytes (sh.regs / 8) (boolBits (t.full.take sh.regs)) ++ leBytes 12 t.p.toNat ++ leBytes 4 t.fpctl.toNat ++ leBytes 4 t.fpflags.toNat
      ++ leBytes 2 t.rsdepth ++ leBytes 2 (boolBits (t.links.map (·.wide))) ++ leBytes 1 t.chain.length ++ leBytes 1 (if t.exited then 1 else 0)
      ++ zeros 2 ++ leBytes 8 t.rsbase.toNat ++ padTo 64 ((t.rstack.take 8).flatMap fun q => leBytes 8 q.toNat) ++ padTo 32 t.capture
      ++ linkBytes sh t ++ chainBytes t)

/-! ### Warp records: R298, R313 -/

/-- R298: a trap record. -/
def TrapRec.bytes (r : TrapRec) : List Byte :=
  leBytes 4 r.tcause.toNat ++ zeros 4 ++ leBytes 8 r.tpc.toNat ++ leBytes 8 r.tval.toNat ++ leBytes 8 r.tinst.toNat
    ++ leBytes 16 r.tmask.toNat ++ leBytes 8 r.time.toNat ++ zeros 8
/-- R313: a hold. -/
def Hold.code : Hold → Nat | .none => 0 | .jwait _ => 1 | .bar => 2 | .swait => 3
/-- R313: a PC word. -/
def pcWord (pc : BitVec 56) (prio hold : Nat) : Nat := pc.toNat + prio % 16 * 2 ^ 56 + hold * 2 ^ 60 + 2 ^ 63
def Entry.bytes (e : Entry) : List Byte := leBytes 8 (pcWord e.pc e.prio e.hold.code) ++ leBytes 16 e.mask.toNat ++ zeros 8
/-- The major opcode of an instruction (R56). -/
def opOf (i : Instr) : Nat := match i.raw with | some r => r.op.toNat | none => 0
/-- R313: a warp record. -/
def warpBytes (sh : Shape) (w : Warp) : List Byte :=
  padTo 256 ((w.entries.take 8).flatMap Entry.bytes) ++ padTo 512 ((w.s.take 64).flatMap fun q => leBytes 8 q.toNat)
    ++ padTo 256 ((w.joins.take 8).flatMap fun j => leBytes 16 j.members.toNat ++ leBytes 16 j.arrived.toNat)
    ++ (match w.trap with | some r => r.bytes | none => zeros 64)
    ++ (match w.handler with | some h => [1] ++ zeros 7 ++ leBytes 8 h.pc.toNat ++ h.record.bytes.take 48 | none => zeros 64)
    ++ (match w.micro with
        | some m => leBytes 1 m.mstep ++ leBytes 1 (opOf m.instr) ++ zeros 6 ++ padTo 64 (m.vals.flatMap fun x => leBytes 4 x.toNat)
        | none => zeros 72)
    ++ (if sh.width = 0 then padTo 128 ((List.range 32).flatMap fun i => leBytes 4 ((w.lanes.getD i none).getD 0xFFFFFFFF)) else zeros 128)
    ++ zeros 56
/-- R311: the warps that have a record: those that hold a slot, in slot order (R229). -/
def recWarps (c : Crew) : List Warp := sortBy (fun a b : Warp => decide (a.wid ≤ b.wid)) c.warps
/-- R311: where the record of an access goes: the index of the warp record that its thread stands in, and its lane there. A thread
that stands in none has a record of its own, whose index lies beyond the warp records by its `tid` (log entry 134). -/
def recHome (c : Crew) (lane tid : Nat) : Nat × Nat :=
  let ws := recWarps c
  let wd := c.kernel.shape.width
  match ws.findIdx? fun w => if wd = 0 then w.lanes.contains (some tid) else w.wid == tid / wd with
  | some i => (i, if wd = 0 then (((ws[i]?).bind fun w => w.lanes.findIdx? fun t => t == some tid).getD lane) else tid % wd)
  | none => (ws.length + tid, lane)

/-! ### The pool: R311 -/

/-- R311: records by age: those that may issue, oldest first, then the held ones. -/
def poolBytes (c : Crew) : List Byte :=
  let rs := sortBy PoolRec.older (c.bins.flatMap (fun b => match b with | some b => b.recs | none => []) ++ c.queue)
  let a := rs.map fun r => (pcWord r.pc r.prio 0, r.tid)
  let b := c.held.map fun h => (pcWord h.pc (c.kernel.prioAt h.pc) h.hold.code, h.tid)
  ((a ++ b).zipIdx).flatMap fun x => leBytes 8 x.1.1 ++ leBytes 4 x.1.2 ++ leBytes 4 x.2

/-! ### Engines: R311 -/

/-- R311: WSEQ: the place of a writer among the crew's writers and readers, in the order of R189's lists. -/
def wseqOf (c : Crew) (mark : Nat) : Nat :=
  let ms := sortBy (fun a b : Nat => decide (a ≤ b)) (c.mats.filterMap (fun x => x.map (·.mark)) ++ c.transfers.map (·.id))
  (ms.findIdx? fun m => m == mark).getD 0
/-- R311: a matrix record. A request that has ended keeps CUR and BEAT in its captured header (log entry 29). -/
def matBytes (c : Crew) (r : MatReq) : List Byte :=
  let h := if matLive r then r.header else r.header.take 1 ++ leBytes 1 r.cur ++ leBytes 1 r.beat ++ r.header.drop 3
  leBytes 4 r.handle.toNat ++ leBytes 1 r.mpri.toNat ++ leBytes 1 r.st.code ++ leBytes 2 (wseqOf c r.mark) ++ leBytes 4 r.block ++ zeros 4
    ++ padTo 16 h ++ padTo 256 (r.passes.flatMap fun p => leBytes 8 p.toNat)
    ++ (List.range 32).flatMap (fun t => leBytes 4 (shapeOf r t).toNat) ++ zeros 32
/-- R311: a copy record. -/
def copyBytes (x : CopyEnt) : List Byte :=
  leBytes 4 x.handle.toNat ++ leBytes 1 x.qpri.toNat ++ leBytes 1 (x.st.code + (if x.reported then 128 else 0)) ++ leBytes 1 x.pmask.toNat
    ++ [x.cause] ++ leBytes 4 x.prog ++ zeros 4 ++ leBytes 8 x.faultAddr.toNat ++ padTo 64 x.desc ++ zeros 40

/-! ### Transfers: R311 -/

/-- The head of a transfer record, and a lane of it. -/
def recHead (kind cause tries wi wseq : Nat) (word : List Byte) (m : Mask) (pc : BitVec 56) : List Byte :=
  leBytes 1 kind ++ leBytes 1 cause ++ leBytes 1 tries ++ [0] ++ leBytes 4 wi ++ leBytes 4 wseq ++ zeros 4 ++ padTo 16 word
    ++ leBytes 16 m.toNat ++ leBytes 8 pc.toNat ++ zeros 8
def recLane (addr : Quad) (ops : List Quad) (cause tries : Nat) : List Byte :=
  leBytes 8 addr.toNat ++ padTo 32 (ops.flatMap fun q => leBytes 8 q.toNat) ++ leBytes 1 cause ++ leBytes 1 tries ++ zeros 6
/-- The word's first 16 bytes. -/
def wordBytes (c : Crew) (pc : BitVec 56) : List Byte := c.kernel.code.bytes (pc.toNat - c.kernel.codeVA) 16
def laneOrder (a b : LogLane) : Bool := decide (a.lane ≤ b.lane)
def isCaptured (l : LogLane) : Bool := match l.wait with | .captured _ => true | _ => false
/-- R311, R354: the records of the lanes of an operand-log entry that go to one warp record: deferred lanes, and captured results. -/
def logRecord (c : Crew) (x : LogEntry) (wi : Nat) (lanes : List LogLane) : List Byte :=
  let ls := sortBy laneOrder lanes
  let plain := ls.filter fun l => !isCaptured l
  let caps := ls.filter isCaptured
  let mask (l : List LogLane) : Mask := maskOf (l.map (·.lane))
  (if plain.isEmpty then [] else
    recHead 0 ((plain.head?.map (·.cause)).getD 0) (plain.foldl (fun n l => Nat.max n l.tries) 0) wi 0 (wordBytes c x.pc) (mask plain) x.pc
      ++ plain.flatMap fun l => recLane l.addr l.ops l.cause l.tries)
    ++ if caps.isEmpty then [] else
      recHead 0 0xFF 0 wi 0 (wordBytes c x.pc) (mask caps) x.pc
        ++ caps.flatMap fun l => recLane l.addr [match l.wait with | .captured v => v | _ => 0] 0xFF 0
/-- R311: the records of an operand-log entry. -/
def logBytes (c : Crew) (x : LogEntry) : List Byte :=
  let ls := x.lanes.map fun l => let h := recHome c l.lane l.tid; (h.1, { l with lane := h.2 })
  (sortBy (fun a b : Nat => decide (a ≤ b)) (ls.map (·.1)).eraseDups).flatMap fun i => logRecord c x i ((ls.filter fun l => l.1 == i).map (·.2))
/-- R352: fabric loads and atomics whose replies are awaited. -/
def awaiting (x : FabOut) : Bool := match x.instr with | .ldf _ _ _ _ | .atmf _ _ _ _ => true | _ => false
def sameRecord (a b : FabOut) : Bool := a.wid == b.wid && a.id == b.id && a.elem == b.elem
/-- R352: one record for each element of an access; `wid` is the warp record's index here. -/
def fabRecs (c : Crew) : Nat → List FabOut → List Byte
  | 0, _ => []
  | _ + 1, [] => []
  | n + 1, x :: r =>
    let g := sortBy (fun a b : FabOut => decide (a.lane ≤ b.lane)) (x :: r.filter (sameRecord x))
    recHead 0 0xFE 0 x.wid 0 (wordBytes c x.pc) (maskOf (g.map (·.lane))) x.pc
      ++ g.flatMap (fun y => recLane y.addr [y.tag.setWidth 64] 0xFE 0) ++ fabRecs c n (r.filter fun y => !sameRecord x y)
/-- R195: a tile transfer, with its shape among its leader's captured operands. -/
def transferBytes (c : Crew) (x : Transfer) : List Byte :=
  let kind := match x.instr with | .tld _ _ _ _ => 1 | _ => 2
  let cause := (x.wait.map (·.cause)).getD 0
  let tries := (x.wait.map (·.tries)).getD 0
  let h := recHome c x.lane x.tid
  recHead kind cause tries h.1 (wseqOf c x.id) (wordBytes c x.pc) (maskOf [h.2]) x.pc
    ++ recLane x.base [x.cfg.setWidth 64] cause tries

/-! ### Restart kernels: R309 -/

/-- R309: a thread that starts again at the label. -/
def restartThread (t : Thread) : Thread :=
  if t.exited then t
  else { t with full := t.full.map fun _ => true, links := t.links.map fun _ => LinkReg.clear, chain := [], rsdepth := 0, rstack := []
                facq := none, frel := none, finv := false }
/-- R309: a warp at the label: one frontier entry with its live lanes; a pending trap and a handler stay (log entry 30). -/
def restartWarp (k : Kernel) (w : Warp) : Warp :=
  let lbl := BitVec.ofNat 56 k.rstVA
  let m := maskOf ((List.range w.lanes.length).filter fun i => (w.lanes.getD i none).isSome)
  let eid := match w.handler with | some h => h.eid | none => w.trapEid
  { w with entries := if m = 0 then [] else [⟨eid, lbl, m, k.prioAt lbl, .none, [], 0⟩], joins := List.replicate 8 ⟨0, 0⟩
           micro := none, stall := none, migWait := none, cpy := none }
/-- R309: requests and transfers that name a discarded tile dropped. -/
def dropNamed (ts : List Nat) (c : Crew) : Crew :=
  let c := (c.liveReqs.filter (namesAny ts)).foldl (fun (c : Crew) r =>
    let c := releaseMarks c r [] (r.passes.drop r.cur)
    { c with mats := c.mats.set r.num none }) c
  { c with transfers := c.transfers.filter fun x => !ts.contains x.tile
           tiles := (c.tiles.zipIdx).map fun t => if ts.contains t.2 then { t.1 with data := [], writers := [], lends := 0 } else t.1 }
/-- R309: the whole crew. -/
def restartCrew (c : Crew) : Crew :=
  let c := dropNamed (discardTiles c) c
  let c : Crew := { c with threads := c.threads.map restartThread, log := [], waits := [], barrier := { c.barrier with arrived := 0, mask := 0 } }
  if c.kernel.shape.width ≠ 0 then { c with warps := (c.warps.map (restartWarp c.kernel)).filter fun w => !w.entries.isEmpty }
  else
    let keep := (c.warps.filter fun w => w.trap.isSome).map (restartWarp c.kernel)
    let tids := (List.range c.kernel.shape.crew).filter fun t => !(c.thread t).exited && !keep.any fun w => w.lanes.contains (some t)
    lanesToPool c.kernel 0 (BitVec.ofNat 56 c.kernel.rstVA) none tids { c with warps := keep, bins := List.replicate 16 none, queue := [], held := [] }
/-- The crew as an image holds it; `saving` for a stop that discards (R309). A crew that no start reached yet is saved as started
(log entry 31). -/
def imageCrew (saving : Bool) (c : Crew) : Crew :=
  let c := if c.started then c else startCrew 0 c
  if saving && c.kernel.rstVA != 0 then restartCrew c else c

/-! ### Sections: R311 -/

/-- R311: the translation section. -/
def xlatSection (x : Ctx) : List Byte :=
  let k := x.kernel
  let n (f : Kernel → Nat) : Nat := (k.map f).getD 0
  leBytes 8 (n (·.codeVA)) ++ leBytes 4 (n (·.codeLen)) ++ leBytes 4 x.privSize ++ leBytes 8 (n fun k => k.dataVA.toNat)
    ++ leBytes 8 x.privBase.toNat ++ leBytes 8 (x.xl 2) ++ leBytes 8 (x.xl 3) ++ (List.range 8).flatMap (fun i => leBytes 8 (x.xl (5 + i)))
    ++ leBytes 4 (n fun k => x.groups * k.shape.dgroup) ++ zeros 12
/-- R311: the control section. -/
def controlBytes (c : Crew) : List Byte :=
  leBytes 1 c.cls ++ zeros 3 ++ leBytes 4 c.barrier.expect ++ leBytes 4 c.barrier.arrived ++ leBytes 256 c.barrier.mask.toNat
    ++ (List.range 32).flatMap (fun t => leBytes 4 (c.tile t).cfg.toNat) ++ leBytes 4 c.copySerial ++ leBytes 4 c.matSerial ++ zeros 44
def usedOf {α : Type} (l : List (Option α)) : List α := l.filterMap id
/-- R311: the transfers of a crew, with the fabric requests it awaits. -/
def transfersBytes (c : Crew) (out : List FabOut) : List Byte :=
  c.log.flatMap (logBytes c) ++ fabRecs c out.length (out.map fun x => let h := recHome c x.lane x.tid; { x with wid := h.1, lane := h.2 })
    ++ c.transfers.flatMap (transferBytes c)
/-- The fabric requests of a crew that an image records (none of a restarted one: R309). -/
def crewAwaits (s : State) (saving : Bool) (c : Crew) : List FabOut :=
  if saving && c.kernel.rstVA != 0 then [] else s.fabOut.filter fun x => x.crew == c.id && awaiting x
/-- R311: the sections of a crew, in order; those of zero length are left out. -/
def crewSects (s : State) (saving : Bool) (c0 : Crew) : List Sect :=
  let c := imageCrew saving c0
  let sh := c.kernel.shape
  let tiles : Mem := (c.tiles.zipIdx).flatMap fun t => (t.1.data.section 0 6144).map fun b => (b.1 + 6144 * t.2, b.2)
  [sectOf 2 c.pos (controlBytes c), ⟨3, c.pos, sh.scratch, c.scratch.section 0 sh.scratch⟩,
   sectOf 4 c.pos (c.threads.flatMap fun t => threadRegs sh t ++ threadRest sh t), sectOf 5 c.pos ((recWarps c).flatMap (warpBytes sh)),
   sectOf 6 c.pos (if sh.width = 0 then poolBytes c else []), ⟨7, c.pos, 6144 * c.tiles.length, tiles⟩,
   sectOf 8 c.pos ((usedOf c.mats).flatMap (matBytes c)), sectOf 9 c.pos ((usedOf c.copies).flatMap copyBytes),
   sectOf 10 c.pos (transfersBytes c (crewAwaits s saving c0))].filter fun x => x.len != 0
/-- R311: the vault sections of a context. -/
def vaultSects (s : State) (x : Ctx) : List Sect :=
  let n := match x.kernel with | some k => x.groups * k.shape.dgroup | none => 0
  (List.range n).map fun l => ⟨12, l, 2 ^ 23, match x.quadMap[l]? with
    | some q => if q < Config.quads then s.section (vaultKey q 0) (2 ^ 23) else []
    | none => []⟩
/-- R311: the fabric section. -/
def fabricBytes (token swept late reply : Nat) : List Byte :=
  leBytes 8 token ++ leBytes 4 swept ++ leBytes 4 late ++ leBytes 4 reply ++ zeros 12

/-! ### The whole image: R310 -/

/-- What the header says beside its directory. -/
structure ImgHead where
  kind : Nat
  job : Nat
  flags : Nat
  reason : Nat
  time : Quad
  step : Quad
  token : Word
  shape : List Byte
  g : Nat
  ncrew : Nat
  deriving DecidableEq, Repr
/-- R310: the header. -/
def headBytes (h : ImgHead) (nsec size : Nat) : List Byte :=
  leBytes 4 0x49434E5A ++ leBytes 2 1 ++ leBytes 1 2 ++ leBytes 1 h.kind ++ leBytes 2 h.job ++ leBytes 2 h.flags ++ leBytes 1 h.reason ++ zeros 3
    ++ leBytes 8 size ++ leBytes 8 h.time.toNat ++ leBytes 8 h.step.toNat ++ leBytes 4 nsec ++ leBytes 4 h.token.toNat ++ padTo 24 h.shape
    ++ leBytes 2 h.g ++ zeros 2 ++ leBytes 4 h.ncrew ++ zeros 48
/-- R310: the offset of the first section, and of every section. -/
def firstOff (n : Nat) : Nat := pad64 (128 + 16 * n)
def offsets : Nat → List Sect → List Nat
  | _, [] => []
  | o, x :: r => o :: offsets (o + x.len) r
def imageSize (xs : List Sect) : Nat := firstOff xs.length + xs.foldl (fun n x => n + x.len) 0
/-- R310: header and directory. -/
def frontBytes (h : ImgHead) (xs : List Sect) : List Byte :=
  headBytes h xs.length (imageSize xs) ++ ((xs.zip (offsets (firstOff xs.length) xs)).flatMap fun y =>
    leBytes 2 y.1.ty ++ zeros 2 ++ leBytes 4 y.1.unit ++ leBytes 4 (y.2 / 64) ++ leBytes 4 (y.1.len / 64))
/-- R310: the image as cells from 0 on. -/
def imageMem (h : ImgHead) (xs : List Sect) : Mem :=
  memOfBytes (frontBytes h xs) ++ (xs.zip (offsets (firstOff xs.length) xs)).flatMap fun y => y.1.data.map fun b => (b.1 + y.2, b.2)
/-- R310: the header of an image of some crews of a context. -/
def headOf (s : State) (x : Ctx) (kind reason : Nat) (saving : Bool) (cs : List Crew) : ImgHead :=
  let restarted := saving && cs.any fun c => c.kernel.rstVA != 0
  let pend := cs.any fun c => c.warps.any fun w => w.trap.isSome
  let hand := cs.any fun c => c.warps.any fun w => w.handler.isSome
  { kind := kind, job := x.job.toNat % 2 ^ 16, reason := reason, time := s.timebase, step := x.stepcount
    token := BitVec.ofNat 32 (s.hostF (ctxOff x.num + 0x38) 31 0), g := x.groups
    flags := (if x.halted then 1 else 0) + (if restarted then 2 else 0) + (if pend then 4 else 0) + (if hand then 8 else 0)
    shape := match x.kernel with | some k => shapeBytes k.shape | none => zeros 24, ncrew := cs.length }
/-- The crews of a context in ascending position. -/
def State.orderedCrews (s : State) (ctx : Nat) : List Crew := sortBy (fun a b : Crew => decide (a.pos ≤ b.pos)) (s.crewsOf ctx)
/-- R311: the fabric section outside a gang switch: the hold area and the replies awaited. -/
def awaitedSect (s : State) (ctx : Nat) (saving : Bool) : Sect :=
  let n := (s.crewsOf ctx).foldl (fun n c => n + (crewAwaits s saving c).length) 0
  sectOf 11 0 (fabricBytes (if n = 0 then 0 else s.hostF (aperOff ctx + 0x18) 51 12 * 2 ^ 12) 0 0 n)
/-- R310: the translation section and the sections of every crew. -/
def bareSects (s : State) (ctx : Nat) (saving : Bool) : List Sect :=
  sectOf 1 0 (xlatSection (s.ctx ctx)) :: (s.orderedCrews ctx).flatMap (crewSects s saving)
/-- R310: the sections of a KIND 0 image. -/
def contextSects (s : State) (ctx : Nat) (saving : Bool) (fab : Sect) : List Sect :=
  bareSects s ctx saving ++ vaultSects s (s.ctx ctx) ++ [fab]
/-- R310: the sections of a KIND 1 image. -/
def crewImageSects (s : State) (ctx : Nat) (c : Crew) : List Sect := sectOf 1 0 (xlatSection (s.ctx ctx)) :: crewSects s true c
/-- R304, R307: an image written to a save area: the status, 0 success, 1 area too small, 2 write error. -/
def writeImage (s : State) (area len : Nat) (h : ImgHead) (xs : List Sect) : State × Nat :=
  let n := imageSize xs
  if len < n then (s, 1)
  else if s.writeBad area n then (s, 2)
  else (s.blockWrite area n (imageMem h xs), 0)

end Sys2Proof.Machine
end

