-- ==== Sys2Proof/Machine/Sha256.lean ====
section
/-! DEFINITION. SHA-256 (FIPS 180-4), which R329, R332, R402 and R406 name. -/
namespace Sys2Proof.Machine

/-- The first 64 primes. -/
def firstPrimes : List Nat := (List.range 312).filter fun p => decide (2 ≤ p) && (List.range 16).all fun d => p % (d + 2) != 0 || p == d + 2
/-- The greatest r of `bits` bits above `r` whose k-th power does not exceed x. -/
def floorRoot (k x : Nat) : (bits r : Nat) → Nat
  | 0, r => r
  | n + 1, r => floorRoot k x n (if (r + 2 ^ n) ^ k ≤ x then r + 2 ^ n else r)
/-- The first 32 bits of the fraction of the k-th root of a number. -/
def rootFraction (k p : Nat) : BitVec 32 := BitVec.ofNat 32 (floorRoot k (p * 2 ^ (32 * k)) 37 0)
/-- The round constants, from the cube roots of the first 64 primes. -/
def roundConstants : List (BitVec 32) := firstPrimes.map (rootFraction 3)
/-- The initial hash value, from the square roots of the first 8 primes. -/
def initialHash : List (BitVec 32) := (firstPrimes.take 8).map (rootFraction 2)
/-- A big-endian 32-bit word. -/
def beWord (b : List Byte) : BitVec 32 := b.foldl (fun x y => (x <<< 8) ||| y.setWidth 32) 0
/-- Big-endian bytes of a number. -/
def beBytes (n x : Nat) : List Byte := (leBytes n x).reverse
/-- The message schedule: words 16 to 63 from the last sixteen, newest first. -/
def shaSchedule : Nat → List (BitVec 32) → List (BitVec 32)
  | 0, w => w
  | n + 1, w =>
    let x (i : Nat) : BitVec 32 := w.getD i 0
    let s0 := (x 14).rotateRight 7 ^^^ (x 14).rotateRight 18 ^^^ (x 14) >>> 3
    let s1 := (x 1).rotateRight 17 ^^^ (x 1).rotateRight 19 ^^^ (x 1) >>> 10
    shaSchedule n ((x 15 + s0 + x 6 + s1) :: w)
/-- One round on the working variables a to h. -/
def shaRound (v : List (BitVec 32)) (kw : BitVec 32) : List (BitVec 32) :=
  match v with
  | [a, b, c, d, e, f, g, h] =>
    let s1 := e.rotateRight 6 ^^^ e.rotateRight 11 ^^^ e.rotateRight 25
    let ch := (e &&& f) ^^^ (~~~e &&& g)
    let t1 := h + s1 + ch + kw
    let s0 := a.rotateRight 2 ^^^ a.rotateRight 13 ^^^ a.rotateRight 22
    let mj := (a &&& b) ^^^ (a &&& c) ^^^ (b &&& c)
    [t1 + (s0 + mj), a, b, c, d + t1, e, f, g]
  | _ => v
/-- One block of 64 bytes. -/
def shaBlock (h : List (BitVec 32)) (b : List Byte) : List (BitVec 32) :=
  let w := (List.range 16).map fun i => beWord ((b.drop (4 * i)).take 4)
  let ws := (shaSchedule 48 w.reverse).reverse
  let v := (roundConstants.zip ws).foldl (fun v x => shaRound v (x.1 + x.2)) h
  (h.zip v).map fun x => x.1 + x.2
/-- The blocks of a padded message. -/
def shaBlocks : Nat → List (BitVec 32) → List Byte → List (BitVec 32)
  | 0, h, _ => h
  | n + 1, h, b => shaBlocks n (shaBlock h (b.take 64)) (b.drop 64)
/-- The digest of a message: 32 bytes, the most significant first. -/
def sha256 (m : List Byte) : List Byte :=
  let pad := (119 - m.length % 64) % 64
  let p := m ++ [0x80] ++ List.replicate pad 0 ++ beBytes 8 (8 * m.length)
  (shaBlocks (p.length / 64) initialHash p).flatMap fun x => beBytes 4 x.toNat

end Sys2Proof.Machine
end

