-- ==== Sys2Proof/Machine/Telemetry.lean ====
section
/-! DEFINITION. Telemetry records (R414). -/
namespace Sys2Proof.Machine

/-- R414: a record of a schema sent, with its SEQ. -/
def telem (s : State) (schema : Nat) (payload : List Byte) : State :=
  let n := s.plat.telemSeq.getD schema 0
  let rec16 := leBytes 1 schema ++ leBytes 1 1 ++ leBytes 2 payload.length ++ leBytes 4 n ++ leBytes 8 s.timebase.toNat
  { s with plat := { s.plat with telemSeq := s.plat.telemSeq.set schema ((n + 1) % 2 ^ 32), telem := s.plat.telem ++ [(schema, rec16 ++ payload)] } }

end Sys2Proof.Machine
end

