-- ==== Sys2Proof/Machine/Checkpoint.lean ====
section
/-! DEFINITION. Chervil: triggers (R322), dirty units (R323), the cut (R325, R326), shard objects (R329), the digest index (R330,
R331), the manifest (R332), failed intervals (R333) and the save cost (R339). -/
namespace Sys2Proof.Machine

/-! ### Registers: R320 -/

def ckPhase (s : State) (n : Nat) : Nat := s.hostF (ckptOff n) 61 59
/-- R320: PHASE, and BUSY with it. -/
def setPhase (s : State) (n p : Nat) : State :=
  (s.setHostF (ckptOff n) 61 59 p).setHostF (ckptOff n) 63 63 (if p = 0 then 0 else 1)
def ckEn (s : State) (n : Nat) : Bool := s.hostF (ckptOff n) 0 0 == 1
def ckFull (s : State) (n : Nat) : Bool := s.hostF (ckptOff n) 4 4 == 1
def modCkpt (s : State) (n : Nat) (g : Ckpt → Ckpt) : State := s.modCtx n fun x => { x with ckpt := g x.ckpt }

/-! ### Triggers: R322 -/

/-- R322: a trigger arrives. A context that is not bound, does not checkpoint, or is in a trap stop (R335) takes none. -/
def trigger (s : State) (n : Nat) : State :=
  let x := s.ctx n
  let skipped := s.hostF (ckptOff n + 0x18) 15 0
  if !ckEn s n || !x.bound || x.trapStop then s
  else if ckPhase s n = 0 then setPhase (s.modCtx n fun x => { x with cutPause := true }) n 1
  else if s.hostF (ckptOff n) 62 62 = 0 then s.setHostF (ckptOff n) 62 62 1
  else s.setHostF (ckptOff n + 0x18) 15 0 (Nat.min 0xFFFF (skipped + 1))
/-- R322: the trigger that waits starts its cut when the interval in progress has closed. -/
def nextCut (s : State) (n : Nat) : State :=
  if s.hostF (ckptOff n) 62 62 = 1 then trigger (s.setHostF (ckptOff n) 62 62 0) n else s
/-- R320: EN written 1: from 0 it sets FULL, starts interval 0 and arms both triggers. -/
def ckptEn (s : State) (n : Nat) : State :=
  let o := ckptOff n
  let s := s.setHostF (o + 0x18) 15 0 0
  if ckEn s n then s
  else
    modCkpt ((s.setHostF o 0 0 1).setHostF o 4 4 1) n fun k =>
      { k with next := 0, timerMark := s.timebase.toNat + (s.host (o + 0x08)).toNat
               stepMark := (s.ctx n).stepcount.toNat + (s.host (o + 0x10)).toNat }
/-- CKPT_ENABLE. -/
def execCkptEnable (ctx : Nat) (s : State) : Host.Outcome State Fault Refusal :=
  if 256 ≤ ctx then .refused .notEnabled else .next (ckptEn s ctx)
/-- CKPT_CUT. -/
def execCkptCut (ctx : Nat) (s : State) : Host.Outcome State Fault Refusal :=
  if 256 ≤ ctx then .refused .notEnabled else .next (trigger s ctx)
/-- CKPT_FULL. -/
def execCkptFull (ctx : Nat) (s : State) : Host.Outcome State Fault Refusal :=
  if 256 ≤ ctx then .refused .notEnabled else .next (s.setHostF (ckptOff ctx) 4 4 1)
/-- R322: the timebase has reached the timer mark. -/
def timerDue (s : State) (n : Nat) : Bool :=
  let o := ckptOff n
  ckEn s n && s.hostF o 1 1 == 1 && s.host (o + 0x08) != 0 && decide ((s.ctx n).ckpt.timerMark ≤ s.timebase.toNat)
/-- TIMER_TRIGGER. -/
def execTimerTrigger (ctx : Nat) (s : State) : Host.Outcome State Fault Refusal :=
  if timerDue s ctx then
    .next (trigger (modCkpt s ctx fun k => { k with timerMark := k.timerMark + (s.host (ckptOff ctx + 0x08)).toNat }) ctx)
  else .refused .notEnabled
/-- R208, R322: the step trigger after an addition to `stepcount`. -/
def stepTrigger (s : State) (n : Nat) : State :=
  let o := ckptOff n
  let x := s.ctx n
  if ckEn s n && s.hostF o 2 2 == 1 && s.host (o + 0x10) != 0 && decide (x.ckpt.stepMark ≤ x.stepcount.toNat) then
    trigger (modCkpt s n fun k => { k with stepMark := k.stepMark + (s.host (o + 0x10)).toNat }) n
  else s
/-- `cstep`: R208. -/
def execCstep (f : Fields) (s : State) : Host.Outcome State Fault Refusal :=
  issue (.cstep f) s fun e s =>
    match releaseCheck s e with
    | .trap t => .trap s t
    | .wait => .wait
    | .pass =>
      match e.lanes with
      | [] => .go s
      | l :: _ =>
        let a := srcBits e.w (e.th l.2) .n32 e.f.a
        .go (stepTrigger ((clearFences s e).modCtx e.c.ctx fun x => { x with stepcount := x.stepcount + BitVec.ofNat 64 a }) e.c.ctx)

/-! ### Units: R323 -/

/-- R325: the vault lines and pages that a cut taken now protects. -/
def cutMemory (s : State) (n : Nat) : List CkUnit :=
  let x := s.ctx n
  if ckFull s n then fullMemory s x
  else unitSet (((x.ckpt.dirty.filter fun u => match u with | .page _ _ | .vault _ _ => true | _ => false).map (pageNow s x)).filter (eligible s))

/-! ### Crew objects: R325, R329 -/

/-- Bits as bytes, padded to 64 bytes. -/
def bitmap (l : List Bool) : List Byte := let n := ceilDiv l.length 8; padTo (pad64 n) (leBytes n (boolBits l))
/-- R325: the records of a crew that every cut stages, in section order. -/
def crewRecords (s : State) (c0 : Crew) : List Byte :=
  let c := imageCrew false c0
  let sh := c.kernel.shape
  controlBytes c ++ c.threads.flatMap (threadRest sh) ++ (recWarps c).flatMap (warpBytes sh) ++ (if sh.width = 0 then poolBytes c else [])
    ++ (usedOf c.mats).flatMap (matBytes c) ++ (usedOf c.copies).flatMap copyBytes ++ transfersBytes c (crewAwaits s false c0)
/-- R323: rows of one slot, and slots of a shape. -/
def rowsPer (sh : Shape) : Nat := sh.regs / 16
def slotsOf (sh : Shape) : Nat := ceilDiv sh.crew (slotLanes sh)
/-- R323: a register row, lane by lane (log entry 28). -/
def regRowBytes (c : Crew) (slot r : Nat) : List Byte :=
  let n := slotLanes c.kernel.shape
  (List.range n).flatMap fun i =>
    let tid := slot * n + i
    (List.range 16).flatMap fun j => leBytes 4 (if tid < c.kernel.shape.crew then ((c.thread tid).reg (16 * r + j)).toNat else 0)
/-- R325: whether each register row, tile and scratchpad line of a crew is dirty. -/
def dirtyRows (full : Bool) (d : List CkUnit) (c : Crew) : List Bool :=
  (List.range (slotsOf c.kernel.shape)).flatMap fun i => (List.range (rowsPer c.kernel.shape)).map fun r => full || d.contains (.row c.pos i r)
def dirtyTiles (full : Bool) (d : List CkUnit) (c : Crew) : List Bool :=
  (List.range c.kernel.shape.tiles).map fun t => full || d.contains (.tile c.pos t)
def dirtyLines (full : Bool) (d : List CkUnit) (c : Crew) : List Bool :=
  (List.range (c.kernel.shape.scratch / 128)).map fun l => full || d.contains (.scratch c.pos l)
/-- The places of the marks set. -/
def marksOf (l : List Bool) : List Nat := ((l.zipIdx).filter (·.1)).map (·.2)
/-- R329: the object of a crew. -/
def crewObject (s : State) (full : Bool) (d : List CkUnit) (c : Crew) : List Byte :=
  let rows := dirtyRows full d c
  let tiles := dirtyTiles full d c
  let lines := dirtyLines full d c
  let k := rowsPer c.kernel.shape
  crewRecords s c ++ bitmap rows ++ (marksOf rows).flatMap (fun i => regRowBytes c (i / k) (i % k))
    ++ bitmap tiles ++ (marksOf tiles).flatMap (fun t => (c.tile t).data.bytes 0 6144)
    ++ bitmap lines ++ (marksOf lines).flatMap fun l => c.scratch.bytes (128 * l) 128
/-- R325, R339: the bytes of a crew that a cut stages. -/
def stagedBytes (s : State) (full : Bool) (d : List CkUnit) (c : Crew) : Nat :=
  (crewRecords s c).length + (marksOf (dirtyRows full d c)).length * (64 * slotLanes c.kernel.shape) + (marksOf (dirtyTiles full d c)).length * 6144
    + (marksOf (dirtyLines full d c)).length * 128

/-! ### Failed intervals: R333 -/

/-- R333: the interval in progress fails with a RESULT. -/
def failInterval (s : State) (n result : Nat) : State :=
  let s := s.setHostF (ckptOff n + 0x18) 31 28 result
  let s := if (s.ctx n).ckpt.fullNow then s.setHostF (ckptOff n) 4 4 1 else s
  let s := modCkpt s n fun k => { k with closing := none, protect := [], old := [], shards := [], waitUntil := none, streaming := []
                                         dirty := unitSet (k.dirty ++ k.streaming) }
  nextCut (setPhase s n 0) n

/-! ### The cut: R325, R335 -/

/-- Shards of the memory and vault units of a cut: R329. -/
def memShards (us : List CkUnit) : List Shard :=
  let pages := sortBy (fun a b : Nat × CkUnit => decide (a.1 ≤ b.1)) (us.filterMap fun u => match u with | .page v _ => some (v, u) | _ => none)
  let lines := sortBy (fun a b : (Nat × Nat) × CkUnit => decide (a.1.1 * 65536 + a.1.2 ≤ b.1.1 * 65536 + b.1.2))
    (us.filterMap fun u => match u with | .vault q l => some ((q, l), u) | _ => none)
  let spans := (pages.map fun p => p.1 / 2048).eraseDups
  let quads := (lines.map fun l => l.1.1).eraseDups
  let blank (kind unit base : Nat) (us : List CkUnit) : Shard := ⟨kind, unit, base, us, [], none, false, [], 0, none⟩
  spans.map (fun b => blank 0 0 (b * 2 ^ 26) ((pages.filter fun p => p.1 / 2048 == b).map (·.2)))
    ++ quads.map fun q => blank 2 q 0 ((lines.filter fun l => l.1.1 == q).map (·.2))
/-- R329, R332: shards by KIND, then UNIT, then BASE. -/
def shardOrder (a b : Shard) : Bool :=
  decide (a.kind < b.kind) || (a.kind == b.kind && (decide (a.unit < b.unit) || (a.unit == b.unit && decide (a.base ≤ b.base))))
/-- PROTECTED_UNIT_WRITE: R328: a write reaches the unit that stands at a place among the protected ones. -/
def execProtectedUnitWrite (ctx unit : Nat) (s : State) : Host.Outcome State Fault Refusal :=
  match (s.ctx ctx).ckpt.protect[unit]? with
  | some u => if s.canLift u then .next (liftProtection s ctx u) else .refused .notEnabled
  | none => .refused .notEnabled

/-! ### Objects and the store: R321, R329 -/

/-- R328: the bytes of a unit as the cut left them: its old image or its own; none where they cannot be read (R363). -/
def unitBytes (s : State) (x : Ctx) (u : CkUnit) : Option (List Byte) :=
  match x.ckpt.old.find? fun o => o.1 == u with
  | some (_, img, none) => some img
  | some (_, _, some i) => if s.spanPoison (cowPage s i) 32768 || s.spanBad (cowPage s i) 32768 then none else some (s.physRead (cowPage s i) 32768)
  | none => match unitSpan x u with
    | some sp => if s.spanPoison sp.1 sp.2 || s.spanBad sp.1 sp.2 then none else some (s.physRead sp.1 sp.2)
    | none => some (zeros 128)
/-- The units of a list one after another. -/
def allUnits (s : State) (x : Ctx) (us : List CkUnit) : Option (List Byte) :=
  us.foldr (fun u r => match unitBytes s x u, r with | some a, some b => some (a ++ b) | _, _ => none) (some [])
/-- R329: the bytes of a shard's object. -/
def shardBytes (s : State) (x : Ctx) (h : Shard) : Option (List Byte) :=
  let bits (n : Nat) (f : CkUnit → Option Nat) : List Byte :=
    let on := h.members.filterMap f
    leBytes (n / 8) (on.foldl (fun a i => a ||| 2 ^ i) 0)
  match h.kind with
  | 0 => (allUnits s x h.members).map fun b => bits 2048 (fun u => match u with | .page v _ => some (v % 2048) | _ => none) ++ b
  | 1 => some h.staged
  | _ => (allUnits s x h.members).map fun b => bits 65536 (fun u => match u with | .vault _ l => some l | _ => none) ++ b
def storeBase (s : State) : Nat := (s.host 0x700000).toNat
/-- R321: where n bytes go in the ring, and TAIL after them: Chervil never passes HEAD, and no object wraps. -/
def storeRoom (s : State) (n : Nat) : Option (Nat × Nat) :=
  let len := (s.host 0x700008).toNat
  let head := (s.host 0x700010).toNat
  let tail := (s.host 0x700018).toNat
  let n := pad64 n
  if tail < head then (if tail + n < head then some (tail, tail + n) else none)
  else if tail + n < len ∨ (tail + n = len ∧ head ≠ 0) then some (tail, (tail + n) % Nat.max 1 len)
  else if n < head then some (0, n) else none
/-- R321: an object written at TAIL: its address, or the RESULT of the failure. -/
def storePut (s : State) (b : List Byte) : Except Nat (State × Nat) :=
  match storeRoom s b.length with
  | none => .error 1
  | some (o, tail) =>
    let a := storeBase s + o
    if s.writeBad a b.length ∨ !isCxl a then .error 2
    else .ok ((s.blockWrite a b.length (memOfBytes b)).setHost 0x700018 (BitVec.ofNat 64 tail), a)

/-! ### The digest index: R330, R331 -/

def slotAddr (s : State) (i : Nat) : Nat := (s.host 0x700020).toNat + 64 * i
def nslot (s : State) : Nat := s.hostF 0x700028 31 0
/-- R330: TAG of a digest, and a KEY. -/
def tagOf (d : List Byte) : Nat := (d.take 8).foldl (fun n b => n * 256 + b.toNat) 0 / 4
def keyOf (state : Nat) (d : List Byte) : Nat := state * 2 ^ 62 + tagOf d
/-- R330: the slots that a digest's probe visits. -/
def probe (s : State) (d : List Byte) : List Nat :=
  let home := (d.drop 28).foldl (fun n b => n * 256 + b.toNat) 0
  if nslot s = 0 then [] else (List.range 64).map fun i => (home % nslot s + i) % nslot s
/-- R331: what a probe comes to. -/
inductive Found
  | claim (slot : Nat) | wait (slot : Nat) | hit (slot loc : Nat) | unindexed | bad
  deriving DecidableEq, Repr
/-- R331: the probe of a digest. A slot whose writer another agent is makes the probe wait; one that answers with a bus error ends it
(R358). -/
def lookup (s : State) (d : List Byte) : List Nat → Found
  | [] => .unindexed
  | i :: r =>
    let a := slotAddr s i
    let k := s.physNat a 8
    if s.spanBad a 64 || s.spanPoison a 64 then .bad
    else if k = 0 then .claim i
    else if k % 2 ^ 62 ≠ tagOf d ∨ k / 2 ^ 62 = 0 ∨ k / 2 ^ 62 = 3 then lookup s d r
    else if k / 2 ^ 62 = 1 then .wait i
    else if s.physRead (a + 32) 32 = d then .hit i (s.physNat (a + 8) 8)
    else lookup s d r
/-- R331: LOC, LENGTH, DIGEST and the release store of KEY. -/
def slotPut (s : State) (i loc len : Nat) (d : List Byte) : State :=
  s.blockWrite (slotAddr s i) 64 (memOfBytes (leBytes 8 (keyOf 2 d) ++ leBytes 8 loc ++ leBytes 8 len ++ zeros 8 ++ d))

/-! ### Streaming: R328, R329 -/

/-- R328: a shard has its object: its units are no longer protected, and their old images go. After the last shard the interval is being
sealed (R320). -/
def shardDone (s : State) (n : Nat) (h : Shard) (d : List Byte) (len loc : Nat) (ref : Bool) (slot : Option Nat) : State :=
  let mark (y : Shard) : Shard := if y.kind = h.kind ∧ y.unit = h.unit ∧ y.base = h.base then
    { y with loc := some loc, ref := ref, digest := d, length := len, slot := slot, staged := [] } else y
  let s := if (s.ctx n).ckpt.shards.all (fun y => (mark y).loc.isSome) then setPhase s n 4 else s
  retryTable (modCkpt s n fun k =>
    { k with shards := k.shards.map mark, protect := k.protect.filter fun u => !h.members.contains u
             old := k.old.filter fun o => !h.members.contains o.1, waitUntil := none })
/-- A shard's object written at TAIL, with an index entry or without. -/
def shardWrite (s : State) (n : Nat) (h : Shard) (b d : List Byte) (slot : Option Nat) : State :=
  match storePut s b with
  | .error r => failInterval s n r
  | .ok (s, loc) => match slot with
    | some i => shardDone (slotPut s i loc b.length d) n h d b.length loc false (some i)
    | none => shardDone s n h d b.length loc false none
/-- R326: the crew shards whose staged bytes do not fit the reserve of their quad beside those of crews before them. -/
def overReserve (s : State) (n : Nat) (cs : List Crew) (shards : List Shard) : List Shard :=
  let room := 65536 * (s.ctx n).vres
  ((cs.zip shards).foldl (fun (r : List (Nat × Nat) × List Shard) y =>
    let q := quadOf y.1.core
    let used := ((r.1.find? fun z => z.1 == q).map (·.2)).getD 0 + y.2.staged.length
    ((q, used) :: r.1.filter fun z => z.1 != q, if room < used then r.2 ++ [y.2] else r.2)) ([], [])).2
/-- R326: a shard written to the object store while the crews stay paused; it waits for no other agent's slot (log entry 142). -/
def writeNow (s : State) (n : Nat) (h : Shard) : State :=
  if ckPhase s n ≠ 3 then s
  else
    let d := sha256 h.staged
    match lookup s d (probe s d) with
    | .claim i => shardWrite s n h h.staged d (some i)
    | .hit i loc => shardDone s n h d h.staged.length loc true (some i)
    | .bad => failInterval s n 3
    | _ => shardWrite s n h h.staged d none
/-- R325: the interval cut of a context whose crews pause. The crews have reached their restart points; step 4 is left to
whatever else holds them (R335). -/
def takeCut (s0 : State) (n : Nat) : State :=
  let s := reach s0 ((s0.crewsOf n).map (·.id)) false false
  let x := s.ctx n
  let full := ckFull s n
  let cs := s.orderedCrews n
  let mem := cutMemory s n
  let crews := cs.map fun c => (⟨1, c.pos, 0, [], crewObject s full x.ckpt.dirty c, none, false, [], 0, none⟩ : Shard)
  let head := headBytes (headOf s x 0 0 false cs) 0 0
  let s := modCkpt s n fun k =>
    { k with closing := some k.next, next := k.next + 1, base := if full then k.next else k.base, fullNow := full, streaming := k.dirty, dirty := []
             protect := mem, old := [], shards := sortBy shardOrder (memShards mem ++ crews), header := head, xlat := xlatSection x
             pauseTime := s.timebase, waitUntil := none }
  let s := setPhase (s.setHostF (ckptOff n) 4 4 0) n (if (s.ctx n).ckpt.shards.isEmpty then 4 else 3)
  ((overReserve s n cs crews).foldl (fun s h => writeNow s n h) s).modCtx n fun x => { x with cutPause := false }
/-- INTERVAL_CUT. -/
def execIntervalCut (ctx : Nat) (s : State) : Host.Outcome State Fault Refusal :=
  if ckPhase s ctx = 1 then .next (retryTable (takeCut s ctx)) else .refused .notEnabled
/-- The next shard of the interval in progress. -/
def nextShard (s : State) (n : Nat) : Option Shard :=
  if ckPhase s n = 3 then (s.ctx n).ckpt.shards.find? fun h => h.loc.isNone else none
/-- R331: the slots that the probe of the next shard still examines: after a wait it goes on at the slot it waited for. -/
def probeOn (s : State) (n : Nat) (d : List Byte) : List Nat :=
  match (s.ctx n).ckpt.waitUntil with
  | some w => (probe s d).dropWhile fun i => i != w.1
  | none => probe s d
/-- R329, R331: the next shard streamed; none while it waits for another agent's slot. `late` when its wait has timed out. -/
def streamNext (s : State) (n : Nat) (late : Bool) : Option State :=
  match nextShard s n with
  | none => none
  | some h =>
    let x := s.ctx n
    match shardBytes s x h with
    | none => some (failInterval s n 3)
    | some b =>
      let d := sha256 b
      if late then some (shardWrite s n h b d none)
      else match lookup s d (probeOn s n d) with
        | .claim i => some (shardWrite s n h b d (some i))
        | .bad => some (failInterval s n 3)
        | .hit i loc => some (shardDone s n h d b.length loc true (some i))
        | .unindexed => some (shardWrite s n h b d none)
        | .wait i =>
          if x.ckpt.waitUntil.any fun w => w.1 == i then none
          else some (modCkpt s n fun k => { k with waitUntil := some (i, s.timebase.toNat + 1000000) })
/-- SHARD_STREAM. -/
def execShardStream (ctx : Nat) (s : State) : Host.Outcome State Fault Refusal :=
  match streamNext s ctx false with | some t => .next t | none => .refused .notEnabled
/-- R331: the slot that the next shard waits for is still being written and its time is up. -/
def indexLate (s : State) (n : Nat) : Bool :=
  match (s.ctx n).ckpt.waitUntil with
  | some w => decide (w.2 ≤ s.timebase.toNat) && s.physNat (slotAddr s w.1) 8 / 2 ^ 62 == 1
  | none => false
/-- INDEX_WAIT_TIMEOUT. -/
def execIndexWaitTimeout (ctx : Nat) (s : State) : Host.Outcome State Fault Refusal :=
  match (if indexLate s ctx then streamNext s ctx true else none) with | some t => .next t | none => .refused .notEnabled

/-! ### The manifest: R332 -/

/-- R332: a shard entry. -/
def shardEntry (h : Shard) : List Byte :=
  leBytes 1 h.kind ++ leBytes 1 (if h.ref then 1 else 0) ++ zeros 2 ++ leBytes 4 h.unit ++ leBytes 8 h.base ++ leBytes 8 h.length
    ++ leBytes 8 (h.loc.getD 0) ++ padTo 32 h.digest
/-- R332: the manifest less its signature. -/
def manifestBody (k : Ckpt) : List Byte :=
  leBytes 4 0x4E4D4B43 ++ leBytes 2 1 ++ leBytes 2 (if k.fullNow then 1 else 0) ++ slice' k.header 8 2 ++ zeros 2 ++ leBytes 4 k.shards.length
    ++ leBytes 8 (k.closing.getD 0) ++ leBytes 8 k.base ++ leBytes 8 k.pauseTime.toNat ++ slice' k.header 0x20 8
    ++ leBytes 8 (if k.fullNow then 0 else k.prevLoc) ++ zeros 8 ++ (if k.fullNow then zeros 32 else padTo 32 k.prevDig) ++ zeros 32
    ++ padTo 128 k.header ++ padTo 128 k.xlat ++ k.shards.flatMap shardEntry
where
  slice' (b : List Byte) (a n : Nat) : List Byte := padTo n (b.drop a)
/-- R332: bytes of a signature. -/
def sigLen : Nat := 7856
/-- R332: the whole manifest, signed. -/
def manifestBytes (k : Ckpt) : List Byte := let m := manifestBody k; m ++ padTo sigLen (Config.signature m)
/-- R332: the interval can be sealed: every shard has its object, and every slot that was referenced reads present. -/
def sealable (s : State) (n : Nat) : Bool :=
  ckPhase s n == 4 && (s.ctx n).ckpt.shards.all fun h => h.loc.isSome && (!h.ref || match h.slot with
    | some i => s.physNat (slotAddr s i) 8 == keyOf 2 h.digest
    | none => true)
/-- R332, R414: the seal. -/
def sealIt (s : State) (n : Nat) : State :=
  let k := (s.ctx n).ckpt
  let b := manifestBytes k
  match storePut s b with
  | .error r => failInterval s n r
  | .ok (s, loc) =>
    let o := ckptOff n
    let s := ((s.setHost (o + 0x20) (BitVec.ofNat 64 loc)).setHostF (o + 0x18) 63 32 (k.closing.getD 0)).setHostF (o + 0x18) 31 28 0
    let s := modCkpt s n fun k => { k with closing := none, shards := [], streaming := [], protect := [], old := [], prevLoc := loc, prevDig := sha256 b }
    let s := telem s 6 (leBytes 8 (s.host (o + 0x18)).toNat ++ leBytes 8 (s.host (o + 0x28)).toNat)
    nextCut (setPhase s n 0) n
/-- INTERVAL_SEAL. -/
def execIntervalSeal (ctx : Nat) (s : State) : Host.Outcome State Fault Refusal :=
  if sealable s ctx then .next (sealIt s ctx) else .refused .notEnabled

/-! ### Save cost: R339 -/

/-- R309, R339: the bytes of tiles that a saving stop of the crew would discard. -/
def discardBytes (c : Crew) : Nat := 6144 * ((discardTiles c).filter fun t => decide (t < c.kernel.shape.tiles)).length
/-- R339: the bytes of a crew's sections in its image. -/
def crewCost (s : State) (c : Crew) : Nat := (crewSects s true c).foldl (fun n x => n + x.len) 0 - discardBytes c
def saveCost (s : State) (n : Nat) : Nat :=
  imageSize (contextSects s n true (awaitedSect s n true)) - (s.crewsOf n).foldl (fun a c => a + discardBytes c) 0
def cutDelta (s : State) (n : Nat) : Nat :=
  let full := ckFull s n
  let d := (s.ctx n).ckpt.dirty
  (s.crewsOf n).foldl (fun a c => a + stagedBytes s full d c) 0
    + (cutMemory s n).foldl (fun a u => a + (match u with | .page _ _ => 32768 | _ => 128)) 0
/-- R339: the cost registers of a bound context. -/
def costOf (s : State) (n : Nat) : State :=
  let o := ckptOff n
  let sel := (s.crewsOf n).find? fun c => c.pos == s.hostF (o + 0x38) 22 0
  ((s.setHost (o + 0x28) (BitVec.ofNat 64 (saveCost s n))).setHost (o + 0x30) (BitVec.ofNat 64 (cutDelta s n))).setHost (o + 0x40)
    (BitVec.ofNat 64 (sel.elim 0 (crewCost s)))
/-- COST_UPDATE. -/
def execCostUpdate (s : State) : Host.Outcome State Fault Refusal :=
  .next ((s.ctxs.filter (·.bound)).foldl (fun s x => costOf s x.num) s)

/-! ### Units that a binding writes: R323 -/

/-- Every register row, tile and scratchpad line of a crew. -/
def crewUnits (c : Crew) : List CkUnit :=
  ((List.range (slotsOf c.kernel.shape)).flatMap fun i => (List.range (rowsPer c.kernel.shape)).map fun r => .row c.pos i r)
    ++ (List.range c.kernel.shape.tiles).map (fun t => .tile c.pos t) ++ (List.range (c.kernel.shape.scratch / 128)).map fun l => .scratch c.pos l
/-- R323: units of a checkpointing context written as wholes by a launch or by the context-save unit. -/
def markUnits (s : State) (n : Nat) (us : List CkUnit) : State :=
  if ckEn s n then modCkpt s n fun k => { k with dirty := (k.dirty.filter fun u => !us.contains u) ++ us } else s

end Sys2Proof.Machine
end

