-- ==== Sys2Proof/Machine/Fabric.lean ====
section
/-! DEFINITION. Fabric requests at their target and replies at their issuer (R342, R355, R377), READY and NOTREADY (R353), time
exchange (R343), the domain number (R344) and port training (R420). -/
namespace Sys2Proof.Machine

/-! ### Replies at the issuer: R162, R342, R355 -/

/-- R158: the words of one element of a fabric access. -/
def elemWords (i : Instr) (elem x : Nat) : List (Nat × Word) :=
  match memOf i, ((i.fields?).getD Fields.blank).d with
  | some (o, _), .v n => if o.dcount = 0 then [] else resultWords o.t (n.toNat + elem * o.t.regs) x
  | _, _ => []
/-- A request no longer awaited. -/
def dropFab (s : State) (x : FabOut) : State := { s with fabOut := s.fabOut.filter fun y => y != x }
/-- R158: the reply's data reaches its registers; an `.acq` of fabric space orders only (R160). -/
def fabGive (s : State) (x : FabOut) (data : List Byte) : State :=
  writeRegs (dropFab s x) x.crew [(x.tid, elemWords x.instr x.elem (leNat data))]
/-- R162, R342: the fabric-target error of one lane: an unrecoverable deferred access with cause `0x09`. -/
def fabFail (s : State) (x : FabOut) : State :=
  let s := dropFab s x
  match s.crew? x.crew with
  | none => s
  | some c =>
    let l : LogLane := ⟨x.lane, x.tid, x.addr, [], 9, 0, .dead⟩
    let e : LogEntry := ⟨x.id, x.wid, x.instr, x.pc, [l]⟩
    let had := c.log.any fun y => y.id == x.id && y.lanes.any fun z => z.tid == x.tid
    endedTrap (if had then s else s.setCrew { c with log := logJoin e c.log }) x.crew e l

/-! ### The hold area: R355 -/

def holdReg (ctx : Nat) : Nat := aperOff ctx + 0x18
def holdAddr (s : State) (ctx : Nat) : Nat := s.hostF (holdReg ctx) 51 12 * 2 ^ 12
def holdLen (s : State) (ctx : Nat) : Nat := s.hostF (holdReg ctx) 11 0 * 2 ^ 12
def holdPend (s : State) (ctx : Nat) : Nat := s.hostF (aperOff ctx + 0x20) 47 32
def holdHeld (s : State) (ctx : Nat) : Nat := s.hostF (aperOff ctx + 0x20) 15 0
/-- The offset behind n records of an area, and the records. -/
def holdWalk (s : State) (a : Nat) : Nat → Nat → Nat × List Packet
  | 0, o => (o, [])
  | n + 1, o =>
    let p := (Packet.ofBytes (s.physRead (a + o) (64 * Nat.max 1 (s.physNat (a + o + 3) 1)))).1
    let r := holdWalk s a n (o + p.size)
    (r.1, p :: r.2)
/-- The header of the hold area written. -/
def holdHead (s : State) (ctx : Nat) : State :=
  if holdLen s ctx = 0 ∨ s.writeBad (holdAddr s ctx) 64 then s
  else s.blockWrite (holdAddr s ctx) 64 (memOfBytes (leBytes 4 0x444C4F48 ++ leBytes 2 (s.hostF (ctxOff ctx + 0x30) 15 0) ++ leBytes 2 0
    ++ leBytes 4 (holdHeld s ctx) ++ leBytes 4 (holdPend s ctx)))
/-- R355: at the end of a saving stop: n more replies are awaited. Replies held for crews saved before it stay (`keep`). -/
def holdStart (s : State) (ctx n : Nat) (keep : Bool) : State :=
  let held := if keep then holdHeld s ctx else 0
  let n := if keep then holdPend s ctx + n else n
  let s := s.setHost (aperOff ctx + 0x20) (BitVec.ofNat 64 (n % 2 ^ 16 * 2 ^ 32 + held))
  if n = 0 then s else holdHead s ctx
/-- R355: PEND falls by one. -/
def holdLower (s : State) (ctx : Nat) : State := s.setHostF (aperOff ctx + 0x20) 47 32 (holdPend s ctx - 1)
/-- R355: a reply for a saved context written to its hold area, or discarded. -/
def holdReply (s : State) (ctx : Nat) (p : Packet) : State :=
  let o := (holdWalk s (holdAddr s ctx) (holdHeld s ctx) 0x40).1
  let s := holdLower s ctx
  if holdLen s ctx < o + p.size ∨ s.writeBad (holdAddr s ctx + o) p.size then holdHead s ctx
  else
    holdHead ((s.blockWrite (holdAddr s ctx + o) p.size (memOfBytes (p.bytes 0))).setHostF (aperOff ctx + 0x20) 15 0 (holdHeld s ctx + 1)) ctx
/-- A reply at its issuer: to the access that awaits it, to the hold area of a saved context, or nowhere. -/
def fabReply (s : State) (p : Packet) : State :=
  let mine := s.fabOut.filter fun x => x.tag == p.tag && (s.ctx x.ctx).jobId == p.job
  let gone := mine.find? fun x => (s.crew? x.crew).isNone
  match mine.find? fun x => (s.crew? x.crew).isSome with
  | some x =>
    let s := match gone with | some y => holdLower (dropFab s y) y.ctx | none => s
    if p.type = 3 ∧ p.status = 0 then fabGive s x p.data else if (memOf x.instr).isSome then fabFail s x else dropFab s x
  | none => match gone with
    | some y => holdReply (dropFab s y) y.ctx p
    | none => s

/-! ### Requests at the target: R342, R377 -/

/-- R377: the die number under which the fabric's own translations are kept in a TLB (F0's socket). -/
def fabDie : Nat := 1
/-- R155, R398: the bound context of a job. -/
def State.jobCtx (s : State) (job : Half) : Option Ctx := s.ctxs.find? fun x => x.bound && x.jobV && x.jobId == job
def fabKind (p : Packet) : Access := if p.type = 0 then .read else if p.type = 1 then .write else .atomic
/-- R377: the request misses the aperture by its registers. -/
def apertureMiss (s : State) (ctx : Nat) (p : Packet) : Bool :=
  let o := aperOff ctx
  s.hostF (o + 0x10) 0 0 == 0 || decide (s.hostF (o + 8) 43 16 * 2 ^ 16 < p.off + p.len) || (p.type != 0 && s.hostF (o + 0x10) 1 1 == 0)
/-- R377: the keys of a request, cut at pages; an address that waits for its ATS translation; none on a fault. -/
def apertureKeys (s : State) (ctx : Nat) (p : Packet) : State × Option (List (Nat × Nat × Nat) ⊕ Nat) :=
  (pageSpans 3 ((s.hostF (aperOff ctx) 55 16 * 2 ^ 16 + p.off) % 2 ^ 56) p.len).foldl (fun r y =>
    match r.2 with
    | some (.inl l) =>
      let t := xlate r.1 fabDie none ctx y.1 (fabKind p)
      match t.2 with
      | .ok k v => (t.1, some (.inl (l ++ [(k, y.2, v)])))
      | .ats g => (t.1, some (.inr g))
      | .fault _ => (t.1, none)
    | _ => r) (s, some (.inl []))
/-- The enabled bytes of a store put down one after another. -/
def fabStore (s : State) (ctx : Nat) (p : Packet) (ks : List (Nat × Nat × Nat)) : State :=
  let cells := ks.flatMap fun k => (List.range k.2.1).map fun i => (k.1 + i, k.2.2)
  let s := if (List.range p.len).all p.be.getLsbD then s.clearPoison (coveredGranules (ks.map fun k => (k.1, k.2.1))) else s
  (cells.zip (p.data.zipIdx)).foldl (fun s x => if p.be.getLsbD x.2.2 then physWrite s (some ctx) (some x.1.2) none x.1.1 [x.2.1] else s) s
/-- A request performed for the bound context of its job: the answer; none while it must wait (R328, R270). -/
def fabTarget (s : State) (p : Packet) : Option (State × Packet) :=
  let neg := p.reply 4 1 p.injtb []
  match s.jobCtx p.job with
  | none => some (s, neg)
  | some x =>
    if apertureMiss s x.num p then some (s, neg)
    else
      let r := apertureKeys s x.num p
      match r.2 with
      | none => some (r.1, neg)
      | some (.inr _) => none
      | some (.inl ks) =>
        if p.type ≠ 0 && r.1.writesBlocked (ks.map (·.1)) then none
        else
          let whole := p.type == 1 && (List.range p.len).all p.be.getLsbD
          let s := r.1
          let t := if whole then s.clearPoison (coveredGranules (ks.map fun k => (k.1, k.2.1))) else s
          if ks.any fun k => t.poisoned k.1 k.2.1 then some (s, neg)
          else match p.type, ks with
            | 0, _ => some (s, p.reply 3 0 p.injtb (ks.flatMap fun k => s.physRead k.1 k.2.1))
            | 1, _ => some (fabStore s x.num p ks, p.reply 3 0 p.injtb [])
            | _, [k] =>
              let t := Ty.ofCode (p.op.extractLsb' 4 4)
              let op := p.op &&& 0x0F
              let w := t.bits / 8
              let n := if AOp.ofCode op = .cas then 2 * w else w
              if 10 ≤ op.toNat ∨ p.len ≠ n then some (s, neg)
              else
                let old := s.physNat k.1 w
                let new := atomicNew t (AOp.ofCode op) old [sliceNat p.data 0 w, sliceNat p.data w w]
                some (physWrite s (some x.num) (some k.2.2) none k.1 (leBytes w new), p.reply 3 0 p.injtb (leBytes w old))
            | _, _ => some (s, neg)
/-- An answer leaves by the port towards its device; where there is none it is lost. -/
def sendAnswer (s : State) (p : Packet) : State := match s.route p.dst with | some n => inject s n p | none => s
/-- R353: this device binds a context of the packet's job but does not advertise READY for it. -/
def State.unready (s : State) (p : Packet) : Bool := (s.jobCtx p.job).isSome && !s.isReady p.job s.domain
/-- R347, R353: packets that are not delivered: those of a job whose gang switch sweeps, and of one that is not READY. -/
def State.frozen (s : State) (p : Packet) : Bool :=
  ((s.gang.phase == 2 || s.gang.phase == 3) && s.hostF 0x800000 23 8 == p.job.toNat) || s.unready p
/-- R341: the oldest packet of a lane in a port's ingress queue, of one of the types given, that may be delivered now. -/
def ingressHead (s : State) (port vl : Nat) (types : List Nat) : Option Packet :=
  match (s.port? port).bind fun p => p.ingress.find? fun p => p.vl == vl with
  | some p => if types.contains p.type && !s.frozen p then some p else none
  | none => none
def takeIngress (s : State) (port : Nat) (p : Packet) : State := s.modPort port fun x => { x with ingress := x.ingress.erase p }
/-- R270: an aperture page in host memory asks for its translation. -/
def apertureAsk (s : State) (p : Packet) : State :=
  match s.jobCtx p.job with
  | none => s
  | some x => match apertureKeys s x.num p with
    | (t, some (.inr g)) => atsAsk t x.num g
    | _ => s
/-- A request delivered to memory. -/
def deliverRequest (port vl type : Nat) (s : State) : Host.Outcome State Fault Refusal :=
  match ingressHead s port vl [type] with
  | none => .refused .notEnabled
  | some p => match fabTarget s p with
    | some r => .next (sendAnswer (takeIngress r.1 port p) r.2)
    | none => if apertureAsk s p = s then .refused .notEnabled else .next (apertureAsk s p)
/-- FABRIC_LOAD_REQUEST. -/
def execFabricLoadRequest (port vl : Nat) (s : State) : Host.Outcome State Fault Refusal := deliverRequest port vl 0 s
/-- FABRIC_STORE_REQUEST. -/
def execFabricStoreRequest (port vl : Nat) (s : State) : Host.Outcome State Fault Refusal := deliverRequest port vl 1 s
/-- FABRIC_ATOMIC_REQUEST. -/
def execFabricAtomicRequest (port vl : Nat) (s : State) : Host.Outcome State Fault Refusal := deliverRequest port vl 2 s
/-- FABRIC_REPLY. -/
def execFabricReply (port vl : Nat) (s : State) : Host.Outcome State Fault Refusal :=
  match ingressHead s port vl [3] with
  | none => .refused .notEnabled
  | some p => .next (fabReply (takeIngress s port p) p)
/-- FABRIC_NEGATIVE_REPLY. -/
def execFabricNegativeReply (port vl : Nat) (s : State) : Host.Outcome State Fault Refusal :=
  match ingressHead s port vl [4] with
  | none => .refused .notEnabled
  | some p => .next (fabReply (takeIngress s port p) p)

/-! ### Control messages and ports: R343, R344, R353, R420 -/

/-- READY. -/
def execReady (job : Half) (peer : BitVec 12) (s : State) : Host.Outcome State Fault Refusal := .next (setReady s job peer.toNat true)
/-- NOTREADY. -/
def execNotready (job : Half) (peer : BitVec 12) (s : State) : Host.Outcome State Fault Refusal := .next (setReady s job peer.toNat false)
/-- TIME_EXCHANGE: the timebase is within its 8 ticks of the master's; what is set right by less is the master's to show (log
entry 32). -/
def execTimeExchange (s : State) : Host.Outcome State Fault Refusal := .next s
/-- R344: `FAB_DOMAIN` written; ignored while a port is up. -/
def fabDomainWrite (s : State) (x m : Quad) : State :=
  if s.ports.any (·.up) then s
  else s.setHost 0x800030 ((s.host 0x800030 &&& ~~~m ||| x &&& m) &&& 0x1FFF)
/-- FAB_DOMAIN_WRITE. -/
def execFabDomainWrite (v : Bool) (num : BitVec 12) (s : State) : Host.Outcome State Fault Refusal :=
  .next (fabDomainWrite s (BitVec.ofNat 64 (num.toNat + if v then 4096 else 0)) (BitVec.allOnes 64))
/-- R26: the island of a fabric port. -/
def portIsland (n : Nat) : Nat :=
  let k := n % 18
  (if n < 18 then 52 else 56) + (if k < 5 then 0 else if k < 10 then 1 else if k < 14 then 2 else 3)
/-- R14: the port's die is fenced or its island is off. -/
def State.portDead (s : State) (n : Nat) : Bool := s.socketFenced (if n < 18 then 1 else 2) || s.islandOff (portIsland n)
/-- PORT_TRAINING: R420: a port comes up, or a training failure takes it down. With `FAB_DOMAIN.V` = 0 no port trains, nor one
without power. R415: the spare lane replaces a failed one. -/
def execPortTraining (port : Nat) (ok : Bool) (s : State) : Host.Outcome State Fault Refusal :=
  if s.hostF 0x800030 12 12 = 0 ∨ 36 ≤ port ∨ s.portDead port then .refused .notEnabled
  else .next (s.modPort port fun p =>
    let spare := ok && decide (p.lanes < 4) && !p.spareUsed
    { p with up := ok, spareUsed := p.spareUsed || spare, lanes := if spare then p.lanes + 1 else p.lanes })

end Sys2Proof.Machine
end

