-- ==== Sys2Proof/Machine/Restore.lean ====
section
/-! DEFINITION. Context images read back: the checks of R314, the state of each crew (R311 to R313, R147 to R149, R173, R202,
R338), the binding of a restored context or crew and its resume up to step 5 (R315, R337, R352, R355). -/
namespace Sys2Proof.Machine

/-! ### Reading bytes -/

/-- Every value of a list, if each is there. -/
def allSome {α : Type} : List (Option α) → Option (List α)
  | [] => some []
  | none :: _ => none
  | some x :: r => (allSome r).map fun l => x :: l
def slice (b : List Byte) (a n : Nat) : List Byte := (b.drop a).take n
def isZero (b : List Byte) : Bool := b.all fun x => x == 0
/-- The slice [a, a + n) is zero. -/
def zeroAt (b : List Byte) (a n : Nat) : Bool := isZero (slice b a n)
def bitList (n x : Nat) : List Bool := (List.range n).map fun i => x.testBit i

/-! ### The header and the directory: R310, R314 -/

/-- R310: the place of a section in the order: translation, crews by position, vaults, fabric. -/
def sectRank (x : Sect) : Option Nat :=
  if x.ty = 1 then (if x.unit = 0 then some 0 else none)
  else if 2 ≤ x.ty ∧ x.ty ≤ 10 then some (1 + x.unit * 16 + x.ty)
  else if x.ty = 12 then some (2 ^ 40 + x.unit)
  else if x.ty = 11 ∧ x.unit = 0 then some (2 ^ 41) else none
def rising : List Nat → Bool
  | a :: b :: r => decide (a < b) && rising (b :: r)
  | _ => true
/-- R310, R314: header and sections of an image; none where a check of either fails. -/
def parseImage (m : Mem) : Option (ImgHead × List Sect) :=
  let b := m.bytes 0 128
  let n (a k : Nat) : Nat := sliceNat b a k
  let nsec := n 0x28 4
  let size := n 0x10 8
  if n 0 4 ≠ 0x49434E5A ∨ n 4 2 ≠ 1 ∨ n 6 1 ≠ 2 ∨ 1 < n 7 1 ∨ 16 ≤ n 10 2 ∨ !zeroAt b 0x0D 3 ∨ !zeroAt b 0x4A 2 ∨ !zeroAt b 0x50 48
      ∨ size < firstOff nsec then none
  else
    let ents := (List.range nsec).map fun i => let a := 128 + 16 * i; (m.nat a 2, m.nat (a + 2) 2, m.nat (a + 4) 4, 64 * m.nat (a + 8) 4, 64 * m.nat (a + 12) 4)
    let xs := ents.map fun e => (⟨e.1, e.2.2.1, e.2.2.2.2, m.section e.2.2.2.1 e.2.2.2.2⟩ : Sect)
    let tail := firstOff nsec - (128 + 16 * nsec)
    if ents.any (fun e => e.2.1 != 0 || e.2.2.2.2 == 0) ∨ ents.map (fun e => e.2.2.2.1) ≠ offsets (firstOff nsec) xs ∨ size < imageSize xs
        ∨ !(m.section (128 + 16 * nsec) tail).isEmpty then none
    else match allSome (xs.map sectRank) with
      | some r =>
        if rising r && n 0x48 2 != 0 then
          some ({ kind := n 7 1, job := n 8 2, flags := n 10 2, reason := n 12 1, time := BitVec.ofNat 64 (n 0x18 8)
                  step := BitVec.ofNat 64 (n 0x20 8), token := BitVec.ofNat 32 (n 0x2C 4), shape := slice b 0x30 24
                  g := n 0x48 2, ncrew := n 0x4C 4 }, xs)
        else none
      | none => none
def findSect (xs : List Sect) (ty unit : Nat) : Option Sect := xs.find? fun x => x.ty == ty && x.unit == unit
/-- The bytes of a section; none of them where it was left out. -/
def sectBytes (xs : List Sect) (ty unit : Nat) : List Byte :=
  match findSect xs ty unit with | some x => x.data.bytes 0 x.len | none => []

/-! ### Thread records: R312, R147, R148 -/

/-- R147, R148: links and chain records that agree. -/
def linksAgree (links : List LinkReg) (chain : List ChainRec) : Bool :=
  let srcs := chain.flatMap fun r => r.linkNums.eraseDups
  ((links.zipIdx).all fun l =>
      let made := (chain.filter fun r => r.producer && r.d.toNat == 0x100 + l.2).length
      l.1.legal && (match l.1.st with | .empty | .part => made == 1 | _ => made == 0))
    && chain.all (fun r => !r.producer || decide (r.d.toNat - 0x100 < links.length))
    && srcs.all (fun n => match links[n]? with | some l => l.st == .part || l.st == .full | none => false)
    && srcs.eraseDups.length == srcs.length
/-- R312: a thread record; none where a check of R314 fails. -/
def parseThread (sh : Shape) (b : List Byte) : Option Thread :=
  let o := 4 * sh.regs + sh.regs / 8
  let n (a k : Nat) : Nat := sliceNat b (o + a) k
  let rm := BitVec.ofNat 2 (n 12 4)
  let nrec := n 24 1
  let depth := n 20 2
  let link (i : Nat) : Option LinkReg :=
    let wide := (n 22 2).testBit i
    if !wide ∧ !zeroAt b (o + 132 + 32 * i + 16) 16 then none else LinkReg.ofSnapshot wide (n (132 + 32 * i) 32)
  let co := 132 + 32 * sh.links
  match allSome ((List.range sh.links).map link), allSome ((List.range (Nat.min nrec 12)).map fun i => ChainRec.ofBytes (slice b (o + co + 32 * i) 32) i rm) with
  | some links, some chain =>
    if 12 < nrec ∨ 1 < n 25 1 ∨ 2 ^ sh.links ≤ n 22 2 ∨ 2 ^ sh.preds ≤ n 0 12 ∨ n 26 2 ≠ 0 ∨ 512 < depth
        ∨ (BitVec.ofNat 32 (n 12 4) &&& 0x1F03) ≠ BitVec.ofNat 32 (n 12 4) ∨ 32 ≤ n 16 4 ∨ n 28 8 ≠ n 28 8 % 2 ^ 56 / 8 * 8
        ∨ !zeroAt b (o + 36 + 8 * Nat.min depth 8) (64 - 8 * Nat.min depth 8) ∨ !zeroAt b (o + co + 32 * nrec) (384 - 32 * nrec)
        ∨ !zeroAt b (o + co + 384) (threadLen sh - (o + co + 384)) ∨ !linksAgree links chain then none
    else some
      { v := (List.range sh.regs).map fun i => BitVec.ofNat 32 (sliceNat b (4 * i) 4)
        full := bitList sh.regs (sliceNat b (4 * sh.regs) (sh.regs / 8)), p := BitVec.ofNat 96 (n 0 12), links := links, chain := chain
        fpctl := BitVec.ofNat 32 (n 12 4), fpflags := BitVec.ofNat 32 (n 16 4), rsdepth := depth, rsbase := BitVec.ofNat 64 (n 28 8)
        rstack := (List.range (Nat.min depth 8)).map fun i => BitVec.ofNat 64 (n (36 + 8 * i) 8), capture := slice b (o + 100) 32
        exited := n 25 1 == 1, facq := none, frel := none, finv := false }
  | _, _ => none

/-! ### Warp records: R298, R313 -/

/-- R298: a trap record; none where its zero fields are not zero. What its 64 bytes do not hold is lost (log entry 127). -/
def TrapRec.ofBytes (b : List Byte) : Option TrapRec :=
  let n (a k : Nat) : Nat := sliceNat b a k
  if n 4 4 ≠ 0 ∨ n 56 8 ≠ 0 then none
  else some ⟨BitVec.ofNat 32 (n 0 4), BitVec.ofNat 64 (n 8 8), BitVec.ofNat 64 (n 16 8), BitVec.ofNat 64 (n 24 8), BitVec.ofNat 128 (n 32 16), BitVec.ofNat 64 (n 48 8), .none⟩
/-- R52: the 16 bytes from an address of the code segment on, as a word. -/
def Kernel.word (k : Kernel) (pc : BitVec 56) : BitVec 128 := BitVec.ofNat 128 (k.code.nat (pc.toNat - k.codeVA) 16)
def decodeAt (k : Kernel) (pc : BitVec 56) : Option Instr :=
  match decode k.shape (pc.toNat % 32) (k.word pc) with | .ok i => some i | .error _ => none
/-- R313: a frontier entry. A `jwait` belongs to the join that its lanes arrived at; an `swait` executes again (R173). -/
def parseEntry (joins : List Join) (eid : Nat) (b : List Byte) : Option (Option Entry) :=
  let w := sliceNat b 0 8
  let m := BitVec.ofNat 128 (sliceNat b 8 16)
  let hold : Option Hold := match bitsOf w 61 60 with
    | 1 => (joins.findIdx? fun j => m != 0 && j.arrived &&& m == m).map .jwait
    | 2 => some .bar
    | _ => some .none
  if w < 2 ^ 63 then (if isZero b then some none else none)
  else match hold with
    | some h => if bitsOf w 62 62 = 1 ∨ !zeroAt b 24 8 ∨ m = 0 then none
        else some (some ⟨eid, BitVec.ofNat 56 w, m, bitsOf w 59 56, h, [], 0⟩)
    | none => none
/-- R110: entries that stand at one address and are not held are one entry. -/
def mergeEntries (es : List Entry) : List Entry :=
  es.foldl (fun r e => if e.hold == .none && r.any (fun x => x.hold == .none && x.pc == e.pc) then
    r.map fun x => if x.hold == .none && x.pc == e.pc then { x with mask := x.mask ||| e.mask } else x
    else r ++ [e]) []
/-- No lane stands in two entries. -/
def disjointMasks : List Entry → Bool
  | [] => true
  | e :: r => r.all (fun x => x.mask &&& e.mask == 0) && disjointMasks r
/-- R93, R94: the micro-operation record of a saved warp: the first entry, in frontier order, that stands at a deprecated instruction
with its opcode (log entry 139). The captured lane mask is that of the guard, which no step of such an instruction writes. -/
def parseMicro (k : Kernel) (es : List Entry) (on : Mask → Guard → Mask) (mstep op : Nat) (vals : List Word) : Option Micro :=
  if mstep = 0 then none
  else es.findSome? fun e =>
    if e.hold ≠ .none then none
    else match decodeAt k e.pc with
      | some i => if opOf i == op && (match i with | .vgat _ | .dmov _ | .lcpy _ _ => true | _ => false) then
          some ⟨i, e.eid, on e.mask ((i.fields?).getD Fields.blank).g, e.mask, mstep, match i with | .lcpy n _ => vals.take n.toNat | _ => []⟩
          else none
      | none => none
/-- The entry that a saved trap or handler belongs to. -/
def eidOf (es : List Entry) (m : Mask) : Nat :=
  match es.find? fun e => e.mask &&& m != 0 with | some e => e.eid | none => (es.head?.map (·.eid)).getD 0
/-- R313: a warp record; none where a check of R314 fails. -/
def parseWarp (k : Kernel) (ths : List Thread) (wid eid0 : Nat) (b : List Byte) : Option Warp :=
  let sh := k.shape
  let n (a c : Nat) : Nat := sliceNat b a c
  let width := if sh.width = 0 then 32 else sh.width
  let joins := (List.range 8).map fun i => (⟨BitVec.ofNat 128 (n (768 + 32 * i) 16), BitVec.ofNat 128 (n (784 + 32 * i) 16)⟩ : Join)
  let tids := (List.range width).map fun i =>
    if sh.width = 0 then (if n (1224 + 4 * i) 4 = 0xFFFFFFFF then none else some (n (1224 + 4 * i) 4)) else some (wid * width + i)
  match allSome ((List.range 8).map fun i => parseEntry joins (eid0 + i) (slice b (32 * i) 32)), TrapRec.ofBytes (slice b 1024 64),
    TrapRec.ofBytes (slice b 1104 48) with
  | some oes, some tr, some hr =>
    let es := oes.filterMap id
    let live := es.foldl (fun m e => m ||| e.mask) (0 : Mask)
    let bad (i : Nat) : Bool := match tids.getD i none with | some t => (match ths[t]? with | some t => t.exited | none => true) | none => true
    if !disjointMasks es ∨ (List.range 128).any (fun i => live.getLsbD i && (decide (width ≤ i) || bad i)) ∨ 1 < n 1088 1 ∨ !zeroAt b 1089 7
        ∨ (n 1088 1 = 0 ∧ !zeroAt b 1096 56) ∨ !zeroAt b 1154 6 ∨ !zeroAt b 1352 56 ∨ (sh.width ≠ 0 ∧ !zeroAt b 1224 128)
        ∨ 2 ^ 56 ≤ n 1096 8 then none
    else
      let es := mergeEntries es
      let on (m : Mask) (g : Guard) : Mask := maskOf ((lanesOf 128 m).filter fun i => match (tids.getD i none).bind fun t => ths[t]? with
        | some t => guardOn g t
        | none => false)
      some { wid := wid, lanes := (tids.zipIdx).map fun t => if live.getLsbD t.2 then t.1 else none, entries := es
             s := (List.range 64).map fun i => BitVec.ofNat 64 (n (256 + 8 * i) 8), joins := joins
             trap := if zeroAt b 1024 64 then none else some tr, trapEid := eidOf es tr.tmask
             handler := if n 1088 1 = 0 then none else some ⟨BitVec.ofNat 56 (n 1096 8), hr, eidOf es hr.tmask⟩
             micro := parseMicro k es on (n 1152 1) (n 1153 1) ((List.range 16).map fun i => BitVec.ofNat 32 (n (1160 + 4 * i) 4))
             stall := none, away := none, migWait := none, cpy := none, waiting := 0 }
  | _, _, _ => none

/-! ### The pool: R311 -/

/-- R311: the pool's records put back, oldest first; one held at an `swait` executes it again. There is one record for each thread that
is in no lane and has not exited. -/
def parsePool (cycle : Nat) (c : Crew) (b : List Byte) : Option Crew :=
  let n (a k : Nat) : Nat := sliceNat b a k
  let all := (List.range (b.length / 16)).map fun i => (n (16 * i) 8, n (16 * i + 8) 4, n (16 * i + 12) 4)
  let want := (List.range c.kernel.shape.crew).filter fun t => !(c.thread t).exited && !c.warps.any fun w => w.lanes.contains (some t)
  let rs := all.take want.length
  let bad := rs.any fun r => decide (r.1 < 2 ^ 63) || bitsOf r.1 62 62 == 1 || bitsOf r.1 61 60 == 1
  let tids := sortBy (fun a b : Nat => decide (a ≤ b)) (rs.map fun r => r.2.1)
  if bad ∨ tids ≠ want ∨ b.length ≠ pad64 (16 * want.length) ∨ !isZero (b.drop (16 * want.length)) then none
  else
    let rs := sortBy (fun a b : Nat × Nat × Nat => decide (a.2.2 ≤ b.2.2)) rs
    some (rs.foldl (fun c r =>
      let pc := BitVec.ofNat 56 r.1
      if bitsOf r.1 61 60 = 2 then { c with held := c.held ++ [⟨pc, r.2.1, .bar⟩] }
      else poolInsert ⟨pc, bitsOf r.1 59 56, r.2.1, cycle - rs.length + r.2.2⟩ c) c)

/-! ### Engines: R202, R311 -/

/-- R202: the saved progress in a parameter block. -/
def savedPass (c : Crew) (r : MatReq) : Option MatReq :=
  let cur := c.scratch.nat (r.block + 1) 1
  let beat := c.scratch.nat (r.block + 2) 1
  let saved := c.scratch.nat (r.block + 3) 1
  let r := { r with cur := cur, beat := if saved = 0 then 0 else beat }
  let w := (List.range 256).map fun i => BitVec.ofNat 128 (c.scratch.nat (matPartial r.header + 16 * i) 16)
  if r.passes.length ≤ cur ∨ passBeats r.pass ≤ beat ∨ 1 < saved ∨ (saved = 1 ∧ w.any fun x => !wpLegal x) then none
  else some { r with w := if saved = 1 then w else [] }
/-- R311: a matrix record with its WSEQ. -/
def parseMat (c : Crew) (mark0 : Nat) (b : List Byte) : Option (MatReq × Nat) :=
  let n (a k : Nat) : Nat := sliceNat b a k
  let np := n 16 1
  let st : MatSt := match n 5 1 with | 0 => .queued | 1 => .running | 2 => .done | _ => .faulted
  let live := n 5 1 == 0 || n 5 1 == 1
  let hd := slice b 16 16
  let h0 := hd.take 1 ++ zeros 3 ++ hd.drop 4
  let shapes := (List.range 32).filterMap fun t => if n (288 + 4 * t) 4 = 0 then none else some (t, BitVec.ofNat 32 (n (288 + 4 * t) 4))
  let r : MatReq := ⟨n 0 4 % 32, BitVec.ofNat 32 (n 0 4), BitVec.ofNat 2 (n 4 1), if live then .queued else st, n 17 1, n 18 1, n 8 4,
    if live then hd else h0, (List.range (Nat.min np 32)).map fun i => BitVec.ofNat 64 (n (32 + 8 * i) 8), shapes, mark0 + n 6 2, 0, 0, []⟩
  if 3 < n 4 1 ∨ 3 < n 5 1 ∨ n 12 4 ≠ 0 ∨ np = 0 ∨ 32 < np ∨ !zeroAt b (32 + 8 * np) (256 - 8 * np) ∨ !zeroAt b 416 32 then none
  else if live then (savedPass c r).map fun r => (r, n 6 2) else some (r, n 6 2)
/-- R311: a copy record. -/
def parseCopy (b : List Byte) : Option CopyEnt :=
  let n (a k : Nat) : Nat := sliceNat b a k
  let st : CopySt := match n 5 1 % 8 with | 0 => .running | 1 => .done | 2 => .part | _ => .faulted
  let d := copyDesc (slice b 24 64)
  if 3 < n 4 1 ∨ 3 < n 5 1 % 128 ∨ 15 < n 6 1 ∨ n 12 4 ≠ 0 ∨ !zeroAt b 88 40 ∨ d.total < n 8 4 then none
  else some ⟨BitVec.ofNat 32 (n 0 4), BitVec.ofNat 2 (n 4 1), st, BitVec.ofNat 4 (n 6 1), BitVec.ofNat 8 (n 7 1), n 8 4, BitVec.ofNat 64 (n 16 8),
    slice b 24 64, decide (128 ≤ n 5 1), none⟩

/-! ### Transfers: R311 -/

/-- R189: what a saved writer or reader appends again: a request from its current pass on, a `tld`, a `tst`. -/
inductive Mark
  | mat (r : MatReq) | load (tile id : Nat) | store (tile : Nat)
  deriving DecidableEq, Repr
def Mark.apply (c : Crew) : Mark → Crew
  | .mat r => if matLive r then markTiles c r.mark (r.passes.drop r.cur) else c
  | .load t id => { c with tiles := c.tiles.modify t fun y => { y with writers := y.writers ++ [id] } }
  | .store t => { c with tiles := c.tiles.modify t fun y => { y with lends := y.lends + 1 } }
/-- What a crew's sections give: the crew, its marks by WSEQ, and the fabric requests it awaits. -/
structure Parsed where
  crew : Crew
  marks : List (Nat × Mark)
  fabs : List FabOut
  deriving DecidableEq, Repr
/-- The tile of a tile instruction. -/
def tileOfInstr : Instr → Option Nat
  | .tld _ _ _ f => match f.d with | .t n => some n.toNat | _ => none
  | .tst _ _ _ f => match f.a with | .t n => some n.toNat | _ => none
  | .tzero f => match f.d with | .t n => some n.toNat | _ => none
  | _ => none
/-- A lane of a transfer record: lane, thread, address, operands, cause, tries. -/
structure RecLane where
  lane : Nat
  tid : Nat
  addr : Quad
  ops : List Quad
  cause : Nat
  tries : Nat
  deriving DecidableEq, Repr
/-- R311: the lanes of a record; none where their zero bytes are not zero, or a lane has no thread. -/
def recLanes (tid : Nat → Option Nat) (b : List Byte) (m : Mask) : Option (List RecLane) :=
  allSome (((lanesOf 128 m).zipIdx).map fun l =>
    let o := 64 + 48 * l.2
    if !zeroAt b (o + 42) 6 ∨ b.length < o + 48 then none
    else (tid l.1).map fun t => ⟨l.1, t, BitVec.ofNat 64 (sliceNat b o 8), (List.range 4).map fun i => BitVec.ofNat 64 (sliceNat b (o + 8 + 8 * i) 8),
      sliceNat b (o + 40) 1, sliceNat b (o + 41) 1⟩)
/-- R311: the warp that a record's index names, and the thread of each of its lanes; beyond the warp records, one thread by its `tid`
(log entry 134). -/
def recWid (c : Crew) (wids : List Nat) (i : Nat) : Nat :=
  (wids[i]?).getD ((i - wids.length) / (if c.kernel.shape.width = 0 then 32 else c.kernel.shape.width))
def recTid (c : Crew) (wids : List Nat) (i lane : Nat) : Option Nat :=
  let sh := c.kernel.shape
  match wids[i]? with
  | some wid => if sh.width = 0 then (c.warp? wid).bind fun w => w.lanes.getD lane none
    else if lane < sh.width then some (wid * sh.width + lane) else none
  | none => if i - wids.length < sh.crew then some (i - wids.length) else none
/-- R165: captured operands of an access. -/
def MemOp.opCount (o : MemOp) : Nat := match o.kind with | .write => o.count | .atomic => if o.aop == .cas then 2 else 1 | _ => 0
/-- R311, R352, R354: an operand-log record: deferred lanes, captured results, or awaited replies. -/
def addRecord (p : Parsed) (id wid cause : Nat) (i : Instr) (pc : BitVec 56) (ls : List RecLane) : Option Parsed :=
  match memOf i with
  | none => none
  | some (o, _) =>
    let c := p.crew
    if cause = 0xFE then
      some { p with fabs := p.fabs ++ ls.map fun l =>
        ⟨(l.ops.headD 0).setWidth 32, id, c.ctx, c.id, wid, l.lane, l.tid, i, pc, l.addr.toNat % o.bytes / o.w, l.addr⟩ }
    else
      let lane (l : RecLane) : LogLane :=
        if cause = 0xFF then ⟨l.lane, l.tid, l.addr, [], 0, 0, .captured (l.ops.headD 0)⟩
        else ⟨l.lane, l.tid, l.addr, l.ops.take o.opCount, l.cause, l.tries, if 4 ≤ l.cause then .dead else .table⟩
      some { p with crew := { c with log := c.log ++ [⟨id, wid, i, pc, ls.map lane⟩] } }
/-- R195, R311: a pending tile instruction: its transfer, or the zeros of a `tzero`. -/
def addTransfer (p : Parsed) (mark0 kind cause tries wseq wid : Nat) (i : Instr) (pc : BitVec 56) (l : RecLane) : Option Parsed :=
  match tileOfInstr i with
  | none => none
  | some t =>
    let c := p.crew
    let wait : Option Stall := if cause = 0 then none else some ⟨l.addr.toNat, if kind = 1 then .read else .write, tries, cause, false⟩
    let x : Transfer := ⟨mark0 + wseq, i, pc, wid, l.lane, l.tid, t, l.addr, (l.ops.headD 0).setWidth 32, wait, decide (4 ≤ cause)⟩
    match i, kind with
    | .tld _ _ _ _, 1 => some { p with crew := { c with transfers := c.transfers ++ [x] }, marks := p.marks ++ [(wseq, .load t x.id)] }
    | .tst _ _ _ _, 2 => some { p with crew := { c with transfers := c.transfers ++ [x] }, marks := p.marks ++ [(wseq, .store t)] }
    | .tzero _, 3 => some { p with crew := { c with tiles := c.tiles.modify t fun y => { y with data := [] } } }
    | _, _ => none
/-- R311: the transfer records of a crew one after another, up to the padding. -/
def parseTransfers (wids : List Nat) (id0 mark0 : Nat) : Nat → List Byte → Parsed → Option Parsed
  | 0, _, p => some p
  | k + 1, b, p =>
    let n (a k : Nat) : Nat := sliceNat b a k
    if b.length < 64 then (if isZero b then some p else none)
    else
      let m : Mask := BitVec.ofNat 128 (n 32 16)
      let pc := BitVec.ofNat 56 (n 48 8)
      let i := decode p.crew.kernel.shape (pc.toNat % 32) (BitVec.ofNat 128 (n 16 16))
      let wid := recWid p.crew wids (n 4 4)
      match recLanes (recTid p.crew wids (n 4 4)) b m, i with
      | some ls, .ok i =>
        if ls.isEmpty ∨ (wids.length ≤ n 4 4 ∧ 1 < ls.length) ∨ n 3 1 ≠ 0 ∨ n 12 4 ≠ 0 ∨ !zeroAt b 56 8 ∨ 3 < n 0 1 then none
        else
          let r := if n 0 1 = 0 then addRecord p (id0 + k) wid (n 1 1) i pc ls
            else match ls with | l :: _ => addTransfer p mark0 (n 0 1) (n 1 1) (n 2 1) (n 8 4) wid i pc l | [] => none
          match r with
          | some p => parseTransfers wids id0 mark0 k (b.drop (64 + 48 * ls.length)) p
          | none => none
      | _, _ => none

/-! ### A whole crew -/

/-- Identifiers kept apart for a restored crew: entries, marks, log entries. -/
def idSpan : Nat := 65536
/-- R311, R314: a crew from its sections; none where a check fails. -/
def parseCrew (s : State) (xs : List Sect) (fresh : Crew) : Option Parsed :=
  let u := fresh.id + 1
  let k := fresh.kernel
  let sh := k.shape
  let pos := fresh.pos
  let cb := sectBytes xs 2 pos
  let n (a c : Nat) : Nat := sliceNat cb a c
  let len (ty : Nat) : Nat := (findSect xs ty pos).elim 0 (·.len)
  let tb := sectBytes xs 4 pos
  let wb := sectBytes xs 5 pos
  let nw := wb.length / 1408
  if len 2 ≠ 448 ∨ len 3 ≠ pad64 sh.scratch ∨ len 4 ≠ pad64 (sh.crew * threadLen sh) ∨ len 7 ≠ 6144 * sh.tiles ∨ len 8 % 448 ≠ 0 ∨ 32 * 448 < len 8
      ∨ len 9 % 128 ≠ 0 ∨ 16 * 128 < len 9 ∨ len 5 ≠ pad64 (nw * 1408) ∨ (sh.width ≠ 0 ∧ len 6 ≠ 0)
      ∨ (sh.width = 0 ∧ ceilDiv sh.crew 32 < nw) ∨ 7 < n 0 1 ∨ !zeroAt cb 1 3 ∨ !zeroAt cb 404 44 then none
  else
    match allSome ((List.range sh.crew).map fun t => parseThread sh (slice tb (t * threadLen sh) (threadLen sh))) with
    | none => none
    | some ths =>
      let wids := if sh.width = 0 then List.range nw
        else (List.range (sh.crew / sh.width)).filter fun i => ((ths.drop (i * sh.width)).take sh.width).any fun t => !t.exited
      if wids.length ≠ nw then none else
      match allSome ((wids.zipIdx).map fun i => parseWarp k ths i.1 (u + 8 * i.2) (slice wb (1408 * i.2) 1408)) with
      | none => none
      | some ws =>
        let tile (t : Nat) : Tile :=
          ⟨(match findSect xs 7 pos with | some x => x.data.section (6144 * t) 6144 | none => []), tcfgKeep (BitVec.ofNat 32 (n (268 + 4 * t) 4)), [], 0⟩
        let c : Crew := { fresh with
          cls := n 0 1, started := true, threads := ths, warps := ws, barrier := ⟨n 4 4, n 8 4, BitVec.ofNat 2048 (n 12 256)⟩
          scratch := (match findSect xs 3 pos with | some x => x.data.section 0 sh.scratch | none => [])
          tiles := (List.range sh.tiles).map tile, copySerial := n 396 4, matSerial := n 400 4 }
        let mb := sectBytes xs 8 pos
        let cpb := sectBytes xs 9 pos
        let mark0 := u + 16384
        match (if sh.width = 0 then parsePool s.cycle c (sectBytes xs 6 pos) else some c),
          allSome ((List.range (mb.length / 448)).map fun i => parseMat c mark0 (slice mb (448 * i) 448)),
          allSome ((List.range (cpb.length / 128)).map fun i => parseCopy (slice cpb (128 * i) 128)) with
        | some c, some ms, some cs =>
          let c := ms.foldl (fun (c : Crew) m => { c with mats := c.mats.set m.1.num (some m.1) }) c
          let c := cs.foldl (fun (c : Crew) x => { c with copies := c.copies.set (x.handle.toNat % 16) (some x) }) c
          match parseTransfers wids (u + 32768) mark0 ((sectBytes xs 10 pos).length / 64 + 1) (sectBytes xs 10 pos) ⟨c, ms.map fun m => (m.2, Mark.mat m.1), []⟩ with
          | none => none
          | some p =>
            let marks := sortBy (fun a b : Nat × Mark => decide (a.1 ≤ b.1)) p.marks
            let seqs := marks.map (·.1)
            if !rising seqs ∨ (ms.map fun m => m.1.num).eraseDups.length ≠ ms.length
                ∨ (cs.map fun x => x.handle.toNat % 16).eraseDups.length ≠ cs.length
                ∨ p.crew.transfers.any fun x => decide (sh.tiles ≤ x.tile) then none
            else some { p with crew := freeSlots (marks.foldl (fun c m => m.2.apply c) p.crew) }
        | _, _, _ => none

/-! ### Dissolving: R338 -/

/-- R338: a warp that a restore dissolves into records. One that stands inside a deprecated instruction stays a warp, so that it resumes
at its step (R94, log entry 140). -/
def dissolves (c : Crew) (fabs : List FabOut) (w : Warp) : Bool :=
  w.entries.length == 1 && w.entries.all (fun e => e.hold == .none) && !w.joined w.live && w.handler.isNone && w.trap.isNone && w.micro.isNone
    && (c.logOf w).isEmpty && !(c.transfers.any fun x => w.lanes.contains (some x.tid)) && !(fabs.any fun x => w.lanes.contains (some x.tid))
    && w.lanes.all fun t => match t with
      | some t => (c.thread t).chain.isEmpty | none => true
/-- R338: every such warp of a width-free crew. -/
def dissolve (cycle : Nat) (fabs : List FabOut) (c : Crew) : Crew :=
  if c.kernel.shape.width ≠ 0 then c
  else
    let out := c.warps.filter fun w => dissolves c fabs w
    out.foldl (fun c w => match w.entries.head? with
      | some e => lanesToPool c.kernel cycle e.pc (some e.prio) ((w.lanesIn e.mask).map (·.2)) c
      | none => c) { c with warps := c.warps.filter fun w => !out.contains w }

end Sys2Proof.Machine
end

