-- ==== Sys2Proof/Machine/Resume.lean ====
section
/-! DEFINITION. A checked image bound and resumed up to step 5 (R202, R225 to R227, R315, R337, R352, R355). -/
namespace Sys2Proof.Machine

/-! ### What the scheduler supplies: R310, R390 -/

/-- R310: the kernel descriptor that a TOKEN maps to. -/
def State.tokenDesc (s : State) (t : Word) : Option Nat := (s.tokens.find? fun x => x.1 == t).map (·.2)
/-- R315: step 1: the window and its holes, as the image's translation section has them. -/
def loadWindow (s : State) (n : Nat) (tb : List Byte) : State :=
  let q (a : Nat) : Quad := BitVec.ofNat 64 (sliceNat tb a 8)
  let s := (s.setHost (xlatOff n + 0x10) (q 32)).setHost (xlatOff n + 0x18) (q 40)
  (List.range 8).foldl (fun s i => s.setHost (xlatOff n + 0x28 + 8 * i) (q (48 + 8 * i))) s
/-- R311, R314: the translation section fits the kernel. -/
def xlatFits (k : Kernel) (h : ImgHead) (tb : List Byte) : Bool :=
  tb.length == 128 && sliceNat tb 0 8 == k.codeVA && sliceNat tb 8 4 == k.codeLen && BitVec.ofNat 64 (sliceNat tb 16 8) == k.dataVA
    && sliceNat tb 112 4 == h.g * k.shape.dgroup && zeroAt tb 116 12 && h.shape == shapeBytes k.shape && shapeLegal k.shape
/-- R310: the crews of an image. -/
def imagePositions (xs : List Sect) : List Nat := (xs.filter fun x => x.ty == 2).map (·.unit)
/-- R310, R314: no section is missing or of another image KIND. -/
def sectsFit (k : Kernel) (h : ImgHead) (xs : List Sect) : Bool :=
  let pos := imagePositions xs
  let crews := h.g * k.shape.dgroup * k.shape.qgroup
  let vaults := xs.filter fun x => x.ty == 12
  pos.length == h.ncrew && pos.all (fun p => decide (p < crews)) && xs.all (fun x => x.ty < 2 || 10 < x.ty || pos.contains x.unit)
    && (if h.kind = 0 then vaults.map (·.unit) == List.range (h.g * k.shape.dgroup) && vaults.all (fun x => x.len == 2 ^ 23)
          && (findSect xs 11 0).elim false (fun x => x.len == 64 && zeroAt (x.data.bytes 0 64) 20 44)
        else h.ncrew == 1 && vaults.isEmpty && (findSect xs 11 0).isNone)
/-- The launch that a context's restored crews belong to: its started launch, with the constants that new warps take (R234). -/
def startedLaunch (s : State) (n : Nat) : Option Launch := s.launches.find? fun l => l.ctx == n && l.st == 2
/-- R234: constants of a launch that this device does not know are in no section of an image: free values (log entry 14). -/
def restoreConsts (s : State) (n : Nat) : State × List Quad :=
  match startedLaunch s n with
  | some l => (s, l.consts)
  | none => ({ s with drawn := s.drawn + 64 }, (List.range 64).map fun i => Config.freeQuad (s.drawn + i))
/-- The crews of an image, each with identifiers of its own. -/
def parseCrews (s : State) (n : Nat) (k : Kernel) (tb : List Byte) (consts : List Quad) (xs : List Sect) : Option (List Parsed) :=
  let launch := ((startedLaunch s n).map (·.num)).getD 0
  allSome (((imagePositions xs).zipIdx).map fun p =>
    parseCrew s xs (freshCrew (s.uid + idSpan * p.2) 0 n p.1 launch 0 k (BitVec.ofNat 64 (sliceNat tb 24 8)) (sliceNat tb 12 4) consts))

/-! ### Vaults, logs and replies -/

/-- R18: logical quads that no crew of the image stands on still hold vault bytes: the first quad in service that no crew uses. -/
def mapRest (s : State) (n count : Nat) : State :=
  (List.range count).foldl (fun s l =>
    let x := s.ctx n
    let m := x.quadMap ++ List.replicate (count - x.quadMap.length) noQuad
    if m.getD l noQuad ≠ noQuad then s.setCtx { x with quadMap := m }
    else
      let free := (List.range Config.quads).find? fun q => !s.quadOut q && !m.contains q && !s.crews.any fun c => quadOf c.core == q
      s.setCtx { x with quadMap := m.set l (free.getD noQuad) }) s
/-- R315: step 2: the vault bytes. -/
def loadVaults (s : State) (n : Nat) (xs : List Sect) : State :=
  (xs.filter fun x => x.ty == 12).foldl (fun s x =>
    let q := (s.ctx n).quadMap.getD x.unit noQuad
    if q < Config.quads then s.blockWrite (vaultKey q 0) (2 ^ 23) x.data else s) s
/-- R354: captured results reach their destinations. -/
def giveCaptured (s : State) (id : Nat) : State :=
  match s.crew? id with
  | none => s
  | some c =>
    let caps := c.log.flatMap fun x => x.lanes.filterMap fun l => match l.wait with
      | .captured v => some (x, l, v)
      | _ => none
    caps.foldl (fun s y =>
      let x := y.1
      let ws := match memOf x.instr, ((x.instr.fields?).getD Fields.blank).d with
        | some (o, _), .v r => (List.range o.t.regs).map fun i => (r.toNat + i, BitVec.ofNat 32 (y.2.2.toNat / 2 ^ (32 * i)))
        | _, _ => []
      putLane (writeRegs s id [(y.2.1.tid, ws)]) id x.id y.2.1.lane none) s
/-- R355: the held replies of an area meet their records; a record whose reply this device no longer awaits becomes an
unrecoverable access. -/
def matchHeld (s : State) (n token : Nat) (fabs : List FabOut) : State :=
  let held := if token = 0 ∨ s.physNat token 4 ≠ 0x444C4F48 then [] else (holdWalk s token (s.physNat (token + 8) 4) 0x40).2
  fabs.foldl (fun s x =>
    match held.find? fun p => p.tag == x.tag with
    | some p => if p.type = 3 ∧ p.status = 0 then fabGive s x p.data else fabFail s x
    | none => if s.fabOut.any fun y => y.tag == x.tag && y.ctx == n && (s.crew? y.crew).isNone then s else fabFail s x) s

/-! ### The whole of it -/

/-- R303, R300: a context restored in the halted state halts again. -/
def setHalted (s : State) (n : Nat) : State :=
  (s.modCtx n fun x => { x with halted := true }).setHostF (ctxOff n + 0x18) 6 5 2
/-- R323: what the context-save unit wrote for a restored context: its crews' units and its vault lines. -/
def markVaults (s : State) (n count : Nat) : State :=
  if ckEn s n then markUnits s n ((List.range count).flatMap fun q => (List.range (vaultLines (s.ctx n))).map fun l => .vault q l) else s
def markCrews (s : State) (n : Nat) (cs : List Crew) : State := if ckEn s n then markUnits s n (cs.flatMap crewUnits) else s
/-- R253, R267: the cores of restored crews take up no word of an L1 from before. R149: a restored consumer whose links are full completes. -/
def settleCrew (s : State) (id : Nat) : State :=
  match s.crew? id with
  | none => s
  | some c => (List.range c.threads.length).foldl (fun s t => if (c.thread t).chain.isEmpty then s else settleThread s id t) (l1Acquire s c.core)
/-- R315: steps 3 to 5 after the crews have their place. -/
def resumeCrews (s : State) (n : Nat) (gang : Bool) (token : Nat) (ps : List Parsed) : State :=
  let ids := ps.map fun p => p.crew.id
  let fabs := ps.flatMap (·.fabs)
  let s := markCrews { s with fabOut := s.fabOut ++ fabs, uid := s.uid + idSpan * (ps.length + 1) } n (ps.map (·.crew))
  let s := ids.foldl settleCrew (ids.foldl giveCaptured s)
  let s := replayWhere s (fun c l => l.wait == .table && ids.contains c.id) false
  if gang then s else matchHeld s n token fabs
/-- R353: an image of a gang switch is held until IN; another one lets its job be READY at once. -/
def openContext (s : State) (n : Nat) (gang : Bool) : State :=
  if gang then s.modCtx n fun x => { x with heldIn := true }
  else let x := s.ctx n; if x.jobV then advertise s x.jobId true else s
/-- R315, R337: a context image bound; or the status of R336: 7 rejected, 4 no placement. `dis` dissolves warps (R338). -/
def bindImage (s : State) (n : Nat) (h : ImgHead) (xs : List Sect) (dis : Bool) : Except Nat State :=
  let tb := sectBytes xs 1 0
  match (s.tokenDesc h.token).bind fun d => loadKernel (loadWindow s n tb) n d with
  | none => .error 7
  | some k =>
    if !xlatFits k h tb ∨ !sectsFit k h xs ∨ h.kind ≠ 0 then .error 7
    else
      let r := restoreConsts s n
      match parseCrews r.1 n k tb r.2 xs with
      | none => .error 7
      | some ps =>
        if (s.ctx n).bound ∨ !jobOk s n then .error 4
        else
          let ps := if dis then ps.map fun p => { p with crew := dissolve s.cycle p.fabs p.crew } else ps
          let s1 := bindCtx (loadWindow r.1 n tb) n k h.g (BitVec.ofNat 64 (sliceNat tb 24 8)) (sliceNat tb 12 4)
          match placeCrews s1 (ps.map (·.crew)) with
          | none => .error 4
          | some s2 =>
            let fab := sectBytes xs 11 0
            let token := sliceNat fab 0 8
            let gang := h.reason == 2 && token != 0
            let s3 := markVaults (loadVaults (mapRest (s2.modCtx n fun x => { x with stepcount := h.step }) n (h.g * k.shape.dgroup)) n xs) n
              (h.g * k.shape.dgroup)
            let s4 := resumeCrews (openContext s3 n gang) n gang token ps
            .ok (if h.flags % 2 = 1 then setHalted s4 n else s4)
/-- R308, R315: a crew image bound again beside the crews of its context. -/
def bindCrewImage (s : State) (n : Nat) (h : ImgHead) (xs : List Sect) : Except Nat State :=
  let tb := sectBytes xs 1 0
  let x := s.ctx n
  match x.kernel, s.tokenDesc h.token with
  | some k, some d =>
    if k.desc ≠ d ∨ !x.bound ∨ !xlatFits k h tb ∨ !sectsFit k h xs ∨ h.kind ≠ 1 ∨ s.crews.any fun c => c.ctx == n && (imagePositions xs).contains c.pos then
      .error 7
    else
      let r := restoreConsts s n
      match parseCrews r.1 n k tb r.2 xs with
      | some [p] =>
        let q := x.quadMap.getD (p.crew.pos / k.shape.qgroup) noQuad
        match (if q < Config.quads then placeOn r.1 p.crew (quadCores q) else placeCrews r.1 [p.crew]) with
        | some s2 => .ok (resumeCrews s2 n false (holdAddr s n) [p])
        | none => .error 4
      | _ => .error 7
  | _, _ => .error 7
/-- R336: how a restore has ended. -/
def restoreEnd (s : State) (status : Nat) : State :=
  ((s.setHostF 0x700050 63 63 0).setHostF 0x700050 62 62 1).setHostF 0x700050 61 58 status
/-- CONTEXT_IMAGE_RESTORE: an image in memory checked, bound and resumed; a rejection is reported as R336 says (log entry 33). -/
def execContextImageRestore (ctx addr : Nat) (s : State) : Host.Outcome State Fault Refusal :=
  if 256 ≤ ctx then .refused .notEnabled
  else if s.spanBad addr 128 then .next (restoreEnd s 6)
  else
    let size := s.physNat (addr + 0x10) 8
    if 2 ^ 52 ≤ size ∨ s.spanBad addr size ∨ s.spanPoison addr size then .next (restoreEnd s 6)
    else match parseImage (s.section addr size) with
      | none => .next (restoreEnd s 7)
      | some (h, xs) =>
        match (if h.kind = 0 then bindImage s ctx h xs false else bindCrewImage s ctx h xs) with
        | .ok t => .next (restoreEnd t 0)
        | .error e => .next (restoreEnd s e)

end Sys2Proof.Machine
end

