-- ==== Sys2Proof/Machine/Recall.lean ====
section
/-! DEFINITION. A restore from a chain of manifests: R336 to R338. -/
namespace Sys2Proof.Machine

/-! ### Manifests read back: R332, R337 -/

/-- A manifest as read: its bytes and its fields. -/
structure Manifest where
  bytes : List Byte
  full : Bool
  interval : Nat
  base : Nat
  prevLoc : Nat
  prevDig : List Byte
  image : List Byte
  xlat : List Byte
  entries : List (List Byte)
  deriving DecidableEq, Repr
/-- R337: step 1: the manifest at an address, or the STATUS that ends the restore: 6 read error, 5 format, 1 signature. -/
def readManifest (s : State) (loc : Nat) : Except Nat Manifest :=
  if s.spanBad loc 0x180 ∨ s.spanPoison loc 0x180 then .error 6
  else
    let nsh := s.physNat (loc + 0x0C) 4
    let n := 0x180 + 64 * nsh
    if s.physNat loc 4 ≠ 0x4E4D4B43 ∨ s.physNat (loc + 4) 2 ≠ 1 ∨ 1 < s.physNat (loc + 6) 2 then .error 5
    else if s.spanBad loc (n + sigLen) ∨ s.spanPoison loc (n + sigLen) then .error 6
    else
      let b := s.physRead loc (n + sigLen)
      let q (a k : Nat) : Nat := sliceNat b a k
      let full := q 6 2 == 1
      let es := (List.range nsh).map fun i => slice b (0x180 + 64 * i) 64
      if !zeroAt b 0x0A 2 ∨ !zeroAt b 0x38 8 ∨ !zeroAt b 0x60 32 ∨ (full ∧ (q 0x30 8 ≠ 0 ∨ !zeroAt b 0x40 32))
          ∨ es.any (fun e => decide (2 < sliceNat e 0 1) || decide (1 < sliceNat e 1 1) || !zeroAt e 2 2) then .error 5
      else if slice b n sigLen ≠ padTo sigLen (Config.signature (b.take n)) ∧ !Config.verifyForeign (b.take n) (slice b n sigLen) then .error 1
      else .ok ⟨b, full, q 0x10 8, q 0x18 8, q 0x30 8, slice b 0x40 32, slice b 0x80 128, slice b 0x100 128, es⟩
/-- R337: the chain back to its full manifest, oldest first; `fuel` bounds the intervals left. -/
def readChain (s : State) : Nat → Manifest → List Manifest → Except Nat (List Manifest)
  | 0, _, _ => .error 3
  | fuel + 1, m, l =>
    if m.full then (if m.base = m.interval then .ok (m :: l) else .error 3)
    else match readManifest s m.prevLoc with
      | .error e => .error e
      | .ok p => if sha256 p.bytes ≠ m.prevDig ∨ m.interval ≤ p.interval ∨ p.base ≠ m.base then .error 3 else readChain s fuel p (m :: l)

/-! ### Objects: R329, R337 -/

/-- An object with the unit it covers, and the shape of its manifest's kernel. -/
structure Obj where
  kind : Nat
  unit : Nat
  base : Nat
  data : List Byte
  shape : Option Shape
  deriving DecidableEq, Repr
/-- R337: step 2: the object of an entry: 6 read error, 2 digest. -/
def readObj (s : State) (sh : Option Shape) (e : List Byte) : Except Nat Obj :=
  let loc := sliceNat e 24 8
  let len := sliceNat e 16 8
  if s.spanBad loc len ∨ s.spanPoison loc len then .error 6
  else
    let b := s.physRead loc len
    if sha256 b ≠ slice e 32 32 then .error 2 else .ok ⟨sliceNat e 0 1, sliceNat e 4 4, sliceNat e 8 8, b, sh⟩
def readObjs (s : State) : List (Option Shape × List Byte) → Except Nat (List Obj)
  | [] => .ok []
  | e :: r => match readObj s e.1 e.2, readObjs s r with
    | .ok o, .ok l => .ok (o :: l)
    | .error x, _ => .error x
    | _, .error x => .error x
/-- The places of the bits set in a bitmap of n bits. -/
def bitsSet (n : Nat) (b : List Byte) : List Nat := let x := leNat b; (List.range n).filter x.testBit
/-- The items behind a bitmap of n bits, each of `size` bytes, with their places; none where the length does not fit. -/
def bitmapItems (n mapLen size : Nat) (b : List Byte) : Option (List (Nat × List Byte)) :=
  let on := bitsSet n (b.take mapLen)
  if b.length ≠ mapLen + on.length * size ∨ !isZero ((b.take mapLen).drop (ceilDiv n 8)) then none
  else some ((on.zipIdx).map fun p => (p.1, slice b (mapLen + p.2 * size) size))
/-- A crew's object taken apart. -/
structure CrewObj where
  shape : Shape
  control : List Byte
  rests : List Byte
  warps : List Byte
  pool : List Byte
  mats : List Byte
  copies : List Byte
  transfers : List Byte
  rows : List (Nat × List Byte)
  tiles : List (Nat × List Byte)
  lines : List (Nat × List Byte)
  deriving DecidableEq, Repr
/-- R329: the bitmaps and dirty units that end a crew's object. -/
def crewTail (sh : Shape) (b : List Byte) : Option (List (Nat × List Byte) × List (Nat × List Byte) × List (Nat × List Byte)) :=
  let ml (n : Nat) : Nat := pad64 (ceilDiv n 8)
  let nr := slotsOf sh * rowsPer sh
  let rlen := ml nr + (bitsSet nr (b.take (ml nr))).length * (64 * slotLanes sh)
  let b1 := b.drop rlen
  let tlen := ml sh.tiles + (bitsSet sh.tiles (b1.take (ml sh.tiles))).length * 6144
  let b2 := b1.drop tlen
  match bitmapItems nr (ml nr) (64 * slotLanes sh) (b.take rlen), bitmapItems sh.tiles (ml sh.tiles) 6144 (b1.take tlen),
    bitmapItems (sh.scratch / 128) (ml (sh.scratch / 128)) 128 b2 with
  | some r, some t, some l => some (r, t, l)
  | _, _, _ => none
/-- The transfer records at the head of `b`, up to a tail that fits: their bytes and the tail. -/
def crewTransfers (sh : Shape) : Nat → Nat → List Byte → Option (Nat × List (Nat × List Byte) × List (Nat × List Byte) × List (Nat × List Byte))
  | 0, _, _ => none
  | fuel + 1, o, b =>
    match crewTail sh (b.drop o) with
    | some t => some (o, t)
    | none =>
      let h := slice b o 64
      if h.length < 64 ∨ 2 < sliceNat h 0 1 ∨ !zeroAt h 3 1 ∨ !zeroAt h 12 4 ∨ !zeroAt h 56 8 then none
      else crewTransfers sh fuel (o + 64 + 48 * popcount 128 (sliceNat h 32 16)) b
/-- A matrix record as `parseMat` would take it, by its zero fields. -/
def matLooks (b : List Byte) : Bool :=
  let np := sliceNat b 16 1
  decide (sliceNat b 4 1 ≤ 3) && decide (sliceNat b 5 1 ≤ 3) && zeroAt b 12 4 && decide (1 ≤ np) && decide (np ≤ 32)
    && zeroAt b (32 + 8 * np) (256 - 8 * np) && zeroAt b 416 32
/-- R329: a crew's object taken apart. How many records of each kind it holds is what makes its length and its fixed fields fit
(log entry 34). -/
def splitCrew (sh : Shape) (b : List Byte) : Option CrewObj :=
  let restsLen := sh.crew * threadRestLen sh
  let rests := slice b 448 restsLen
  let live (t : Nat) : Bool := decide (t < sh.crew) && sliceNat rests (t * threadRestLen sh + sh.regs / 8 + 25) 1 == 0
  let wo := 448 + restsLen
  let warpCounts := if sh.width = 0 then List.range (ceilDiv sh.crew 32 + 1)
    else [((List.range (sh.crew / sh.width)).filter fun w => (List.range sh.width).any fun i => live (w * sh.width + i)).length]
  warpCounts.findSome? fun nw =>
    let warps := slice b wo (1408 * nw)
    let inLane := if sh.width = 0 then ((List.range nw).flatMap fun w => (List.range 32).filter fun i => live (sliceNat warps (1408 * w + 1224 + 4 * i) 4)).length else 0
    let liveAll := ((List.range sh.crew).filter live).length
    let np := if sh.width = 0 then liveAll - inLane else 0
    let po := wo + 1408 * nw
    if warps.length < 1408 * nw ∨ liveAll < inLane then none
    else (List.range 33).findSome? fun nm =>
      let mo := po + 16 * np
      let mats := slice b mo (448 * nm)
      if mats.length < 448 * nm ∨ !(List.range nm).all fun i => matLooks (slice mats (448 * i) 448) then none
      else (List.range 17).findSome? fun nc =>
        let co := mo + 448 * nm
        let copies := slice b co (128 * nc)
        if copies.length < 128 * nc ∨ !(List.range nc).all fun i => (parseCopy (slice copies (128 * i) 128)).isSome then none
        else
          let r := b.drop (co + 128 * nc)
          match crewTransfers sh 4096 0 r with
          | some (n, rows, tiles, lines) =>
            some ⟨sh, b.take 448, rests, warps, slice b po (16 * np), mats, copies, r.take n, rows, tiles, lines⟩
          | none => none

/-! ### The composed state: R337 -/

/-- Later items replace earlier ones with the same key. -/
def overlay {κ α : Type} [BEq κ] (a b : List (κ × α)) : List (κ × α) := a.filter (fun x => !b.any fun y => y.1 == x.1) ++ b
/-- The composed state: pages, vault lines, and each crew's latest records with its register rows, tiles and lines. -/
structure Composed where
  pages : List (Nat × List Byte)
  lines : List ((Nat × Nat) × List Byte)
  crews : List (Nat × CrewObj)
  deriving DecidableEq, Repr
/-- R337: step 3: one object applied. A crew of another shape than the last one at its position is a crew of a later launch, whose first
interval holds all its units (R323). -/
def applyObj (c : Composed) (o : Obj) : Option Composed :=
  match o.kind with
  | 0 => (bitmapItems 2048 256 32768 o.data).map fun l => { c with pages := overlay c.pages (l.map fun p => (o.base / 32768 + p.1, p.2)) }
  | 1 => (o.shape.bind fun sh => splitCrew sh o.data).map fun k =>
      let k := match (c.crews.find? fun x => x.1 == o.unit && x.2.shape == k.shape) with
        | some x => { k with rows := overlay x.2.rows k.rows, tiles := overlay x.2.tiles k.tiles, lines := overlay x.2.lines k.lines }
        | none => k
      { c with crews := overlay c.crews [(o.unit, k)] }
  | _ => (bitmapItems 65536 8192 128 o.data).map fun l => { c with lines := overlay c.lines (l.map fun p => ((o.unit, p.1), p.2)) }
def applyObjs (c : Composed) (l : List Obj) : Option Composed :=
  l.foldl (fun (r : Option Composed) o => r.bind fun c => applyObj c o) (some c)
/-- The sections of a composed crew: R311. -/
def composedSects (sh : Shape) (pos : Nat) (k : CrewObj) : List Sect :=
  let cell (size : Nat) (l : List (Nat × List Byte)) : Mem := (sortBy (fun a b : Nat × List Byte => decide (a.1 ≤ b.1)) l).flatMap fun x =>
    (memOfBytes x.2).map fun y => (y.1 + size * x.1, y.2)
  let n := slotLanes sh
  let regs (t : Nat) : List Byte := (List.range (rowsPer sh)).flatMap fun r =>
    match k.rows.find? fun x => x.1 == t / n * rowsPer sh + r with
    | some x => slice x.2 (64 * (t % n)) 64
    | none => zeros 64
  [sectOf 2 pos k.control, ⟨3, pos, sh.scratch, cell 128 k.lines⟩,
   sectOf 4 pos ((List.range sh.crew).flatMap fun t => regs t ++ slice k.rests (t * threadRestLen sh) (threadRestLen sh)),
   sectOf 5 pos k.warps, sectOf 6 pos k.pool, ⟨7, pos, 6144 * sh.tiles, cell 6144 k.tiles⟩, sectOf 8 pos k.mats, sectOf 9 pos k.copies,
   sectOf 10 pos k.transfers].filter fun x => x.len != 0
/-- R310: the header that a manifest holds. -/
def headOfBytes (b : List Byte) : Option ImgHead :=
  let n (a k : Nat) : Nat := sliceNat b a k
  if n 0 4 ≠ 0x49434E5A ∨ n 4 2 ≠ 1 ∨ n 6 1 ≠ 2 ∨ n 7 1 ≠ 0 ∨ 16 ≤ n 10 2 ∨ !zeroAt b 0x0D 3 ∨ !zeroAt b 0x10 8 ∨ !zeroAt b 0x28 4 ∨ !zeroAt b 0x4A 2
      ∨ !zeroAt b 0x50 48 then none
  else some { kind := 0, job := n 8 2, flags := n 10 2, reason := n 12 1, time := BitVec.ofNat 64 (n 0x18 8), step := BitVec.ofNat 64 (n 0x20 8)
              token := BitVec.ofNat 32 (n 0x2C 4), shape := slice b 0x30 24, g := n 0x48 2, ncrew := n 0x4C 4 }
/-- The composed state as the header and sections of an image. -/
def composedImage (m : Manifest) (sh : Shape) (c : Composed) : Option (ImgHead × List Sect) :=
  let now := (m.entries.filter fun e => sliceNat e 0 1 == 1).map fun e => sliceNat e 4 4
  (headOfBytes m.image).map fun h =>
    let crews := sortBy (fun a b : Nat × CrewObj => decide (a.1 ≤ b.1)) (c.crews.filter fun x => now.contains x.1)
    let vault (q : Nat) : Sect :=
      let ls := sortBy (fun a b : (Nat × Nat) × List Byte => decide (a.1.2 ≤ b.1.2)) (c.lines.filter fun x => x.1.1 == q)
      ⟨12, q, 2 ^ 23, ls.flatMap fun x => (memOfBytes x.2).map fun y => (y.1 + 128 * x.1.2, y.2)⟩
    (h, sectOf 1 0 m.xlat :: crews.flatMap (fun x => composedSects sh x.1 x.2) ++ (List.range (h.g * sh.dgroup)).map vault
      ++ [sectOf 11 0 (fabricBytes 0 0 0 0)])
/-- R337: the composed pages written where the context's addresses lead; none where a page has no memory. -/
def loadPages (s : State) (n : Nat) (pages : List (Nat × List Byte)) : Option State :=
  pages.foldl (fun (r : Option State) p => r.bind fun s =>
    match vaKey s (xlatCtx s n) (p.1 * 32768) with
    | some k => if eligible s (.page p.1 k) then some (s.writeFor (some n) k 32768 (memOfBytes p.2)) else none
    | none => none) (some s)

/-! ### The restore: R336, R337 -/

/-- R337: the restore of the manifest at an address to a context, or the STATUS of its failure. -/
def restoreChain (s : State) (n loc : Nat) : Except Nat State :=
  match readManifest s loc with
  | .error e => .error e
  | .ok m => match readChain s (m.interval + 1) m [] with
    | .error e => .error e
    | .ok ms =>
      match readObjs s (ms.flatMap fun y => y.entries.map fun e => (shapeOfBytes (slice y.image 0x30 24), e)), shapeOfBytes (slice m.image 0x30 24) with
      | .error e, _ => .error e
      | .ok _, none => .error 7
      | .ok objs, some sh =>
        match (applyObjs ⟨[], [], []⟩ objs).bind fun c => (composedImage m sh c).map fun i => (c, i) with
        | none => .error 7
        | some (c, h, xs) =>
          if (s.ctx n).bound then .error 4
          else match loadPages (loadWindow s n m.xlat) n c.pages with
            | none => .error 4
            | some t => match bindImage t n h xs true with
              | .error e => .error e
              | .ok u => .ok (markUnits u n (c.pages.map fun p => pageNow u (u.ctx n) (.page p.1 0)))
/-- RESTORE: GO of `CKPT_RSTCTL` for the context that CTX names. -/
def execRestore (ctx : BitVec 8) (s : State) : Host.Outcome State Fault Refusal :=
  let s := (s.setHostF 0x700050 15 8 ctx.toNat).setHostF 0x700050 62 62 0
  match restoreChain s ctx.toNat (s.host 0x700048).toNat with
  | .ok t => .next (restoreEnd t 0)
  | .error e => .next (restoreEnd s e)

end Sys2Proof.Machine
end

