-- ==== Sys2Proof/Machine/Complete.lean ====
section
/-! DEFINITION. The end of a launch: completion records and dispositions (R393, R400, R401), the kernel boundary of a logging
context (R366), and the termination of a context (R302). -/
namespace Sys2Proof.Machine

/-- R393: the disposition of a launch that has ended. -/
def State.dispOf (s : State) (num : Nat) : Option Nat := (s.disp.find? fun d => d.1 == num).map (·.2)
/-- R393: how many numbers a launch number lies before the counter; 0 is no launch number. -/
def launchAge (s : State) (num : Nat) : Nat :=
  if num < s.nextLaunch then s.nextLaunch - num else s.nextLaunch + (2 ^ 32 - 1) - num
/-- R393: dispositions kept for the window. -/
def keepDisp (s : State) (num d : Nat) : State :=
  { s with disp := (num, d) :: s.disp.filter fun x => x.1 != num && decide (launchAge s x.1 ≤ 65536) }
/-- R400: a completion record. -/
def compBytes (time : Quad) (num disp : Nat) (tcause : Word) (tpc : Quad) : List Byte :=
  leBytes 8 time.toNat ++ leBytes 4 num ++ leBytes 1 disp ++ zeros 3 ++ leBytes 4 tcause.toNat ++ zeros 4 ++ leBytes 8 tpc.toNat
/-- R401: the dirty lines of the launch's context in unshared CXL ranges written back. -/
def flushCxl (s : State) (ctx : Nat) : State :=
  { s with ras := { s.ras with dirty := s.ras.dirty.filter fun d => !(d.ctx == ctx && isCxl d.line && !s.isShared d.line) } }
/-- R366: the kernel boundary of a logging context. -/
def logBoundary (s : State) (ctx : Nat) : State :=
  ((s.setHost (logOff ctx + 0x18) 0).setHostF (logOff ctx) 1 1 0).modCtx ctx fun x => { x with firstBits := [] }
/-- R400, R401, R366: a launch ends with a disposition: its completion record is written and its disposition kept. -/
def endLaunch (s : State) (l : Launch) (disp : Nat) (tcause : Word) (tpc : Quad) : State :=
  let s := { s with launches := s.launches.filter fun y => y.num != l.num, startPend := s.startPend.filter (· != l.num) }
  let s := if l.st = 2 && (s.ctx l.ctx).logOn then logBoundary s l.ctx else s
  let s := if l.xdom && l.st = 2 then flushCxl s l.ctx else s
  let s := if l.comp = 0 ∨ s.writeBad l.comp 32 then s else s.blockWrite l.comp 32 (memOfBytes (compBytes s.timebase l.num disp tcause tpc))
  keepDisp s l.num disp
/-- Whether a launch has a bound crew. -/
def State.hasCrew (s : State) (num : Nat) : Bool := s.crews.any fun c => c.launch == num
/-- R373: poisoned vault lines of a context whose owner is gone. -/
def clearVaultPoison (s : State) (x : Ctx) : State :=
  { s with ras := { s.ras with vaultPoison := s.ras.vaultPoison.filter fun k => (x.logicalQuad ((k - 2 ^ 52) / 2 ^ 23)).isNone } }
/-- The marks that stops and traps leave in a context, cleared. -/
def Ctx.quiet (x : Ctx) : Ctx :=
  { x with stop := none, inPlace := false, halted := false, halting := false, brkAt := none, defer := none, trapStop := false, errStop := false, primary := none
           seconds := [], nsecond := 0, rollWait := false, heldIn := false, cutPause := false }
/-- R302: a context terminated: its resources freed and its launches ended with the disposition error. -/
def terminate (s : State) (ctx : Nat) (tcause : Word) (tpc : Quad) : State :=
  let x := s.ctx ctx
  let ids := (s.crewsOf ctx).map (·.id)
  let ls := s.launches.filter fun l => l.ctx == ctx && (l.st == 2 || s.hasCrew l.num)
  let s := freeCrews (clearVaultPoison s x) ids false
  let s := ls.foldl (fun s l => endLaunch s l 1 tcause tpc) s
  let s := s.modCtx ctx fun x => { x.quiet with bound := false, poisoned := [] }
  (s.setHostF (ctxOff ctx) 63 63 0).setHostF (ctxOff ctx + 0x18) 6 4 0

end Sys2Proof.Machine
end

