-- ==== Sys2Proof/Machine/Stop.lean ====
section
/-! DEFINITION. Stops of contexts and crews (R303, R304, R307), halts and their end (R300), trap stops (R302, R363) and dumps
(R316 to R318). -/
namespace Sys2Proof.Machine

/-! ### GO of `CTX_STOP`: R303 -/

/-- R303: the STATUS with which a stop or a resume ends. -/
def stopEnd (s : State) (n status : Nat) : State :=
  ((s.setHostF (ctxOff n) 63 63 0).setHostF (ctxOff n) 62 62 1).setHostF (ctxOff n) 61 59 status
/-- A stop begins. -/
def stopBegin (s : State) (n : Nat) (j : StopJob) : State :=
  let s := if j.kind = 1 then { s with crews := s.crews.map fun c => if c.ctx = n ∧ c.pos = j.pos then { c with stopped := true } else c } else s
  (s.modCtx n fun x => { x with stop := some j }).setHostF (ctxOff n) 63 63 1
/-- R303, R315: a context held in place, and crews of it that a failed save held, go on. -/
def resumePlace (s : State) (n : Nat) : State :=
  let s := s.modCtx n fun x => { x with inPlace := false }
  retryTable (stopEnd { s with crews := s.crews.map fun c => if c.ctx = n then { c with stopped := false } else c } n 0)
/-- R303: GO with the fields as they stand; a time slice or a pre-emption of a halted context is deferred (R300). -/
def stopGo (s : State) (n : Nat) : State :=
  let o := ctxOff n
  let x := s.ctx n
  let kind := s.hostF o 58 56
  let j : StopJob := ⟨kind, s.hostF o 55 52, s.hostF o 28 6⟩
  if s.hostF o 63 63 = 1 then s
  else
    let s := s.setHostF o 62 62 0
    let crews := s.crewsOf n
    if 4 ≤ kind ∨ !x.bound ∨ x.trapStop ∨ x.stop.isSome ∧ !x.halting ∨ (kind = 1 ∧ !crews.any fun c => c.pos == j.pos)
        ∨ (kind = 3 ∧ !x.inPlace ∧ !crews.any (·.stopped)) then stopEnd s n 3
    else if kind = 3 then resumePlace s n
    else if (x.halted ∨ x.halting) ∧ j.reason < 2 then (s.modCtx n fun x => { x with defer := some j }).setHostF (o + 0x18) 4 4 1
    else stopBegin s n j
/-- A stop asked for with a KIND, a REASON and a CREW. -/
def stopAsk (s : State) (n kind reason pos : Nat) : State :=
  if s.hostF (ctxOff n) 63 63 = 1 then s
  else stopGo (((s.setHostF (ctxOff n) 58 56 kind).setHostF (ctxOff n) 55 52 reason).setHostF (ctxOff n) 28 6 pos) n
/-- STOP_SAVE_CONTEXT. -/
def execStopSaveContext (ctx : Nat) (reason : BitVec 4) (s : State) : Host.Outcome State Fault Refusal :=
  if 256 ≤ ctx then .refused .notEnabled else .next (stopAsk s ctx 0 reason.toNat 0)
/-- STOP_SAVE_CREW. -/
def execStopSaveCrew (ctx : Nat) (pos : BitVec 23) (reason : BitVec 4) (s : State) : Host.Outcome State Fault Refusal :=
  if 256 ≤ ctx then .refused .notEnabled else .next (stopAsk s ctx 1 reason.toNat pos.toNat)
/-- STOP_IN_PLACE. -/
def execStopInPlace (ctx : Nat) (reason : BitVec 4) (s : State) : Host.Outcome State Fault Refusal :=
  if 256 ≤ ctx then .refused .notEnabled else .next (stopAsk s ctx 2 reason.toNat 0)
/-- RESUME_IN_PLACE. -/
def execResumeInPlace (ctx : Nat) (s : State) : Host.Outcome State Fault Refusal :=
  if 256 ≤ ctx then .refused .notEnabled else .next (stopAsk s ctx 3 (s.hostF (ctxOff ctx) 55 52) (s.hostF (ctxOff ctx) 28 6))

/-! ### Halts: R300, R303 -/

/-- R303: HALT; ignored with HALTEN = 0. A stop under way comes first. -/
def halt (s : State) (n : Nat) : State :=
  let x := s.ctx n
  if !s.haltEn n || !x.bound || x.halted || x.stop.isSome then s else haltCtx s n
/-- R303: RESUME ends a halt; a deferred stop then proceeds. -/
def debugGo (s : State) (n : Nat) : State :=
  let x := s.ctx n
  let o := ctxOff n + 0x18
  if !x.halted then s
  else
    let s := (s.modCtx n fun x => { x with halted := false, brkAt := none, defer := none, primary := none, seconds := [], nsecond := 0 }).setHostF o 6 4 0
    match x.defer with
    | some j => stopBegin s n j
    | none => retryTable s
/-- R303: FPCLR discards the pending traps of a halted context. -/
def clearPending (s : State) (n : Nat) : State :=
  if !(s.ctx n).halted then s
  else { s with crews := s.crews.map fun c => if c.ctx = n then { c with warps := c.warps.map (dropTrap c.kernel) } else c }
/-- DEBUG_HALT. -/
def execDebugHalt (ctx : Nat) (s : State) : Host.Outcome State Fault Refusal :=
  if 256 ≤ ctx then .refused .notEnabled else .next (halt s ctx)
/-- DEBUG_RESUME. -/
def execDebugResume (ctx : Nat) (s : State) : Host.Outcome State Fault Refusal :=
  if 256 ≤ ctx then .refused .notEnabled else .next (debugGo s ctx)
/-- DISCARD_PENDING_TRAPS. -/
def execDiscardPendingTraps (ctx : Nat) (s : State) : Host.Outcome State Fault Refusal :=
  if 256 ≤ ctx then .refused .notEnabled else .next (clearPending s ctx)

/-! ### Dumps: R316 to R318 -/

/-- R316: the header of a dump; `trunc` is the index and the offset of the first section that is missing. -/
def dumpHead (x : Ctx) (request : Bool) (trunc : Option (Nat × Nat)) : List Byte :=
  let flags := (if trunc.isSome then 1 else 0) + (if 4 < x.nsecond then 2 else 0) + (if request then 4 else 0)
  let p : List Byte := match x.primary with
    | some (r, pos, wid) => r.bytes ++ leBytes 4 pos ++ leBytes 2 wid
    | none => zeros 70
  let t := trunc.getD (0xFFFF, 0)
  let sec (y : Nat × TrapRec) : List Byte :=
    leBytes 4 y.2.tcause.toNat ++ leBytes 4 y.1 ++ leBytes 8 y.2.tpc.toNat ++ leBytes 8 y.2.tval.toNat ++ leBytes 8 y.2.time.toNat
  leBytes 4 0x50444E5A ++ leBytes 2 1 ++ leBytes 2 flags ++ leBytes 4 x.num ++ leBytes 4 x.nsecond ++ p ++ leBytes 2 t.1 ++ leBytes 8 t.2
    ++ zeros 32 ++ padTo 128 ((x.seconds.take 4).flatMap sec)
/-- R318: whole sections written in order from an index and an offset on, up to the first that does not fit or cannot be written. -/
def dumpSects (area room : Nat) : State → Nat → Nat → List Sect → State × Option (Nat × Nat)
  | s, _, _, [] => (s, none)
  | s, i, o, x :: r =>
    if room < o + x.len ∨ s.writeBad (area + o) x.len then (s, some (i, o))
    else dumpSects area room (s.blockWrite (area + o) x.len x.data) (i + 1) (o + x.len) r
/-- R316, R318: a dump of a context whose crews stand at their restart points. As R319's directory shows, it holds no section of the
vaults or the fabric (log entry 93). -/
def writeDump (s : State) (n : Nat) (request : Bool) : State :=
  let o := ctxOff n
  let area := (s.host (o + 0x20)).toNat / 4096 * 4096 % 2 ^ 52
  let len := s.hostF (o + 0x28) 47 12 * 4096
  let x := s.ctx n
  let cs := s.orderedCrews n
  let xs := bareSects s n false
  let front := frontBytes (headOf s x 0 (s.hostF o 55 52) false cs) xs
  let first := firstOff xs.length
  let fin (s : State) (r : Nat) : State := ((s.setHostF (o + 0x28) 63 63 0).setHostF (o + 0x28) 62 62 1).setHostF (o + 0x28) 61 60 r
  let r : State × Option (Nat × Nat) :=
    if len < 256 + first ∨ s.writeBad (area + 256) first then (s, some (0, 0))
    else dumpSects (area + 256) (len - 256) (s.blockWrite (area + 256) first (memOfBytes front)) 0 first xs
  if len < 256 ∨ s.writeBad area 256 then fin r.1 2
  else fin (r.1.blockWrite area 256 (memOfBytes (dumpHead x request r.2))) (if r.2.isSome then 1 else 0)
/-- R303: GO of `CTX_DUMP` acts only while the context is halted or stopped in place. -/
def dumpGo (s : State) (n : Nat) : State :=
  let x := s.ctx n
  if x.bound && (x.halted || x.inPlace) && x.stop.isNone then writeDump (s.setHostF (ctxOff n + 0x28) 62 62 0) n true else s
/-- DUMP_REQUEST. -/
def execDumpRequest (ctx : Nat) (s : State) : Host.Outcome State Fault Refusal :=
  if 256 ≤ ctx then .refused .notEnabled else .next (dumpGo s ctx)

/-! ### The end of a stop: R302, R304, R335 -/

/-- R304: a saved context's marks: nothing of it is left on the cores. -/
def leaveDevice (s : State) (n : Nat) : State :=
  (s.modCtx n fun x => { x.quiet with bound := false }).setHostF (ctxOff n + 0x18) 6 4 0
/-- R308: crews of the context are away in images of their own. -/
def lacksCrews (s : State) (n : Nat) : Bool :=
  match (s.ctx n).kernel with | some k => decide ((s.crewsOf n).length < crewTotal k (s.ctx n).groups) | none => false
/-- R304, R307, R355: the image of a context whose crews stand at their restart points is written and its resources are freed; with
another STATUS than 0 the stop stays in place. `fab` is the fabric section, and `held` the replies a hold area takes. -/
def saveContext (s : State) (n reason : Nat) (fab : Sect) (held : Option Nat) (keep : Bool) : State × Nat :=
  let o := ctxOff n
  let r := writeImage s ((s.host (o + 0x08)).toNat) ((s.host (o + 0x10)).toNat) (headOf s (s.ctx n) 0 reason true (s.orderedCrews n))
    (contextSects s n true fab)
  if r.2 ≠ 0 then (r.1.modCtx n fun x => { x with inPlace := true, stop := none }, r.2)
  else
    let ids := (r.1.crewsOf n).map (·.id)
    let t := leaveDevice (freeCrews (clearVaultPoison r.1 (r.1.ctx n)) ids keep) n
    (match held with | some k => holdStart t n k (lacksCrews s n) | none => t, 0)
/-- The fabric replies that crews of a context await. -/
def awaitedOf (s : State) (cs : List Crew) : Nat := cs.foldl (fun n c => n + (crewAwaits s true c).length) 0
/-- R304, R308: the image of one crew is written and its resources are freed; the context stays bound. -/
def saveCrew (s : State) (n reason : Nat) (c : Crew) : State × Nat :=
  let o := ctxOff n
  let r := writeImage s ((s.host (o + 0x08)).toNat) ((s.host (o + 0x10)).toNat) (headOf s (s.ctx n) 1 reason true [c]) (crewImageSects s n c)
  let t := r.1.modCtx n fun x => { x with stop := none }
  if r.2 ≠ 0 then (t, r.2)
  else
    let u := freeCrews t [c.id] true
    (holdStart (u.modCtx n fun x => { x with bound := true }) n (awaitedOf t [c]) (lacksCrews t n), 0)
/-- R302: the end of a trap stop without a halt: a dump, then the wait for a rollback or the end of the context. -/
def trapStopEnd (s : State) (n : Nat) : State :=
  let s := if s.hostF (ctxOff n + 0x20) 1 1 = 1 then writeDump (s.setHostF (ctxOff n + 0x28) 62 62 0) n false else s
  let x := s.ctx n
  if x.errStop && s.hostF (logOff n) 0 0 == 1 then
    (freeCrews s ((s.crewsOf n).map (·.id)) false).modCtx n fun x => { x.quiet with bound := false, rollWait := true, errLine := x.errLine }
  else match x.primary with
    | some (r, _, _) => terminate s n r.tcause r.tpc
    | none => terminate s n 0 0
/-- A stop that a halt or a trap stop overtook before it ended is rejected. -/
def overtaken (s : State) (n : Nat) : State :=
  let s := { s with crews := s.crews.map fun c => if c.ctx = n then { c with stopped := false } else c }
  if s.hostF (ctxOff n) 63 63 = 1 then stopEnd s n 3 else s
/-- R304: every warp has reached its restart point: the stop ends as its kind says. A cut at the same time is taken first (R335); a halt that a
gang switch meets has then happened (R300). -/
def stopDone (s0 : State) (n : Nat) (j : StopJob) : State :=
  let s0 := if (s0.ctx n).halting && j.kind != 5 && j.kind != 4 then
      (s0.modCtx n fun x => { x with halting := false, halted := true }).setHostF (ctxOff n + 0x18) 6 5 2 else s0
  let s := if ckPhase s0 n = 1 then takeCut s0 n else s0
  let all := (s.crewsOf n).map (·.id)
  match j.kind with
  | 0 =>
    let s := reach s all true false
    let r := saveContext s n j.reason (awaitedSect s n true) (some (awaitedOf s (s.crewsOf n))) true
    stopEnd r.1 n r.2
  | 1 =>
    match (s.crewsOf n).find? fun c => c.pos == j.pos with
    | none => stopEnd (s.modCtx n fun x => { x with stop := none }) n 3
    | some c =>
      let s := reach s [c.id] true false
      let r := saveCrew s n j.reason ((s.crew? c.id).getD c)
      retryTable (stopEnd r.1 n r.2)
  | 2 => stopEnd ((reach s all false false).modCtx n fun x => { x with stop := none, inPlace := true }) n 0
  | 5 =>
    overtaken (((reach s all false false).modCtx n fun x =>
      { x with stop := none, halting := false, halted := true, trapStop := false, errStop := false }).setHostF (ctxOff n + 0x18) 6 5 2) n
  | _ => overtaken (trapStopEnd (reach s all false false) n) n
/-- STOP_COMPLETE. -/
def execStopComplete (ctx : Nat) (s : State) : Host.Outcome State Fault Refusal :=
  match (s.ctx ctx).stop with
  | some j => .next (stopDone s ctx j)
  | none => .refused .notEnabled

end Sys2Proof.Machine
end

