-- ==== Sys2Proof/Machine/Gang.lean ====
section
/-! DEFINITION. Fescue: gang switches out and in (R345 to R354), packets that arrive and leave (R341, R343, R350, R351). -/
namespace Sys2Proof.Machine

/-! ### Registers: R345 -/

def gangJob (s : State) : Half := BitVec.ofNat 16 (s.hostF 0x800000 23 8)
def gangCtx (s : State) : Nat := s.hostF 0x800000 47 40
def gangNoctx (s : State) : Bool := s.hostF 0x800000 2 2 == 1
def gangT (s : State) : Nat := (s.host 0x800008).toNat
def gangGrace (s : State) : Nat := (s.host 0x800010).toNat
def gangArea (s : State) : Nat := s.hostF 0x800018 51 12 * 4096
def setGang (s : State) (g : Gang) : State :=
  let s := { s with gang := g }
  ((((s.setHostF 0x800000 57 55 g.phase).setHostF 0x800000 61 58 g.status).setHostF 0x800028 63 40 g.swept.length).setHostF 0x800028 39 24 g.nlate).setHostF
    0x800028 23 8 g.nreply |>.setHostF 0x800028 7 0 (Nat.min 255 g.viol)
/-- The local context of the job, where the command names one and it is bound. -/
def gangLocal (s : State) : Option Ctx :=
  let x := s.ctx (gangCtx s)
  if !gangNoctx s && x.bound && x.jobV && x.jobId == gangJob s then some x else none

/-! ### Switch-out: R346, R347 -/

/-- R347: the instant T. A device whose stop has not completed says NOTREADY for the incoming job (R353). -/
def gangAtT (s : State) : State :=
  let k := BitVec.ofNat 16 (s.hostF 0x800000 39 24)
  let late := match gangLocal s with | some x => !x.inPlace | none => false
  let s := advertise (setGang s { s.gang with phase := 2 }) (gangJob s) false
  if late && k != 0 then advertise s k false else s
/-- R345, R346: GO. -/
def gangGo (s : State) : State :=
  let late := s.hostF 0x800020 63 52
  let len := s.hostF 0x800020 47 12
  if s.hostF 0x800000 63 63 = 1 then s
  else if gangGrace s ≤ gangT s ∨ len ≤ late ∨ (!gangNoctx s ∧ (gangLocal s).isNone) then s.setHostF 0x800000 61 58 5
  else
    let tardy := decide (gangT s ≤ s.timebase.toNat)
    let g : Gang := { Gang.idle with
      phase := 1, status := if tardy then 2 else 0, lateLen := late * 4096, lateOff := (len - late) * 4096
      badAreas := s.gang.badAreas.filter (· != gangArea s) }
    let s := setGang ((s.setHostF 0x800000 63 63 1).setHostF 0x800000 62 62 0) g
    let s := match gangLocal s with
      | some x =>
        if x.stop.isSome && !x.halting || x.inPlace then s
        else stopBegin ((((s.setHostF (ctxOff x.num) 58 56 2).setHostF (ctxOff x.num) 55 52 2)).setHostF (ctxOff x.num) 62 62 0) x.num ⟨2, 2, 0⟩
      | none => s
    if tardy then gangAtT s else s
/-- GANG_SWITCH_OUT. -/
def execGangSwitchOut (s : State) : Host.Outcome State Fault Refusal := .next (gangGo s)
/-- GANG_INSTANT. -/
def execGangInstant (s : State) : Host.Outcome State Fault Refusal :=
  if s.gang.phase = 1 ∧ gangT s ≤ s.timebase.toNat then .next (gangAtT s) else .refused .notEnabled

/-! ### The sweep: R348, R349 -/

/-- R349: WHERE. -/
def whereByte (queue port : Nat) : Byte := BitVec.ofNat 8 (queue * 64 + port)
/-- R348: the packets of the job in one port, in sweep order; packets that the port's egress holds for a peer (R353) follow its
egress queue. -/
def sweepPort (s : State) (job : Half) (p : Port) : List (Byte × Packet) :=
  (List.range 8).flatMap fun vl =>
    let mine (q : Nat) (l : List Packet) : List (Byte × Packet) := (l.filter fun x => x.job == job && x.vl == vl).map fun x => (whereByte q p.num, x)
    mine 0 p.egress ++ mine 0 (s.holdq.filter fun x => s.route x.dst == some p.num) ++ mine 1 p.xbar ++ mine 2 p.ingress
/-- R348: every packet of the job. -/
def sweepAll (s : State) (job : Half) : List (Byte × Packet) := s.ports.flatMap (sweepPort s job)
/-- R348: the buffers without the job's packets. -/
def clearJob (s : State) (job : Half) : State :=
  let cut (l : List Packet) : List Packet := l.filter fun x => x.job != job
  { s with ports := s.ports.map fun p => { p with egress := cut p.egress, xbar := cut p.xbar, ingress := cut p.ingress }
           holdq := s.holdq.filter fun x => x.job != job || (s.route x.dst).isNone }
def recBytes (l : List (Byte × Packet)) : List Byte := l.flatMap fun x => x.2.bytes x.1
/-- R348, R349: the sweep sealed. -/
def sealSweep (s : State) : State :=
  let job := gangJob s
  let l := sweepAll s job
  let b := recBytes l
  let s := clearJob s job
  let g : Gang := { s.gang with phase := 3, swept := l, sealTime := s.timebase }
  if s.gang.lateOff < 0x1000 + b.length ∨ s.writeBad (gangArea s + 0x1000) b.length then setGang s { g with status := 3 }
  else setGang (s.blockWrite (gangArea s + 0x1000) b.length (memOfBytes b)) g
/-- SWEEP_SEALED. -/
def execSweepSealed (s : State) : Host.Outcome State Fault Refusal :=
  if s.gang.phase = 2 then .next (sealSweep s) else .refused .notEnabled

/-! ### The close: R350, R354 -/

def lateBytes (g : Gang) : Nat := queueBytes g.late
/-- R349: the area's header. -/
def areaHead (s : State) (g : Gang) : List Byte :=
  leBytes 4 0x47475346 ++ leBytes 2 1 ++ leBytes 2 (gangJob s).toNat ++ leBytes 8 (gangT s) ++ leBytes 8 g.sealTime.toNat ++ leBytes 8 s.timebase.toNat
    ++ leBytes 4 g.swept.length ++ leBytes 4 g.nlate ++ leBytes 4 g.nreply ++ leBytes 2 s.domain ++ leBytes 1 g.status ++ [0]
    ++ leBytes 8 (recBytes g.swept).length ++ leBytes 8 (lateBytes g) ++ leBytes 8 g.lateOff ++ zeros 4024
/-- R350: the context of the job saved after the close. -/
def gangSave (s : State) (n : Nat) (forced : Bool) : State :=
  let s := if ckPhase s n = 1 then takeCut s n else s
  let s := if (s.ctx n).halting then s.modCtx n fun x => { x with halting := false, halted := true } else s
  let s := (reach s ((s.crewsOf n).map (·.id)) true forced).modCtx n fun x => { x with stop := none }
  let g := s.gang
  let r := saveContext s n 2 (sectOf 11 0 (fabricBytes (gangArea s) g.swept.length g.nlate g.nreply)) none false
  stopEnd r.1 n r.2
/-- R350, R354: the close at GRACE; a stop that has not completed is forced. -/
def closeGang (s0 : State) : State :=
  let s := if s0.gang.phase = 2 then sealSweep s0 else s0
  let forced := match gangLocal s with | some x => x.stop.isSome | none => false
  let status := if s.gang.fault then 4 else if s.gang.status = 3 then 3 else if forced then 1 else s.gang.status
  let g := { s.gang with phase := 4, status := status }
  let s := if s.writeBad (gangArea s) 4096 then s else s.blockWrite (gangArea s) 4096 (memOfBytes (areaHead s g))
  let s := ((setGang s g).setHostF 0x800000 63 63 0).setHostF 0x800000 62 62 1
  match gangLocal s with
  | some x => gangSave s x.num forced
  | none => s
/-- GANG_CLOSE. -/
def execGangClose (s : State) : Host.Outcome State Fault Refusal :=
  if (s.gang.phase = 2 ∨ s.gang.phase = 3) ∧ gangGrace s ≤ s.timebase.toNat then .next (closeGang s) else .refused .notEnabled

/-! ### Packets that arrive: R341, R350, R351 -/

/-- R350: a job fault, which sets STATUS 4 and makes the area invalid; after the close the header keeps the STATUS it was written with
(R349). -/
def jobFault (s : State) : State :=
  let g := s.gang
  let a := gangArea s
  setGang s { g with fault := true, status := 4
                     badAreas := if g.badAreas.contains a then g.badAreas else a :: g.badAreas }
/-- R351: a sender violation; the negative reply of STATUS 2 does not wait for READY. -/
def violation (s : State) (p : Packet) : State :=
  let s := setGang s { s.gang with viol := s.gang.viol + 1 }
  if p.type < 3 then match s.route p.src with
    | some n => s.modPort n fun x => { x with egress := x.egress ++ [p.reply 4 2 p.injtb []] }
    | none => s
  else s
/-- R350: a late record or a held reply. -/
def lateRecord (s : State) (port : Nat) (p : Packet) : State :=
  let g := s.gang
  let a := gangArea s + g.lateOff + lateBytes g
  if g.lateLen < lateBytes g + p.size ∨ gangGrace s ≤ s.timebase.toNat ∨ s.writeBad a p.size then jobFault s
  else
    let reply := p.type == 3 || p.type == 4
    setGang (s.blockWrite a p.size (memOfBytes (p.bytes (whereByte 3 port))))
      { g with late := g.late ++ [p], nlate := if reply then g.nlate else g.nlate + 1, nreply := if reply then g.nreply + 1 else g.nreply }
/-- R341, R344: a packet that no gang switch concerns: to the port's ingress queue, or onward through the crossbar. -/
def accept (s : State) (port : Nat) (p : Packet) : State :=
  if p.dst = s.domain then s.modPort port fun x => { x with ingress := x.ingress ++ [p] }
  else match s.route p.dst with
    | some n => s.modPort n fun x => { x with xbar := x.xbar ++ [p] }
    | none => s
/-- R341, R350, R351: a packet arrives at a port. -/
def arriveAt (s : State) (port : Nat) (p : Packet) : State :=
  let g := s.gang
  if p.bad then s.modPort port fun x => { x with dropped := x.dropped + 1 }
  else if p.job ≠ gangJob s ∨ g.phase < 2 ∨ g.phase = 5 ∨ s.isReady p.job s.domain then accept s port p
  else if gangT s ≤ p.injtb.toNat then violation s p
  else match g.phase with
    | 2 => accept s port p
    | 3 => lateRecord s port p
    | _ => jobFault s
/-- R353: a packet for this device's bound context of a job that is not READY here is not accepted: its sender holds it. The job of a
switch-out is sorted by its INJTB instead (R350). -/
def State.refuses (s : State) (p : Packet) : Bool :=
  p.dst == s.domain && s.unready p && !(p.job == gangJob s && decide (2 ≤ s.gang.phase) && decide (s.gang.phase ≤ 4))
/-- R341: the bytes of a packet arrive from the wire; one whose header is not what its fields say is dropped too. -/
def arriveBytes (s : State) (port : Nat) (bs : List Byte) : Option State :=
  let p := (Packet.ofBytes bs).1
  if (p.bytes 0).take 64 ≠ bs.take 64 ∨ bs.length ≠ p.size then some (s.modPort port fun x => { x with dropped := x.dropped + 1 })
  else if !p.bad && s.refuses p then none
  else some (arriveAt s port p)
/-- R343, R344: the oldest packet of a lane leaves a port, from its egress queue or from the crossbar buffers bound to it; one for this
device comes back at the same port. A frozen one stays (R347). -/
def transmit (s : State) (port vl : Nat) : Option State :=
  match s.port? port with
  | none => none
  | some x =>
    let frozen (p : Packet) : Bool := (s.gang.phase == 2 && p.job == gangJob s) || s.refuses p
    let back (s : State) (p : Packet) : State := if p.dst = s.domain then arriveAt s port p else s
    if !x.up then none
    else match x.egress.find? (fun p => p.vl == vl), x.xbar.find? fun p => p.vl == vl with
      | some p, _ => if frozen p then none else some (back (s.modPort port fun x => { x with egress := x.egress.erase p }) p)
      | none, some p => if frozen p then none else some (s.modPort port fun x => { x with xbar := x.xbar.erase p })
      | none, none => none

/-! ### Switch-in: R352 -/

/-- Records of an area, from an offset on. -/
def areaRecs (s : State) (a : Nat) : Nat → Nat → List (Byte × Packet)
  | 0, _ => []
  | n + 1, o =>
    let r := Packet.ofBytes (s.physRead (a + o) (64 * Nat.max 1 (s.physNat (a + o + 3) 1)))
    (r.2, r.1) :: areaRecs s a n (o + r.1.size)
def whereQueue (w : Byte) : Nat := w.toNat / 64
def wherePort (w : Byte) : Nat := w.toNat % 64
/-- R352: the area is one that IN rejects. -/
def areaRejected (s : State) (a : Nat) : Bool :=
  s.gang.badAreas.contains a || s.spanBad a 4096 || s.spanPoison a 4096 || s.physNat a 4 != 0x47475346 || s.physNat (a + 4) 2 != 1 || s.physNat (a + 6) 2 != (gangJob s).toNat
    || s.physNat (a + 0x2E) 1 == 3 || s.physNat (a + 0x2E) 1 == 4 || s.physNat (a + 0x2C) 2 != s.domain
/-- R352: what a switch-in has to do, in its order: ingress and local crossbar records in sweep order, late records, held replies, and
the records to queue again. -/
def inParts (s : State) : List InPart :=
  let a := gangArea s
  let swept := areaRecs s a (s.physNat (a + 0x20) 4) 0x1000
  let late := areaRecs s a (s.physNat (a + 0x24) 4 + s.physNat (a + 0x28) 4) (s.physNat (a + 0x40) 8)
  let isReply (p : Packet) : Bool := p.type == 3 || p.type == 4
  let mine (x : Byte × Packet) : Bool := whereQueue x.1 == 2 || (whereQueue x.1 == 1 && x.2.dst == s.domain)
  (swept.filter mine).map (fun x => .deliver (wherePort x.1) x.2) ++ (late.filter fun x => !isReply x.2).map (fun x => .deliver (wherePort x.1) x.2)
    ++ (late.filter fun x => isReply x.2).map (fun x => .held x.2)
    ++ (swept.filter fun x => !mine x).map fun x => .queue ((s.route x.2.dst).getD (wherePort x.1)) x.2
/-- R352: IN: PHASE delivering begins. -/
def gangIn (s : State) : State :=
  if s.hostF 0x800000 63 63 = 1 then s
  else if areaRejected s (gangArea s) then s.setHostF 0x800000 61 58 5
  else setGang ((s.setHostF 0x800000 63 63 1).setHostF 0x800000 62 62 0) { Gang.idle with phase := 5, inq := inParts s, badAreas := s.gang.badAreas }
/-- R352: one part done: a saved packet is delivered as if arriving now, and its answer leaves behind the records that are queued
again. None where it must wait (R328, R270). -/
def inPart (s : State) (x : InPart) : Option State :=
  match x with
  | .deliver _ p =>
    if p.type < 3 then (fabTarget s p).map fun r => { r.1 with gang := { r.1.gang with answers := r.1.gang.answers ++ [r.2] } }
    else some (fabReply s p)
  | .held p => some (fabReply s p)
  | .queue port p => some (inject s port p)
/-- R270: a part that waits for a translation of the host asks for it. -/
def inAsk (s : State) (x : InPart) : State := match x with | .deliver _ p => if p.type < 3 then apertureAsk s p else s | _ => s
/-- R352: the last steps: the answers leave, READY is broadcast, DONE is set, and the context's threads resume. -/
def inDone (s : State) : State :=
  let job := gangJob s
  let s := advertise (s.gang.answers.foldl sendAnswer s) job true
  let s := { s with ctxs := s.ctxs.map fun x => if x.bound && x.jobV && x.jobId == job then { x with heldIn := false } else x }
  retryTable (((setGang s { Gang.idle with badAreas := s.gang.badAreas }).setHostF 0x800000 63 63 0).setHostF 0x800000 62 62 1)
/-- Parts done one after another, up to one that must wait. -/
def inRun : Nat → State → State
  | 0, s => s
  | n + 1, s => match s.gang.inq with
    | [] => inDone s
    | x :: r => match inPart s x with
      | some t => inRun n { t with gang := { t.gang with inq := r } }
      | none => inAsk s x
/-- GANG_SWITCH_IN: IN, or the delivery that goes on after a part had to wait. -/
def execGangSwitchIn (s : State) : Host.Outcome State Fault Refusal :=
  let t := if s.gang.phase = 5 then s else gangIn s
  .next (if t.gang.phase = 5 then inRun (t.gang.inq.length + 1) t else t)

end Sys2Proof.Machine
end

