-- ==== Sys2Proof/Machine/Errors.lean ====
section
/-! DEFINITION. Uncorrectable errors (R358, R359, R362, R363), rollback (R367), retirement and quarantine (R369, R370), the
scrubber (R371, R372), sparing (R373) and fencing (R374, R375). -/
namespace Sys2Proof.Machine

/-! ### Records: R359, R413 -/

/-- R359: a memory-error record appended, and sent as telemetry schema `0x03` (R414). -/
def errRecord (s : State) (kind det : Nat) (owner : Option Nat) (slice way addr set : Nat) : State :=
  let seq := s.ras.errSeq
  let job := owner.elim 0 fun n => let x := s.ctx n; if x.bound then x.job.toNat % 2 ^ 16 else s.hostF (ctxOff n + 0x30) 15 0
  let b := leBytes 8 s.timebase.toNat ++ leBytes 1 kind ++ leBytes 1 (if kind ≤ 3 then det else 0) ++ leBytes 2 (owner.elim 0 (· + 0x100))
    ++ leBytes 2 job ++ leBytes 1 slice ++ leBytes 1 (way % 16) ++ leBytes 8 addr ++ leBytes 2 (set % 1024) ++ leBytes 2 (seq % 2 ^ 16) ++ zeros 4
  let s := (List.range 4).foldl (fun s i => s.setHost (0xE20000 + 32 * (seq % 1024) + 8 * i) (BitVec.ofNat 64 (sliceNat b (8 * i) 8))) s
  telem { s with ras := { s.ras with errSeq := seq + 1 } } 3 b

/-! ### Error stops: R363 -/

/-- R363: an error charged to a context: an error stop of a bound one with its context record, a secondary trap of one whose trap
stop is under way, and nothing of one that is not bound. `addr` is the line address of the record. -/
def errorStop (s : State) (n pos wid cause tval addr : Nat) : State :=
  let x := s.ctx n
  let r : TrapRec := ⟨BitVec.ofNat 32 (9 * 2 ^ 24 + cause * 2 ^ 16), 0, BitVec.ofNat 64 tval, 0, 0, s.timebase, .none⟩
  if !x.bound then s
  else if x.trapStop then s.setCtx (x.addSecond pos r)
  else
    let s := (trapStop s n pos wid 5 true r).modCtx n fun x => { x with errLine := addr }
    if s.haltEn n || s.hostF (logOff n) 0 0 == 1 then s else errRecord s 0x20 0 (some n) 0 0 addr 0
/-- R367: a poisoned line charged to a context. -/
def charge (s : State) (n line : Nat) : State :=
  s.modCtx n fun x => { x with poisoned := if x.poisoned.contains line then x.poisoned else line :: x.poisoned }

/-! ### Retirement and quarantine: R369, R370 -/

/-- R369: the offset of a retirement entry that is not valid, the lowest first; none where the table is full. -/
def freeRetire (s : State) : Option Nat := (List.range 8192).find? fun i => s.hostF (0x900000 + 8 * i) 0 0 == 0
/-- R369: a unit retired; its lines leave the last-level cache. -/
def retire (s : State) (unit : Nat) (owner : Option Nat) : State :=
  if s.retired unit then s
  else match freeRetire s with
    | none => s.setHostF 0x910000 63 63 1
    | some i =>
      let s := s.setHost (0x900000 + 8 * i) (BitVec.ofNat 64 (unit / 65536 * 65536 + 1))
      let s := s.setHostF 0x910000 13 0 (s.hostF 0x910000 13 0 + 1)
      errRecord { s with ras := { s.ras with dirty := s.ras.dirty.filter fun d => d.line / 65536 != unit / 65536 } } 0x10 0 owner 0 0 (unit / 65536 * 65536) 0
/-- R370: a (set, way) pair quarantined, or its way taken out of every set. -/
def quarantine (s : State) (slice set way : Nat) : State :=
  let r := s.ras
  let r := if (r.quarantine.filter fun q => q.1 == slice).length < 64 then { r with quarantine := r.quarantine ++ [(slice, set, way)] }
    else { r with waysOut := r.waysOut ++ [(slice, way)] }
  errRecord { s with ras := r } 0x11 0 none slice way 0 set
/-- R370: nothing is ever allocated in this place. -/
def placeOut (s : State) (slice set way : Nat) : Bool := s.ras.quarantine.contains (slice, set, way) || s.ras.waysOut.contains (slice, way)

/-! ### Errors where they are found: R363 -/

/-- UE_DIRTY_LLC_LINE. R359 defines DET 0 to 3. -/
def execUeDirtyLlcLine (line : Nat) (set : BitVec 10) (way det : BitVec 4) (s : State) : Host.Outcome State Fault Refusal :=
  match s.ras.dirty.find? fun d => d.line == line with
  | none => .refused .notEnabled
  | some d =>
    let sl := homeSlice line
    if 3 < det.toNat ∨ placeOut s sl set.toNat way.toNat then .refused .notEnabled
    else
      let t := { s with mem := s.mem.store (s.place line) d.back
                        ras := { s.ras with dirty := s.ras.dirty.filter (fun y => y.line != line), poisonLines := line :: s.ras.poisonLines } }
      let t := errRecord (charge t d.ctx line) 1 det.toNat (some d.ctx) sl way.toNat line set.toNat
      let t := errorStop t d.ctx 0 0 3 line line
      .next (quarantine (retire t (line / 65536 * 65536) (some d.ctx)) sl set.toNat way.toNat)
/-- UE_CLEAN_LLC_LINE: the access is served from DRAM. -/
def execUeCleanLlcLine (line : Nat) (set : BitVec 10) (way det : BitVec 4) (s : State) : Host.Outcome State Fault Refusal :=
  if 3 < det.toNat ∨ line % 128 ≠ 0 ∨ !s.cached line ∨ s.ras.dirty.any (fun d => d.line == line) ∨ placeOut s (homeSlice line) set.toNat way.toNat then .refused .notEnabled
  else .next (quarantine (errRecord s 2 det.toNat none (homeSlice line) way.toNat line set.toNat) (homeSlice line) set.toNat way.toNat)
/-- R363: DET of a reader. -/
def readerDet : ErrReader → Nat
  | .demand => 0
  | .scrubber => 2
  | _ => 3
/-- R363: what the reader of a DRAM granule does; none where it reads nothing. A demand access, a copy and a `tld` meet the poison
as a bus error at the access itself. -/
def readerFails (s : State) : ErrReader → Option State
  | .demand | .scrubber => some s
  | .copy crew entry =>
    match (s.crew? crew).bind fun c => c.copies.getD entry none with
    | some x => if x.st == .running then some s else none
    | none => none
  | .tileLoad crew id => if (s.crew? crew).any fun c => c.transfers.any fun x => x.id == id then some s else none
  | .chervil n => if ckPhase s n = 3 then some (failInterval s n 3) else none
  | .migration slot =>
    if s.mig.any fun m => m.slot == slot then
      some ({ s with mig := s.mig.filter fun x => x.slot != slot }.setHostF (migOff slot + 0x10) 63 61 3)
    else none
/-- UE_DRAM_GRANULE. -/
def execUeDramGranule (addr : Nat) (reader : ErrReader) (s : State) : Host.Outcome State Fault Refusal :=
  let g := addr / 64 * 64
  if !isDram g ∨ s.retired g ∨ (s.ras.dirty.any fun d => d.line == g / 128 * 128) then .refused .notEnabled
  else match readerFails s reader with
    | none => .refused .notEnabled
    | some t =>
      let t := { t with ras := { t.ras with poison := if t.ras.poison.contains g then t.ras.poison else g :: t.ras.poison } }
      .next (retire (errRecord t 3 (readerDet reader) none 0 0 (g / 128 * 128) 0) g none)
/-- R373: a vault row replaced by a spare one, which may fail in its turn. -/
def spareRow (s : State) (quad row : Nat) : State := { s with ras := { s.ras with spareRows := s.ras.spareRows ++ [(quad, row)] } }
/-- UE_VAULT_LINE: the owner is the context whose quad map names the quad (R362). -/
def execUeVaultLine (quad off : Nat) (s : State) : Host.Outcome State Fault Refusal :=
  if Config.quads ≤ quad ∨ 2 ^ 23 ≤ off then .refused .notEnabled
  else
    let k := vaultKey quad (off / 128 * 128)
    let t := if s.ras.vaultPoison.contains k then s else spareRow { s with ras := { s.ras with vaultPoison := k :: s.ras.vaultPoison } } quad (off / 2048)
    match t.ctxs.findSome? fun x => if x.bound then (x.logicalQuad quad).map fun l => (x.num, l) else none with
    | none => .next t
    | some (n, l) =>
      let a := l * 2 ^ 23 + off / 128 * 128
      .next (errorStop (charge t n k) n 0 0 3 a a)
/-- R180: copies that write to a crew fail it as a destination. -/
def failCopiesTo (s : State) (c : Crew) : State :=
  let q := c.kernel.shape.qgroup
  let hit (y : Crew) (d : CopyDesc) : Bool := if d.mcast = 0 then d.dsp == 2 && y.id == c.id else d.mcast.testBit (c.pos % q)
  (s.crews.filter fun y => y.ctx == c.ctx && y.pos / q == c.pos / q).foldl (fun s y =>
    (List.range 16).foldl (fun s i => match y.copies.getD i none with
      | some x => if x.st == .running && hit y (copyDesc x.desc) then failDest s y.id i (c.pos % q) else s
      | none => s) s) s
/-- R200, R363: the running request of a crew, if a pass of it runs. -/
def runningReq (c : Crew) : Option MatReq := (c.liveReqs).find? fun r => r.st == .running
/-- A request of a crew faulted, and the error stop with its handle as TVAL (R297). -/
def engineError (s : State) (c : Crew) (r : MatReq) : State := errorStop (matFault s c.id r.num) c.ctx c.pos 0 2 r.handle.toNat 0
/-- UE_CREW_STATE. -/
def execUeCrewState (crew : Nat) (part : CrewPart) (s : State) : Host.Outcome State Fault Refusal :=
  match s.crew? crew with
  | none => .refused .notEnabled
  | some c =>
    match part with
    | .regs => .next (errorStop s c.ctx c.pos 0 3 0 0)
    | .scratch => .next (errorStop (failCopiesTo s c) c.ctx c.pos 0 3 0 0)
    | .tile => match runningReq c with
      | some r => .next (engineError s c r)
      | none => .next (errorStop s c.ctx c.pos 0 3 0 0)
    | .engine num => match (c.liveReqs).find? fun r => r.num == num with
      | some r => .next (if r.st == .running then engineError s c r else errorStop s c.ctx c.pos 0 3 0 0)
      | none => .refused .notEnabled

/-! ### Rollback: R364, R367 -/

/-- R364: an entry of the log: LINE and IMAGE. -/
def logEntry (s : State) (n i : Nat) : Nat × List Byte :=
  let b := s.physRead ((s.host (logOff n + 0x08)).toNat + 144 * i) 144
  (sliceNat b 0 8, (b.drop 16).take 128)
/-- R364: the key of a LINE. -/
def lineKey (l : Nat) : Nat := if 2 ^ 63 ≤ l then vaultKey (bitsOf l 30 23) (bitsOf l 22 7 * 128) else bitsOf l 51 7 * 128
/-- R367: the key to which the image of a line goes. -/
def backTo (unit : Option Nat) (spare k : Nat) : Nat := match unit with
  | some u => if k / 65536 = u then spare + k % 65536 else k
  | none => k
/-- R324: the unit that a rolled-back line lies in becomes dirty. -/
def markRolled (s : State) (n k : Nat) : State :=
  let x := s.ctx n
  match unitOf x none k with
  | some u => markDirty s n u
  | none =>
    let f := k / 32768 * 32768
    match (x.ckpt.dirty ++ x.ckpt.streaming ++ fullMemory s x).find? fun u => match u with | .page _ g => g == f | _ => false with
    | some u => markDirty s n u
    | none => s
/-- R367: the images written back, the newest first. -/
def undo (unit : Option Nat) (spare n : Nat) : Nat → State → State
  | 0, s => s
  | i + 1, s =>
    let e := logEntry s n i
    let k := lineKey e.1
    let s := markRolled s n k
    let s := s.writeFor (some n) (backTo unit spare k) 128 (memOfBytes e.2)
    undo unit spare n i { s with ras := { s.ras with vaultPoison := s.ras.vaultPoison.filter fun v => v != k } }
/-- R367: every line of a unit but the poisoned ones copied to the spare unit. -/
def copyUnit (s : State) (n u spare : Nat) (bad : List Nat) : State :=
  (List.range 512).foldl (fun s i =>
    let k := u * 65536 + 128 * i
    if bad.contains k then s else s.writeFor (some n) (spare + 128 * i) 128 (s.section k 128)) s
/-- R364: how a rollback ends. -/
def rollEnd (s : State) (n result : Nat) : State :=
  ((s.setHostF (logOff n) 63 63 0).setHostF (logOff n) 61 60 result).setHostF (logOff n) 62 62 1
/-- R367: ROLL. A launch that is rolled back may start again. -/
def roll (s : State) (n : Nat) : State :=
  let x := s.ctx n
  let o := logOff n
  if !x.rollWait then s
  else
    let used := (s.host (o + 0x18)).toNat
    let base := (s.host (o + 0x08)).toNat
    let lines := (List.range used).map fun i => lineKey (logEntry s n i).1
    let units := ((x.poisoned.filter fun k => !isVault k).map fun k => k / 65536).eraseDups
    let spare := s.hostF (o + 0x20) 51 16 * 65536
    if s.hostF o 0 0 == 0 || s.hostF o 1 1 == 1 || decide (1 < units.length) || (units.length == 1 && s.hostF (o + 0x20) 0 0 == 0) then rollEnd s n 1
    else if s.spanBad base (144 * used) || s.spanPoison base (144 * used) then rollEnd s n 2
    else if x.poisoned.any (fun k => !lines.contains k) then rollEnd s n 1
    else
      let t := match units.head? with
        | some u => retire (copyUnit s n u spare x.poisoned) (u * 65536) (some n)
        | none => s
      let t := undo units.head? spare n used t
      let t := (t.modCtx n fun x => { x with firstBits := [], poisoned := [], rollWait := false }).setHost (o + 0x18) 0
      let t := { t with launches := t.launches.map fun l => if l.ctx = n ∧ l.st = 2 then { l with st := 1 } else l }
      rollEnd (errRecord t 0x21 0 (some n) 0 0 x.errLine 0) n 0
/-- ROLLBACK. -/
def execRollback (ctx : Nat) (s : State) : Host.Outcome State Fault Refusal :=
  if 256 ≤ ctx then .refused .notEnabled else .next (roll (s.setHostF (logOff ctx) 62 62 (if (s.ctx ctx).rollWait then 0 else s.hostF (logOff ctx) 62 62)) ctx)

/-! ### The scrubber: R371, R372 -/

/-- R21: the address of a stack's ECC granule, counted from 0. -/
def scrubAddr (stack i : Nat) : Nat := 8192 * (12 * (i / 128) + stack) + 64 * (i % 128)
/-- ECC granules of one stack. -/
def scrubCount : Nat := Config.dramEnd / 12 / 64
def State.scrub (s : State) (stack : Nat) : Scrub := (s.ras.scrubs.find? fun x => x.stack == stack).getD ⟨stack, 0, none⟩
def State.setScrub (s : State) (x : Scrub) : State :=
  { s with ras := { s.ras with scrubs := x :: s.ras.scrubs.filter fun y => y.stack != x.stack } }
/-- SCRUB_GRANULE: the lock on the next granule is taken, but for one whose line is dirty. -/
def execScrubGranule (stack : Nat) (s : State) : Host.Outcome State Fault Refusal :=
  let x := s.scrub stack
  let a := scrubAddr stack x.pos
  if 12 ≤ stack ∨ !(s.reg (devAddr (13 + stack) 0x200000)).getLsbD 0 ∨ x.lock.isSome then .refused .notEnabled
  else .next (s.setScrub ⟨stack, (x.pos + 1) % scrubCount, if s.ras.dirty.any fun d => d.line == a / 128 * 128 then none else some a⟩)
/-- R371: the write-back and the end of the lock; the corrected bytes are the granule's own. -/
def scrubEnd (s : State) (stack : Nat) : Option State :=
  let x := s.scrub stack
  if x.lock.isSome then some (s.setScrub { x with lock := none }) else none

/-! ### Sparing and fencing: R373 to R375 -/

/-- CORE_SPARE_MAP: only while the core holds no crew. -/
def execCoreSpareMap (die quadrant : Nat) (v : Bool) (core : BitVec 4) (s : State) : Host.Outcome State Fault Refusal :=
  if Config.dies ≤ die ∨ 4 ≤ quadrant ∨ s.crews.any (fun c => c.core == 64 * die + 16 * quadrant + core.toNat) then .refused .notEnabled
  else
    let a := devAddr (3 + die) 0x100000
    let b := putBits (s.reg a).toNat (8 * quadrant + 7) (8 * quadrant + 7) (if v then 1 else 0)
    .next (s.setDev a (BitVec.ofNat 64 (putBits b (8 * quadrant + 3) (8 * quadrant) core.toNat)))
/-- DIE_FENCE. -/
def execDieFence (dies : BitVec 10) (s : State) : Host.Outcome State Fault Refusal := .next (s.setHost 0x910008 (dies.setWidth 64))
/-- R375: granules of one stack. -/
def stackGranules : Nat := Config.dramEnd / 12 / 8192
def fenceState (s : State) : Nat := s.hostF 0x910018 63 61
/-- R375: GO; a fence in progress goes on. -/
def fenceGo (s : State) : State :=
  if fenceState s = 1 ∨ fenceState s = 2 then s
  else if s.ras.stkLive.isSome ∨ 12 ≤ s.hostF 0x910018 7 4 then s.setHostF 0x910018 63 61 5
  else { s with ras := { s.ras with stkCopied := 0 } }.setHostF 0x910018 63 61 1
/-- STACK_FENCE_GO. -/
def execStackFenceGo (stack : BitVec 4) (s : State) : Host.Outcome State Fault Refusal :=
  .next (fenceGo (if fenceState s = 1 ∨ fenceState s = 2 then s else s.setHostF 0x910018 7 4 stack.toNat))
/-- STACK_FENCE_GRANULE_COPY. -/
def execStackFenceGranuleCopy (s : State) : Host.Outcome State Fault Refusal :=
  let n := s.ras.stkCopied
  let a := 8192 * (12 * n + s.hostF 0x910018 7 4)
  let b := (s.host 0x910010).toNat + 8192 * n
  if fenceState s ≠ 1 then .refused .notEnabled
  else if s.spanBad b 8192 ∨ !isCxl b then .next (s.setHostF 0x910018 63 61 4)
  else
    let t := { s with mem := s.mem.overwrite b 8192 (s.mem.section a 8192), ras := { s.ras with stkCopied := n + 1 } }
    .next (if n + 1 = stackGranules then t.setHostF 0x910018 63 61 2 else t)
/-- R375: END of a mirrored fence. -/
def fenceEnd (s : State) : State :=
  if fenceState s ≠ 2 then s
  else { s with ras := { s.ras with stkLive := some (s.hostF 0x910018 7 4, (s.host 0x910010).toNat) } }.setHostF 0x910018 63 61 3
/-- STACK_FENCE_END. -/
def execStackFenceEnd (s : State) : Host.Outcome State Fault Refusal := .next (fenceEnd s)

end Sys2Proof.Machine
end

