-- ==== Sys2Proof/Machine/Queue.lean ====
section
/-! DEFINITION. Command queues (R378 to R380, R384, R389, R421, R422), the journal (R402, R403), Sorrel (R385 to R388),
launch templates and numbers (R391, R393), acceptance (R396) and nodes (R394, R395). -/
namespace Sys2Proof.Machine

/-! ### Queue registers: R378, R379, R389 -/

def qEn (s : State) (q : Nat) : Bool := s.hostF (queueOff q + 0x10) 8 8 == 1
def qLog (s : State) (q : Nat) : Nat := s.hostF (queueOff q + 0x10) 4 0
def qHead (s : State) (q : Nat) : Nat := (s.host (queueOff q + 0x20)).toNat
def qTail (s : State) (q : Nat) : Nat := (s.host (queueOff q + 0x18)).toNat
/-- R389: the rings that a queue's examination serves. -/
def qRings (s : State) (q : Nat) : List Nat :=
  let m := s.hostF (queueOff q + 0x38) 15 0
  if q % 16 = 0 ∧ m ≠ 0 then ((List.range 16).filter m.testBit).map (q + ·) else [q]
/-- R389: the queue is a leader with a MASK, or one that its leader's MASK names. -/
def qMerged (s : State) (q : Nat) : Bool :=
  let m := s.hostF (queueOff (q / 16 * 16) + 0x38) 15 0
  m != 0 && (q % 16 == 0 || m.testBit (q % 16))
/-- R389: the queue in whose place a ring is served. -/
def qLeader (s : State) (q : Nat) : Nat := let l := q / 16 * 16; if (qRings s l).contains q then l else q
/-- R379: a wake: the queue's examination is due. -/
def qWake (s : State) (q : Nat) : State :=
  let l := qLeader s q
  if !qEn s l || s.due.contains l then s else { s with due := s.due ++ [l] }
/-- R379: a write to `QUEUE_TAIL`. -/
def doorbell (s : State) (q : Nat) (x : Quad) : State :=
  qWake (s.setHost (queueOff q + 0x18) (if (s.host (queueOff q + 0x18)).toNat < x.toNat then x else s.host (queueOff q + 0x18))) q
/-- DOORBELL. -/
def execDoorbell (q : Nat) (x : Quad) (s : State) : Host.Outcome State Fault Refusal :=
  if 64 ≤ q then .refused .notEnabled else .next (doorbell s q x)
/-- The command path signals the host (R386, R387). -/
def qSignal (s : State) (q : Nat) : State := { s with hostOut := s.hostOut ++ [.queueSignal q] }

/-! ### The program and its verification: R385, R386 -/

/-- R386: what the operands of one bytecode at place i of n break. `wins` gives a window's V and WR. -/
def sorrelBad (merged : Bool) (wins : Nat → Bool × Bool) (n i : Nat) : Instr → Bool
  | .sorrelPkw _ k => decide (k.toNat < 1) || decide ((if merged then 13 else 15) < k.toNat)
  | .sorrelLdw _ _ w _ => !(wins w.toNat).1
  | .sorrelStw _ _ w _ => !(wins w.toNat).1 || !(wins w.toNat).2
  | .sorrelShr _ _ k => decide (63 < k.toNat)
  | .sorrelBz _ k => decide (k.toNat < 1) || decide (n < i + 1 + k.toNat)
  | .sorrelBnz _ k => decide (k.toNat < 1) || decide (n < i + 1 + k.toNat)
  | .sorrelRep k l => decide (k.toNat < 1) || decide (64 < k.toNat) || decide (l.toNat < 1) || decide (n < i + 1 + l.toNat)
  | .sorrelCond _ w _ => !(wins w.toNat).1
  | .sorrelEmit w _ => !(wins w.toNat).1
  | _ => false
/-- The skip of a branch. -/
def skipOf : Instr → Option Nat
  | .sorrelBz _ k => some k.toNat
  | .sorrelBnz _ k => some k.toNat
  | _ => none
/-- R386: the body of a `rep` at place i holds no `rep`, and every skip that starts in it ends in it or at its end. -/
def bodyBad (is : List Instr) (i l : Nat) : Bool :=
  (List.range l).any fun j => match is[i + 1 + j]? with
    | some (.sorrelRep _ _) => true
    | some x => match skipOf x with | some k => decide (l < j + 1 + k) | none => false
    | none => false
/-- R386: the first bytecode at fault of a program, if any. -/
def verify (merged : Bool) (wins : Nat → Bool × Bool) (prog : List Word) : Option Nat :=
  match prog.findIdx? fun w => (decodeSorrel w).isNone with
  | some i => some i
  | none =>
    let is := prog.filterMap decodeSorrel
    (List.range prog.length).find? fun i => match is[i]? with
      | some x => sorrelBad merged wins prog.length i x || (match x with | .sorrelRep _ l => bodyBad is i l.toNat | _ => false)
      | none => true
/-- R384: a window of a queue: base, length, WR and V. -/
def qWin (s : State) (q n : Nat) : Nat × Nat × Bool × Bool :=
  let b := (s.host (queueOff q + 0x40 + 0x10 * n)).toNat
  (bitsOf b 51 3 * 8, s.hostF (queueOff q + 0x48 + 0x10 * n) 31 0, b.testBit 1, b.testBit 0)
/-- R386: the program that `QUEUE_PROG` names. -/
def qProgram (s : State) (q : Nat) : Except Nat (List Word) :=
  let a := s.hostF (queueOff q + 0x28) 51 7 * 128
  let n := s.hostF (queueOff q + 0x28) 5 0
  if n = 0 ∨ 32 < n ∨ s.spanBad a (4 * n) ∨ s.spanPoison a (4 * n) then .error 0
  else
    let prog := (List.range n).map fun i => BitVec.ofNat 32 (s.physNat (a + 4 * i) 4)
    match verify (qMerged s q) (fun w => ((qWin s q w).2.2.2, (qWin s q w).2.2.1)) prog with
    | some i => .error i
    | none => .ok prog
/-- R384, R387: a queue error in `QUEUE_STAT`, with its signal to the host. -/
def qError (s : State) (q code step : Nat) : State :=
  let o := queueOff q + 0x30
  qSignal (((s.setHostF o 63 63 1).setHostF o 62 59 code).setHostF o 58 53 step) q
/-- R386, R421: EN written 1 to a queue whose LOG2 stands. -/
def qEnable (s : State) (q : Nat) : State :=
  if qEn s q ∨ qLog s q < 1 ∨ 16 < qLog s q then s
  else match qProgram s q with
    | .error i => qError s q 1 i
    | .ok prog => qWake ({ s with queueProg := (q, prog) :: s.queueProg.filter fun x => x.1 != q }.setHostF (queueOff q + 0x10) 8 8 1) q
/-- R378, R421: a write to `QUEUE_CTL`. -/
def qCtlWrite (s : State) (q : Nat) (x m : Quad) : State :=
  let en := m.getLsbD 8
  if qEn s q then (if en && !x.getLsbD 8 then { s with due := s.due.filter (· != q) }.setHostF (queueOff q + 0x10) 8 8 0 else s)
  else
    let s := s.setHostF (queueOff q + 0x10) 4 0 (bitsOf (((s.host (queueOff q + 0x10)) &&& ~~~m ||| x &&& m).toNat) 4 0)
    if en && x.getLsbD 8 then qEnable s q else s
/-- QUEUE_ENABLE. -/
def execQueueEnable (q : Nat) (log2 : BitVec 5) (s : State) : Host.Outcome State Fault Refusal :=
  if 64 ≤ q then .refused .notEnabled else .next (qCtlWrite s q (BitVec.ofNat 64 (256 + log2.toNat)) (BitVec.ofNat 64 0x11F))

/-! ### The journal: R402, R403 -/

/-- R402, R403: an entry appended. -/
def journal (s : State) (ring disp slot : Nat) (lap : Word) (digest : List Byte) (launch : Word) : State :=
  let seq := s.hostF 0xD00008 31 0
  let b := leBytes 8 s.timebase.toNat ++ leBytes 1 ring ++ leBytes 1 disp ++ leBytes 2 slot ++ leBytes 4 lap.toNat ++ padTo 8 digest
    ++ leBytes 4 launch.toNat ++ leBytes 4 seq
  let s := (List.range 4).foldl (fun s i => s.setHost (0xD10000 + 32 * (seq % 4096) + 8 * i) (BitVec.ofNat 64 (sliceNat b (8 * i) 8))) s
  let log := s.hostF 0xD00000 4 0
  let a := s.hostF 0xD00000 51 12 * 4096 + 32 * (seq % 2 ^ log)
  let s := if log < 12 ∨ 24 < log ∨ s.writeBad a 32 then s else s.blockWrite a 32 (memOfBytes b)
  s.setHostF 0xD00008 31 0 (seq + 1)

/-! ### The examination: R379, R389, R422 -/

/-- R378: the address of the slot of a ring index. -/
def slotOf (s : State) (r w : Nat) : Nat := s.hostF (queueOff r) 51 6 * 64 + 64 * (w % 2 ^ qLog s r)
def lapOf (s : State) (r w : Nat) : Nat := (w / 2 ^ qLog s r + 1) % 2 ^ 32
/-- R379: the head slot of a ring is published. -/
def published (s : State) (r : Nat) : Bool :=
  let a := slotOf s r (qHead s r)
  !s.spanBad a 64 && !s.spanPoison a 64 && s.physNat a 4 == lapOf s r (qHead s r)
/-- R379: WAIT of a ring after its examination. -/
def setWait (s : State) (r : Nat) : State := s.setHostF (queueOff r + 0x10) 9 9 (if published s r then 0 else 1)
/-- R389: the publication timestamp of a ring's head slot. -/
def stampOf (s : State) (r : Nat) : Nat := s.physNat (slotOf s r (qHead s r) + 56) 8
/-- R389: the ring that an examination consumes from. -/
def pickRing (s : State) (l : List Nat) : Option Nat :=
  l.foldl (fun b r => match b with
    | none => some r
    | some x => if stampOf s r < stampOf s x then some r else some x) none
/-- R422: the queue served next: cyclically after the one served last. -/
def nextQueue (s : State) : Option Nat := ((List.range 64).map fun i => (s.served + 1 + i) % 64).find? fun q => s.due.contains q
/-- R379: the packet in the head slot of a ring. -/
def startPacket (s : State) (q r : Nat) : State :=
  let w := qHead s r
  let a := slotOf s r w
  let p : Sorrel :=
      { queue := q, ring := r, slot := w % 2 ^ qLog s r, lap := BitVec.ofNat 32 (lapOf s r w)
        words := (List.range 16).map fun i => BitVec.ofNat 32 (s.physNat (a + 4 * i) 4), prog := ((s.queueProg.find? fun x => x.1 == q).map (·.2)).getD []
        pc := 0, steps := 0, k := List.replicate 8 0, loop := none, csts := [], deps := [], cond := none, last := 0, disp := 5 }
  { s with sorrel := some p }
/-- QUEUE_EXAMINATION. -/
def execQueueExamination (s : State) : Host.Outcome State Fault Refusal :=
  match (if s.sorrel.isSome then none else nextQueue s) with
  | none => .refused .notEnabled
  | some q =>
    let s := { s with served := q, due := s.due.filter (· != q) }
    if !qEn s q then .next s
    else
      let open1 := (qRings s q).filter fun r => decide (qHead s r < qTail s r)
      let s := open1.foldl setWait s
      match pickRing s (open1.filter (published s)) with
      | none => .next s
      | some r => .next (startPacket s q r)

/-! ### The end of a packet: R379, R387, R402 -/

/-- R402: the digest of a packet's slot. -/
def packetDigest (p : Sorrel) : List Byte := (sha256 (p.words.flatMap fun w => leBytes 4 w.toNat)).take 8
/-- R379: the read index is written back and HEAD advances; the next examination is due. -/
def endPacket (s : State) (p : Sorrel) (disp : Nat) : State :=
  let s := journal s p.ring disp p.slot p.lap (packetDigest p) p.last
  let head := qHead s p.ring + 1
  let a := s.hostF (queueOff p.ring + 0x08) 51 4 * 16 + 8
  let s := if s.writeBad a 8 then s else s.blockWrite a 8 (memOfBytes (leBytes 8 head))
  qWake ({ s with sorrel := none }.setHost (queueOff p.ring + 0x20) (BitVec.ofNat 64 head)) p.ring
/-- R387: a queue error stops the packet and the queue. -/
def packetError (s : State) (p : Sorrel) (code : Nat) : State :=
  let s := endPacket (s.setHostF (queueOff p.queue + 0x10) 8 8 0) p (5 + code)
  qError { s with due := s.due.filter (· != p.queue) } p.queue code p.pc

/-! ### Bytecodes: R385, R387 -/

/-- What a bytecode comes to. -/
inductive SRes
  | go (s : State) (p : Sorrel) (skip : Nat)
  | err (code : Nat)
  | wait
  | fin
  deriving DecidableEq, Repr
/-- R385: the place after a bytecode, `skip` bytecodes on; at the end of a `rep` body it starts over. -/
def Sorrel.goOn (p : Sorrel) (skip : Nat) : Sorrel :=
  let pc := p.pc + 1 + skip
  match p.loop with
  | some (a, b, n) => if pc = b then (if 1 < n then { p with pc := a, loop := some (a, b, n - 1) } else { p with pc := b, loop := none }) else { p with pc := pc }
  | none => { p with pc := pc }
/-- R387: one step of the packet in progress. Running off the end is `end`. -/
def sorrelStep (s : State) (body : Sorrel → SRes) : Host.Outcome State Fault Refusal :=
  match s.sorrel with
  | none => .refused .notEnabled
  | some p =>
    if 256 ≤ p.steps then .next (packetError s p 2)
    else match body { p with steps := p.steps + 1 } with
      | .wait => .next s
      | .err c => .next (packetError s { p with steps := p.steps + 1 } c)
      | .fin => .next (endPacket s p p.disp)
      | .go t q skip =>
        let q := q.goOn skip
        if q.prog.length ≤ q.pc then .next (endPacket t q q.disp) else .next { t with sorrel := some q }
def Sorrel.reg (p : Sorrel) (i : BitVec 3) : Quad := p.k.getD i.toNat 0
def Sorrel.setReg (p : Sorrel) (i : BitVec 3) (x : Quad) : Sorrel := { p with k := p.k.set i.toNat x }
/-- SORREL_END. -/
def execSorrelEnd (s : State) : Host.Outcome State Fault Refusal := sorrelStep s fun _ => .fin
/-- SORREL_LI. -/
def execSorrelLi (ka : BitVec 3) (imm : BitVec 21) (s : State) : Host.Outcome State Fault Refusal :=
  sorrelStep s fun p => .go s (p.setReg ka (imm.signExtend 64)) 0
/-- SORREL_PKW. -/
def execSorrelPkw (ka : BitVec 3) (n : BitVec 21) (s : State) : Host.Outcome State Fault Refusal :=
  sorrelStep s fun p => .go s (p.setReg ka ((p.words.getD n.toNat 0).setWidth 64)) 0
/-- R385: the address of a memory operand of n bytes; none where it is misaligned, outside its window, or answered by no memory. -/
def sorrelAddr (s : State) (p : Sorrel) (kb : Quad) (w : BitVec 2) (off : BitVec 19) (n : Nat) : Option Nat :=
  let x := qWin s p.queue w.toNat
  let a := (BitVec.ofNat 64 x.1 + kb + off.setWidth 64).toNat
  if !x.2.2.2 ∨ a % n ≠ 0 ∨ a < x.1 ∨ x.1 + x.2.1 < a + n ∨ s.spanBad a n ∨ s.spanPoison a n then none else some a
/-- SORREL_LDW. -/
def execSorrelLdw (ka kb : BitVec 3) (w : BitVec 2) (off : BitVec 19) (s : State) : Host.Outcome State Fault Refusal :=
  sorrelStep s fun p => match sorrelAddr s p (p.reg kb) w off 8 with
    | some a => .go s (p.setReg ka (BitVec.ofNat 64 (s.physNat a 8))) 0
    | none => .err 3
/-- SORREL_STW. -/
def execSorrelStw (ka kb : BitVec 3) (w : BitVec 2) (off : BitVec 19) (s : State) : Host.Outcome State Fault Refusal :=
  sorrelStep s fun p => match (if (qWin s p.queue w.toNat).2.2.1 then sorrelAddr s p (p.reg kb) w off 8 else none) with
    | some a => if s.writesBlocked [a] then .wait else .go (physWrite s none none none a (leBytes 8 (p.reg ka).toNat)) p 0
    | none => .err 3
/-- SORREL_ADD. -/
def execSorrelAdd (ka kb : BitVec 3) (imm : BitVec 21) (s : State) : Host.Outcome State Fault Refusal :=
  sorrelStep s fun p => .go s (p.setReg ka (p.reg kb + imm.signExtend 64)) 0
/-- SORREL_ADDK. -/
def execSorrelAddk (ka kb : BitVec 3) (s : State) : Host.Outcome State Fault Refusal :=
  sorrelStep s fun p => .go s (p.setReg ka (p.reg ka + p.reg kb)) 0
/-- SORREL_ANDI. -/
def execSorrelAndi (ka kb : BitVec 3) (imm : BitVec 21) (s : State) : Host.Outcome State Fault Refusal :=
  sorrelStep s fun p => .go s (p.setReg ka (p.reg kb &&& imm.setWidth 64)) 0
/-- SORREL_SHR. -/
def execSorrelShr (ka kb : BitVec 3) (imm : BitVec 21) (s : State) : Host.Outcome State Fault Refusal :=
  sorrelStep s fun p => .go s (p.setReg ka (p.reg kb >>> imm.toNat)) 0
/-- SORREL_BZ. -/
def execSorrelBz (ka : BitVec 3) (n : BitVec 21) (s : State) : Host.Outcome State Fault Refusal :=
  sorrelStep s fun p => .go s p (if p.reg ka = 0 then n.toNat else 0)
/-- SORREL_BNZ. -/
def execSorrelBnz (ka : BitVec 3) (n : BitVec 21) (s : State) : Host.Outcome State Fault Refusal :=
  sorrelStep s fun p => .go s p (if p.reg ka = 0 then 0 else n.toNat)
/-- SORREL_REP. -/
def execSorrelRep (n : BitVec 7) (len : BitVec 5) (s : State) : Host.Outcome State Fault Refusal :=
  sorrelStep s fun p => .go s { p with loop := some (p.pc + 1, p.pc + 1 + len.toNat, n.toNat) } 0
/-- SORREL_CST. -/
def execSorrelCst (c : BitVec 6) (ka : BitVec 3) (s : State) : Host.Outcome State Fault Refusal :=
  sorrelStep s fun p => .go s { p with csts := (c.toNat, p.reg ka) :: p.csts.filter fun x => x.1 != c.toNat } 0
/-- R393: the number is one that a `dep` may name: among the 65,536 before the counter, and given to a launch. -/
def depNames (s : State) (n : Nat) : Bool :=
  n != 0 && decide (1 ≤ launchAge s n) && decide (launchAge s n ≤ 65536)
    && ((s.dispOf n).isSome || (s.launches.any fun l => l.num == n) || s.nodes.any fun y => y.launch.num == n)
/-- SORREL_DEP. -/
def execSorrelDep (ka : BitVec 3) (s : State) : Host.Outcome State Fault Refusal :=
  sorrelStep s fun p =>
    let n := (p.reg ka).setWidth 32
    if 8 ≤ p.deps.length ∨ !depNames s n.toNat then .err 4 else .go s { p with deps := p.deps ++ [n] } 0
/-- SORREL_COND. -/
def execSorrelCond (kb : BitVec 3) (w : BitVec 2) (off : BitVec 19) (s : State) : Host.Outcome State Fault Refusal :=
  sorrelStep s fun p => match sorrelAddr s p (p.reg kb) w off 4 with
    | some a => .go s { p with cond := some a } 0
    | none => .err 3

/-! ### Launches: R391, R393, R396 -/

/-- R391: the launch that a template gives; none where it breaks a limit or leaves its window. -/
def templateOf (s : State) (p : Sorrel) (w : BitVec 2) (off : BitVec 19) (num : Nat) : Option Launch :=
  let x := qWin s p.queue w.toNat
  let a := x.1 + off.toNat
  let room (n : Nat) : Bool := x.2.2.2 && decide (off.toNat + n ≤ x.2.1) && !s.spanBad a n && !s.spanPoison a n
  if !room 64 then none
  else
    let q (o n : Nat) : Nat := s.physNat (a + o) n
    let nc := q 0x18 1
    if q 0 8 % 128 ≠ 0 ∨ 8 ≤ q 9 1 ∨ q 0xA 2 = 0 ∨ q 0xC 4 % 64 ≠ 0 ∨ q 0xC 4 < 4096 ∨ 64 < nc ∨ 1 < q 0x19 1 ∨ q 0x1A 6 ≠ 0 ∨ q 0x20 8 % 32 ≠ 0
        ∨ !isZero (s.physRead (a + 0x28) 24) ∨ !room (64 + 8 * nc) then none
    else
      let cst (i : Nat) : Quad := match p.csts.find? fun y => y.1 == i with
        | some y => y.2
        | none => if i < nc then BitVec.ofNat 64 (q (64 + 8 * i) 8) else 0
      some { num := num, ctx := q 8 1, cls := q 9 1, g := q 0xA 2, privSize := q 0xC 4, privBase := BitVec.ofNat 64 (q 0x10 8)
             consts := (List.range 64).map cst, comp := q 0x20 8, xdom := q 0x19 1 == 1, kdesc := q 0 8, kernel := none, st := 0 }
/-- R396: acceptance; the journal's DISP (R402). -/
def acceptNow (s : State) (l : Launch) : State × Nat :=
  match loadKernel s l.ctx l.kdesc with
  | some k => if placeable s k.shape l.g then ({ s with launches := s.launches ++ [{ l with kernel := some k, st := 1 }] }, 0) else (endLaunch s l 2 0 0, 3)
  | none => (endLaunch s l 2 0 0, 3)
/-- R366: a logging context has a launch that has not completed. -/
def logHolds (s : State) (ctx : Nat) : Bool :=
  (s.hostF (logOff ctx) 0 0 == 1 || ((s.ctx ctx).bound && (s.ctx ctx).logOn)) && s.launches.any fun y => y.ctx == ctx
/-- R366, R396: acceptance, which holds the next launch of a logging context; a held launch counts as launched (log entry 146). -/
def accept1 (s : State) (l : Launch) : State × Nat :=
  if logHolds s l.ctx then ({ s with launches := s.launches ++ [{ l with kernel := none, st := 0 }] }, 0) else acceptNow s l
/-- R366: held launches go to acceptance, in order, when their context has no other. -/
def acceptHeld (s : State) : State :=
  (s.launches.filter fun l => l.st == 0).foldl (fun s l =>
    if s.launches.any fun y => y.ctx == l.ctx && y.st != 0 then s
    else (acceptNow { s with launches := s.launches.filter fun y => y.num != l.num } l).1) s
/-- R393: the number after n. -/
def nextNum (n : Nat) : Nat := if n + 1 < 2 ^ 32 then n + 1 else 1
/-- R394: nodes that the table holds. -/
def nodeRoom : Nat := 256

/-! ### Nodes: R394, R395 -/

/-- R394: a dependence has failed: its launch ended with error, rejected or dependence failed. -/
def depFailed (s : State) (n : Word) : Bool := match s.dispOf n.toNat with | some d => d == 1 || d == 2 || d == 4 | none => false
def depMet (s : State) (n : Word) : Bool := (s.dispOf n.toNat).isSome
/-- R395: a node may resolve now. -/
def Node.ready (s : State) (y : Node) : Bool := y.deps.any (depFailed s) || y.deps.all (depMet s)
/-- R395: the condition word of a node; an address that no memory answers gives a free value (log entry 14). -/
def condWord (s : State) (a : Nat) : State × Nat :=
  if s.spanBad a 4 || s.spanPoison a 4 then let r := s.draw; (r.2, r.1.toNat % 2 ^ 32) else (s, s.physNat a 4)
/-- R394, R395, R402: a node resolves. -/
def resolve (s : State) (y : Node) : State :=
  let s := { s with nodes := s.nodes.filter fun z => z.launch.num != y.launch.num }
  let r : State × Nat :=
    if y.deps.any (depFailed s) then (endLaunch s y.launch 4 0 0, 4)
    else match y.cond with
      | none => accept1 s y.launch
      | some a => let c := condWord s a; if c.2 = 0 then (endLaunch c.1 y.launch 3 0 0, 2) else accept1 c.1 y.launch
  journal r.1 y.ring r.2 y.slot y.lap y.digest (BitVec.ofNat 32 y.launch.num)
/-- R395: every node whose dependences are met resolves, in the order of the table. -/
def resolveReady (s : State) : State :=
  s.nodes.foldl (fun s _ => match s.nodes.find? (Node.ready s) with | some y => resolve s y | none => s) s
/-- SORREL_EMIT: R391, R393, R394; a node that need not wait resolves here (R395). -/
def execSorrelEmit (w : BitVec 2) (off : BitVec 19) (s : State) : Host.Outcome State Fault Refusal :=
  sorrelStep s fun p =>
    let num := s.nextLaunch
    match templateOf s p w off num with
    | none => .err 5
    | some l =>
      let node := !p.deps.isEmpty || p.cond.isSome
      if node && decide (nodeRoom ≤ s.nodes.length) then .wait
      else
        let t : State := { s with nextLaunch := nextNum num }
        let y : Node := ⟨l, p.ring, p.slot, p.lap, packetDigest p, p.deps, p.cond⟩
        let r : State × Nat := if !node then accept1 t l else (if y.ready t then resolve t y else { t with nodes := t.nodes ++ [y] }, 1)
        .go r.1 { p with k := p.k.set 7 (BitVec.ofNat 64 num), csts := [], deps := [], cond := none, last := BitVec.ofNat 32 num, disp := r.2 } 0
/-- NODE_RESOLVE. -/
def execNodeResolve (node : Nat) (s : State) : Host.Outcome State Fault Refusal :=
  match s.nodes[node]? with
  | some y => if y.ready s then .next (resolve s y) else .refused .notEnabled
  | none => .refused .notEnabled

end Sys2Proof.Machine
end

