-- ==== Sys2Proof/Machine/Launch.lean ====
section
/-! DEFINITION. Bind records (R397, R398), dispatch (R399) and the completion of launches (R400). -/
namespace Sys2Proof.Machine

/-! ### Bind records: R397 -/

def State.launch? (s : State) (num : Nat) : Option Launch := s.launches.find? fun l => l.num == num
/-- R226: no crew of the same die group stands on another die. -/
def dieFits (s : State) (ctx pos core : Nat) (k : Kernel) : Bool :=
  let n := k.shape.qgroup * k.shape.dgroup
  !s.crews.any fun c => c.ctx == ctx && c.pos / n == pos / n && dieOf c.core != dieOf core
/-- R226, R397, R398: the launch may get a crew here: it was accepted, its context runs no other launch, the position is free, and
the resources fit. -/
def commitOk (s : State) (l : Launch) (k : Kernel) (core ctx pos : Nat) (b : Bases) : Bool :=
  l.ctx == ctx && decide (pos < crewTotal k l.g) && s.inService core && jobOk s ctx
    && !s.crews.any (fun c => c.ctx == ctx && (c.launch != l.num || c.pos == pos)) && fits s core k.shape b && dieFits s ctx pos core k
    && l.st == 1 && s.hostF 0xE00000 3 0 == 4 && (mapQuad (if (s.ctx ctx).bound then (s.ctx ctx).quadMap else []) (pos / k.shape.qgroup) (quadOf core)).isSome
/-- R353, R397, R398: a crew bound: the context takes up its registers with its first crew, and advertises READY. -/
def bindCrew (s : State) (l : Launch) (k : Kernel) (core slot cls ctx pos : Nat) (b : Bases) : Option State :=
  let fresh := !(s.ctx ctx).bound
  let s := bindCtx s ctx k l.g l.privBase l.privSize
  let id := s.uid
  let c := freshCrew id (id + 1) ctx pos l.num cls k l.privBase l.privSize l.consts
  let s := { s with uid := s.uid + 1 + c.warps.length }
  match putCrew s c core slot b with
  | none => none
  | some t =>
    let t := if ckEn t ctx then markUnits t ctx (crewUnits c) else t
    let x := t.ctx ctx
    some (if fresh && x.jobV then advertise t x.jobId true else t)
/-- R399: every crew of the launch is committed. -/
def allCommitted (s : State) (l : Launch) : Bool := match l.kernel with
  | some k => (s.crews.filter fun c => c.launch == l.num).length == crewTotal k l.g
  | none => false
/-- R399, R224: dispatch starts every crew of a launch in one cycle. What happened before the launch is visible to it (R258, R265): its
cores' L1s keep no stale word. -/
def startLaunch (s : State) (num : Nat) : State :=
  let s := (s.crews.filter fun c => decide (c.launch = num) && !c.started).foldl (fun s c => l1Acquire s c.core) s
  { s with crews := s.crews.map fun c => if c.launch = num ∧ !c.started then startCrew s.cycle c else c
           launches := s.launches.map fun l => if l.num = num then { l with st := 2 } else l
           startPend := s.startPend.filter (· != num) }
/-- R399: a launch that waits for its last crew starts with it. -/
def startReady (s : State) (num : Nat) : State :=
  match s.launch? num with
  | some l => if s.startPend.contains num && allCommitted s l && l.st == 1 then startLaunch s num else s
  | none => s
/-- R397: quad 1 written; ignored while the record is committed. -/
def bindWrite1 (s : State) (core slot : Nat) (x m : Quad) : State :=
  let a := bindAddr core slot
  if (s.devD a 0).getLsbD 63 then s
  else s.setDev (a + 8) (genericWrite (rwF [(63, 32), (31, 22), (21, 11), (10, 5)]) (s.devD (a + 8) 0) x m)
/-- R397: quad 0 written: V commits the record. A record that holds a bound crew keeps what it has. -/
def bindWrite0 (s : State) (core slot : Nat) (x m : Quad) : State :=
  let a := bindAddr core slot
  let old := s.devD a 0
  if old.getLsbD 63 then s
  else
    let q0 := genericWrite (rwF [(63, 63), (61, 59), (58, 51), (50, 28), (27, 21)]) old x m
    if !q0.getLsbD 63 then s.setDev a q0
    else
      let q1 := s.devD (a + 8) 0
      let n := q0.toNat
      let num := bitsOf q1.toNat 63 32
      let ctx := bitsOf n 58 51
      let pos := bitsOf n 50 28
      let b := basesOf q0 q1
      let refused := s.setDev a ((q0 &&& 0x3FFFFFFFFFFFFFFF) ||| 0x4000000000000000)
      match s.launch? num with
      | none => refused
      | some l => match l.kernel with
        | none => refused
        | some k =>
          if commitOk s l k core ctx pos b then
            match bindCrew s l k core slot (bitsOf n 61 59) ctx pos b with
            | some t => startReady t num
            | none => refused
          else refused
/-- BIND_COMMIT: quad 1, then quad 0 written. -/
def execBindCommit (core slot : Nat) (q0 q1 : Quad) (s : State) : Host.Outcome State Fault Refusal :=
  if Config.cores ≤ core ∨ 32 ≤ slot then .refused .notEnabled
  else .next (bindWrite0 (bindWrite1 s core slot q1 (BitVec.allOnes 64)) core slot q0 (BitVec.allOnes 64))
/-- R399: a write to `SCHED_START`. -/
def schedStart (s : State) (num : Nat) : State :=
  match s.launch? num with
  | some l => if l.st = 1 ∧ !s.startPend.contains num then startReady { s with startPend := s.startPend ++ [num] } num else s
  | none => s
/-- SCHED_START. -/
def execSchedStart (launch : Word) (s : State) : Host.Outcome State Fault Refusal := .next (schedStart s launch.toNat)

/-! ### Completion: R400 -/

/-- R400: every thread of the crew has exited, and everything it started has ended. -/
def crewDone (s : State) (c : Crew) : Bool :=
  Crew.runs s c && c.threads.all (·.exited) && c.log.isEmpty && c.warps.all (fun w => w.entries.isEmpty && w.trap.isNone) && c.transfers.isEmpty
    && c.copies.all (fun x => match x with | some x => x.st != .running | none => true)
    && c.liveReqs.isEmpty && !(s.rets.any fun r => r.crew == c.id) && !s.fabOut.any fun x => x.crew == c.id
/-- The crews of a launch, of a context for crews whose launch this device does not know. -/
def launchCrews (s : State) (ctx num : Nat) : List Crew := s.crews.filter fun c => c.ctx == ctx && c.launch == num
/-- R400: every crew of the package group is bound and done. -/
def groupDone (s : State) (ctx num : Nat) : Bool :=
  let cs := launchCrews s ctx num
  match (s.ctx ctx).kernel with
  | some k => cs.length == crewTotal k (s.ctx ctx).groups && cs.all (crewDone s)
  | none => false
/-- R397: the crews of a completed launch leave the device. -/
def leaveCrews (s : State) (ctx num : Nat) : State :=
  let s := freeCrews s ((launchCrews s ctx num).map (·.id)) false
  if (s.ctx ctx).bound then s else clearVaultPoison (s.modCtx ctx Ctx.quiet) (s.ctx ctx)
/-- LAUNCH_COMPLETE: R400. Number 0 stands for a restored context whose launch this device does not know. -/
def execLaunchComplete (launch : Word) (s : State) : Host.Outcome State Fault Refusal :=
  match s.launch? launch.toNat with
  | some l => if l.st = 2 ∧ groupDone s l.ctx l.num then .next (leaveCrews (endLaunch s l 0 0 0) l.ctx l.num) else .refused .notEnabled
  | none =>
    if launch ≠ 0 then .refused .notEnabled
    else match s.ctxs.find? fun x => x.bound && groupDone s x.num 0 with
      | some x => .next (leaveCrews s x.num 0)
      | none => .refused .notEnabled

end Sys2Proof.Machine
end

