-- ==== Sys2Proof/Machine/Platform.lean ====
section
/-! DEFINITION. Boot (R406), firmware banks (R407, R408), standby (R26), the package reset (R410), telemetry (R414), the environment of
islands, temperatures and lanes (R19, R415, R416). -/
namespace Sys2Proof.Machine

/-! ### Everything cleared: R26, R370, R410 -/

/-- R406: `PLAT_STAT.STAGE`. -/
def stage (s : State) : Nat := s.hostF 0xE00000 3 0
/-- R370: what firmware has on record of retirement and quarantine: the tables as they stand once it has loaded them. -/
def recorded (s : State) : Plat :=
  if stage s = 4 then
    { s.plat with recUnits := s.dev.filter fun x => decide (devAddr 0 0x900000 ≤ x.1) && decide (x.1 < devAddr 0 0x910000)
                  recPairs := s.ras.quarantine, recWays := s.ras.waysOut }
  else s.plat
/-- R410: KIND 12: everything as after reset but what lies outside the package (the host's memory, the CXL devices, temperatures)
and firmware's own banks and records. -/
def packageReset (s : State) (standby : Bool) : State :=
  let p := recorded s
  let t : State := { State.reset with
    agenda := s.agenda, drawn := s.drawn, uid := s.uid
    mem := s.mem.filter fun c => isHostMem c.1 || isCxl c.1
    plat := { Plat.clear with standby := standby, fw := p.fw, temps := p.temps, recUnits := p.recUnits, recPairs := p.recPairs, recWays := p.recWays } }
  if s.hostF 0xE00008 5 0 = 0 then t else t.setHostF 0xE00008 5 0 (s.hostF 0xE00008 5 0)
/-- STANDBY_ENTRY. -/
def execStandbyEntry (s : State) : Host.Outcome State Fault Refusal := .next (packageReset s true)

/-! ### Boot: R406 -/

/-- R370: firmware reloads retirement and quarantine. -/
def reload (s : State) : State :=
  let s := s.plat.recUnits.foldl (fun s x => s.setDev x.1 x.2) s
  let n := (s.plat.recUnits.filter fun x => x.2.getLsbD 0).length
  let s := if n = 0 then s else s.setHostF 0x910000 13 0 n
  { s with ras := { s.ras with quarantine := s.plat.recPairs, waysOut := s.plat.recWays } }
/-- BOOT: the stages from 0 on: `bad` are the sockets whose die is silent, whose link fails, or whose firmware does not verify from either
bank; without the host die's own firmware boot ends in stage 15. -/
def execBoot (bad : List Nat) (hostOk : Bool) (s : State) : Host.Outcome State Fault Refusal :=
  if stage s ≠ 0 then .refused .notEnabled
  else
    let f := (List.range 25).filter fun k => k != 0 && bad.contains k
    let s : State := { s with plat := { s.plat with standby := false } }
    if !hostOk then .next (s.setHostF 0xE00000 3 0 15)
    else
      let s := reload { s with plat := { s.plat with fenced := f } }
      .next ((s.setHostF 0xE00000 15 8 (f.headD 0xFF)).setHostF 0xE00000 3 0 4)

/-! ### Firmware: R407, R408 -/

/-- R407: the signature of an image verifies against the fused key. -/
def imageOk (image sig : List Byte) : Bool :=
  sig == padTo sigLen (Config.signature (sha256 image)) || Config.verifyForeign (sha256 image) sig
/-- FIRMWARE_IMAGE_UPDATE: an image that verifies goes to the inactive bank and is pending. -/
def execFirmwareImageUpdate (cls : Nat) (image sig : List Byte) (s : State) : Host.Outcome State Fault Refusal :=
  if 6 ≤ cls then .refused .notEnabled
  else if !imageOk image sig then .next s
  else
    let fw := s.plat.fw.modify cls fun x => { x with other := sha256 image }
    .next ({ s with plat := { s.plat with fw := fw } }.setHostF 0xE00008 (8 + cls) (8 + cls) 1)
/-- R408: the class stands at its switch point. -/
def switchPoint (s : State) (cls : Nat) : Bool :=
  match cls with
  | 1 => s.sorrel.isNone
  | 2 => (List.range 256).all fun n => ckPhase s n == 0
  | 3 => s.gang.phase == 0 || decide (4 ≤ s.gang.phase)
  | 4 => s.crews.all fun c => c.warps.all fun w => w.micro.isNone
  | _ => true
/-- R408, R414: the switch, with its telemetry record of schema `0x07`. -/
def switchBank (s : State) (cls : Nat) : State :=
  let fw := s.plat.fw.modify cls fun x => ⟨x.other, x.active⟩
  let act := s.hostF 0xE00008 cls cls
  let s := ({ s with plat := { s.plat with fw := fw } }.setHostF 0xE00008 (8 + cls) (8 + cls) 0).setHostF 0xE00008 cls cls (1 - act)
  let x := fw.getD cls ⟨[], []⟩
  let banks := if act = 1 then x.active ++ x.other else x.other ++ x.active
  telem s 7 (leBytes 1 cls ++ banks ++ leBytes 1 (1 - act))
/-- BANK_SWITCH. -/
def execBankSwitch (cls : Nat) (s : State) : Host.Outcome State Fault Refusal :=
  if 6 ≤ cls ∨ s.hostF 0xE00008 (8 + cls) (8 + cls) = 0 ∨ !switchPoint s cls then .refused .notEnabled else .next (switchBank s cls)

/-! ### Telemetry: R414 -/

/-- n free values. -/
def draws : Nat → State → State × List Byte
  | 0, s => (s, [])
  | n + 1, s => let r := s.draw; let t := draws n r.2; (t.1, leBytes 8 r.1.toNat ++ t.2)
/-- The junction temperature of a socket in 0.125 °C. -/
def State.temp (s : State) (socket : Nat) : Nat := ((s.plat.temps.find? fun x => x.1 == socket).map (·.2)).getD 0
/-- R414, R416: voltage, frequency and power of an island: the point that firmware set, where it set one and no throttle has lowered the
frequency; else, and for the power, free values. -/
def islandRecord (s : State) (n : Nat) : State × List Byte :=
  let r := s.draw
  let p := leBytes 4 (r.1.toNat / 2 ^ 32)
  match s.plat.points.find? fun x => x.1 == n with
  | some x => (r.2, leBytes 2 x.2.1 ++ leBytes 2 (if s.plat.freqDown.any fun y => y.1 == n then r.1.toNat % 2 ^ 16 else x.2.2) ++ p)
  | none => (r.2, leBytes 4 (r.1.toNat % 2 ^ 32) ++ p)
/-- TELEMETRY_PERIODIC: the schemas that have a period. -/
def execTelemetryPeriodic (schema : Nat) (s : State) : Host.Outcome State Fault Refusal :=
  match schema with
  | 1 => .next (telem s 1 ((List.range 25).flatMap fun k => leBytes 2 (s.temp k)))
  | 2 =>
    let r := (List.range 64).foldl (fun (r : State × List Byte) n => let x := islandRecord r.1 n; (x.1, r.2 ++ x.2)) (s, [])
    .next (telem r.1 2 r.2)
  | 4 => .next (telem s 4 (s.ports.flatMap fun p => leBytes 1 (if p.up then 1 else 0) ++ leBytes 1 p.lanes
      ++ leBytes 1 (if p.spareUsed then 1 else 0) ++ leBytes 4 p.corrected ++ leBytes 4 p.dropped))
  | 5 => let xs := (s.ctxs.filter (·.bound)).map (·.num)
         let r := xs.foldl (fun (r : State × List Byte) n => let d := draws 3 r.1; (d.1, r.2 ++ leBytes 2 n ++ d.2)) (s, [])
         .next (telem r.1 5 r.2)
  | _ => .refused .notEnabled

/-! ### Islands and temperatures: R26, R416 -/

/-- R26: the socket that an island lies in. -/
def islandSocket (n : Nat) : Nat :=
  if n < 40 then 3 + n / 4 else if n < 52 then 13 + (n - 40) else if n < 56 then 1 else if n < 60 then 2 else 0
/-- R14: the island holds resources of a resident context: its crews and vaults; the memory that serves it; the fabric of its job; and the
host die's islands serve every context (log entry 116). -/
def islandHolds (s : State) (n : Nat) : Bool :=
  if n < 40 then s.crews.any (fun c => c.core / 16 == n || c.warps.any fun w => c.warpCore w / 16 == n)
    || s.ctxs.any fun x => x.bound && x.quadMap.any fun q => q / 4 == n
  else if 52 ≤ n ∧ n < 60 then s.ctxs.any fun x => x.bound && x.jobV
  else s.ctxs.any fun x => x.bound
/-- R14, R26, R416: an island powered up or down; ports without power are down. -/
def setIsland (s : State) (n : Nat) (on : Bool) : Option State :=
  if on then some { s with plat := { s.plat with islandsOff := s.plat.islandsOff.filter (· != n) } }
  else if 64 ≤ n ∨ s.islandOff n ∨ islandHolds s n then none
  else some { s with plat := { s.plat with islandsOff := n :: s.plat.islandsOff }
                     ports := s.ports.map fun p => if portIsland p.num = n then { p with up := false } else p }
/-- R416: firmware sets an island's voltage and frequency point, which ends a throttle. -/
def setPoint (s : State) (n volt freq : Nat) : State :=
  { s with plat := { s.plat with points := (n, volt, freq) :: s.plat.points.filter (fun x => x.1 != n)
                                 freqDown := s.plat.freqDown.filter fun x => x.1 != n } }
/-- R407: a measurement block: the digest of a class's active image, or the fused keys. -/
def measurement (s : State) (block : Nat) : List Byte :=
  if block < 6 then (s.plat.fw.getD block ⟨[], []⟩).active else (List.range 4).flatMap fun i => leBytes 8 (Config.fusedKey i).toNat
/-- JUNCTION_THROTTLE: above 105 °C the island drops one frequency step. -/
def execJunctionThrottle (island : Nat) (s : State) : Host.Outcome State Fault Refusal :=
  if 64 ≤ island ∨ s.temp (islandSocket island) < 840 then .refused .notEnabled
  else
    let k := ((s.plat.freqDown.find? fun x => x.1 == island).map (·.2)).getD 0
    .next { s with plat := { s.plat with freqDown := (island, k + 1) :: s.plat.freqDown.filter fun x => x.1 != island } }
/-- JUNCTION_TRIP: at 115 °C, a reset of KIND 12. -/
def execJunctionTrip (socket : Nat) (s : State) : Host.Outcome State Fault Refusal :=
  if 25 ≤ socket ∨ s.temp socket < 920 then .refused .notEnabled else .next (packageReset s false)

end Sys2Proof.Machine
end

