-- ==== Sys2Proof/Machine/Reset.lean ====
section
/-! DEFINITION. The reset hierarchy (R409 to R411). Each reset is one step, so BUSY is never seen. -/
namespace Sys2Proof.Machine

/-! ### KIND 1 and 2: contexts and cores -/

/-- R410: KIND 1: the context is terminated; its log and its cut in progress are cleared. -/
def resetContext (s : State) (n : Nat) : State :=
  let r : Word × Quad := match (s.ctx n).primary with | some p => (p.1.tcause, p.1.tpc) | none => (0, 0)
  let s := if ckPhase s n = 1 then setPhase s n 0 else s
  logBoundary (terminate s n r.1 r.2) n
/-- RESET_CONTEXT. -/
def execResetContext (ctx : Nat) (s : State) : Host.Outcome State Fault Refusal :=
  if 256 ≤ ctx then .refused .notEnabled else .next (resetContext s ctx)
/-- A crew with registers on the core: bound there, or with a warp that is away there (R241). -/
def Crew.usesCore (c : Crew) (core : Nat) : Bool := c.core == core || c.warps.any fun w => c.warpCore w == core
/-- R308, R410: a context leaves a core: its one crew there is stopped and saved, or all of it when it has more there; where that
fails it is terminated. -/
def evict (core : Nat) (s : State) (n : Nat) : State :=
  let s := match (s.crewsOf n).filter fun c => c.usesCore core with
    | [] => s
    | [c] => stopDone (stopBegin s n ⟨1, 0, c.pos⟩) n ⟨1, 0, c.pos⟩
    | _ => stopDone (stopBegin s n ⟨0, 0, 0⟩) n ⟨0, 0, 0⟩
  if (s.crewsOf n).any fun c => c.usesCore core then resetContext s n else s
/-- R410: KIND 2: the crews of a core are evicted, and its caches are cleared. -/
def resetCore (s : State) (core : Nat) : State :=
  let ns := ((s.crews.filter fun c => c.usesCore core).map (·.ctx)).eraseDups
  let s := ns.foldl (evict core) s
  { s with l1 := s.l1.filter (fun l => l.core != core), icache := s.icache.filter (fun x => x.1 != core)
           tlb := s.tlb.filter fun t => t.core != some core }
/-- RESET_CORE. -/
def execResetCore (core : Nat) (s : State) : Host.Outcome State Fault Refusal :=
  if Config.cores ≤ core then .refused .notEnabled else .next (resetCore s core)

/-! ### KIND 3 and 4: the engines of a quad -/

/-- R200, R410: KIND 3: the requests of a quad's matrix engine end faulted. -/
def resetMatrix (s : State) (quad : Nat) : State :=
  (s.crews.filter fun c => quadOf c.core == quad).foldl (fun s c => (List.range c.mats.length).foldl (fun s i => matFault s c.id i) s) s
/-- RESET_MATRIX_ENGINE. -/
def execResetMatrixEngine (quad : Nat) (s : State) : Host.Outcome State Fault Refusal :=
  if Config.quads ≤ quad then .refused .notEnabled else .next (resetMatrix s quad)
/-- R181, R410: a running copy ends faulted; the spec states neither its cause nor its address, so both are free values. -/
def faultRunning (s : State) (crew i : Nat) : State :=
  match ((s.crew? crew).bind fun c => c.copies.getD i none) with
  | some x =>
    if x.st = .running then
      let a := s.draw
      let b := a.2.draw
      copyFault b.2 crew i (a.1.toNat % 256) b.1.toNat
    else s
  | none => s
/-- R410: KIND 4. -/
def resetCopy (s : State) (quad : Nat) : State :=
  (s.crews.filter fun c => quadOf c.core == quad).foldl (fun s c => (List.range c.copies.length).foldl (fun s i => faultRunning s c.id i) s) s
/-- RESET_COPY_ENGINE. -/
def execResetCopyEngine (quad : Nat) (s : State) : Host.Outcome State Fault Refusal :=
  if Config.quads ≤ quad then .refused .notEnabled else .next (resetCopy s quad)

/-! ### KIND 5 and 6: compute dies and memory stacks -/

/-- The registers of a die at their reset values. -/
def clearRegs (s : State) (die : Nat) : State :=
  { s with dev := s.dev.filter fun x => !(decide (devAddr die 0 ≤ x.1) && decide (x.1 < devAddr (die + 1) 0)) }
/-- A crew with resources on a compute die. -/
def Crew.usesDie (c : Crew) (d : Nat) : Bool := dieOf c.core == d || c.warps.any fun w => dieOf (c.warpCore w) == d
/-- R411: phases 1 and 2: the translation caches, the instruction caches, the cores, the vaults and the last-level slices of a compute
die; dirty lines are dropped. -/
def clearDie (s : State) (d : Nat) : State :=
  let home (k : Nat) : Bool := homeSlice k / 16 == d
  let lost := s.ras.dirty.filter fun x => home x.line
  let mem := lost.foldl (fun m x => Mem.store m (s.place x.line) x.back) s.mem
  { s with
    tlb := s.tlb.filter (fun t => t.die != d)
    icache := s.icache.filter (fun x => dieOf x.1 != d)
    qicache := s.qicache.filter (fun x => x.1 / 16 != d)
    merge := s.merge.filter (fun m => m.die != d)
    l1 := s.l1.filter (fun l => dieOf l.core != d)
    mem := mem.erase (vaultKey (16 * d) 0) (16 * 2 ^ 23)
    ras := { s.ras with dirty := s.ras.dirty.filter (fun x => !home x.line), vaultPoison := s.ras.vaultPoison.filter fun k => !home k }
    plat := { s.plat with fenced := s.plat.fenced.filter (· != 3 + d) } }
/-- R410, R411: KIND 5, by compute die. -/
def resetDie (s : State) (d : Nat) : State :=
  let ns := ((s.crews.filter fun c => c.usesDie d).map (·.ctx)).eraseDups
  clearRegs (clearRegs (clearDie (ns.foldl resetContext s) d) (3 + d)) (35 + d)
/-- RESET_COMPUTE_DIE: by die address; the deck above is reset with it. -/
def execResetComputeDie (die : Nat) (s : State) : Host.Outcome State Fault Refusal :=
  if die / 64 ≠ 0 ∨ die % 32 < 3 ∨ 12 < die % 32 then .refused .notEnabled else .next (resetDie s (die % 32 - 3))
/-- R410: KIND 6: the controller state and the slot tables of a stack. -/
def resetStack (s : State) (k : Nat) : State :=
  let s := clearRegs s (13 + k)
  { s with chans := s.chans.filter (fun c => c.stack != k), ras := { s.ras with scrubs := s.ras.scrubs.filter fun x => x.stack != k } }
/-- RESET_MEMORY_STACK. -/
def execResetMemoryStack (stack : Nat) (s : State) : Host.Outcome State Fault Refusal :=
  if Config.stackCount ≤ stack then .refused .notEnabled else .next (resetStack s stack)

/-! ### KIND 7 and 8: fabric ports and dies -/

/-- R341, R410: KIND 7: the port goes down; the packets in it and those held for it are dropped and counted. -/
def resetPort (s : State) (n : Nat) : State :=
  let held := s.holdq.filter fun p => s.route p.dst == some n
  let rest := s.holdq.filter fun p => !(s.route p.dst == some n)
  { s with holdq := rest }.modPort n fun p =>
    { p with up := false, egress := [], xbar := [], ingress := []
             dropped := p.dropped + p.egress.length + p.xbar.length + p.ingress.length + held.length }
/-- RESET_FABRIC_PORT. -/
def execResetFabricPort (port : Nat) (s : State) : Host.Outcome State Fault Refusal :=
  if 36 ≤ port then .refused .notEnabled else .next (resetPort s port)
/-- LINK_ERROR_LIMIT. -/
def execLinkErrorLimit (port : Nat) (s : State) : Host.Outcome State Fault Refusal :=
  if 36 ≤ port then .refused .notEnabled else .next (resetPort s port)
/-- R410: KIND 8: all 18 ports of a fabric die, by die address. -/
def resetFabric (s : State) (die : Nat) : State := (List.range 18).foldl (fun s i => resetPort s (18 * (die - 1) + i)) s
/-- RESET_FABRIC_DIE. -/
def execResetFabricDie (die : Nat) (s : State) : Host.Outcome State Fault Refusal :=
  if die = 1 ∨ die = 2 then .next (resetFabric s die) else .refused .notEnabled

/-! ### KIND 9 to 12 -/

/-- R410: a held node resolves with dependence failed. -/
def failNode (s : State) (y : Node) : State :=
  journal (endLaunch { s with nodes := s.nodes.filter fun z => z.launch.num != y.launch.num } y.launch 4 0 0) y.ring 4 y.slot y.lap y.digest
    (BitVec.ofNat 32 y.launch.num)
/-- R410: KIND 9: Sorrel, the node table and EN of every queue. -/
def resetCommand (s : State) : State :=
  let s := s.nodes.foldl failNode { s with sorrel := none, due := [], queueProg := [], served := 63 }
  (List.range 64).foldl (fun s q => if qEn s q then s.setHostF (queueOff q + 0x10) 8 8 0 else s) s
/-- RESET_COMMAND_PATH. -/
def execResetCommandPath (s : State) : Host.Outcome State Fault Refusal := .next (resetCommand s)
/-- RESET_MANAGEMENT_COMPLEX: KIND 10: the cores' own state is no state of this model; every bound context stays. -/
def execResetManagementComplex (s : State) : Host.Outcome State Fault Refusal := .next s
/-- WATCHDOG_EXPIRY. -/
def execWatchdogExpiry (s : State) : Host.Outcome State Fault Refusal := .next s
/-- R277, R410: KIND 11: every page request fails as with Response Failure; PCIe and CXL state is cleared. An ATS request that is
awaited is asked again. -/
def resetHost (s : State) : State :=
  let t := s.merge.foldl (fun s m => m.waiters.foldl (failWaiter 5) (freeMerge s m)) { s with priStopped := true }
  let t := retryTable { t with prgFree := List.range 512, inval := t.inval.filter (fun v => v.ats.isNone)
                               tlb := t.tlb.filter (fun x => x.host.isNone)
                               hostOut := t.hostOut.filter fun m => match m with | .atsRequest _ _ => true | _ => false
                               plat := { t.plat with cxl := [] } }
  if s.hostF 0xE00018 5 0 = 0 then t else t.setHost 0xE00018 0
/-- RESET_HOST_DIE_FUNCTIONS. -/
def execResetHostDieFunctions (s : State) : Host.Outcome State Fault Refusal := .next (resetHost s)
/-- HOST_FLR. -/
def execHostFlr (s : State) : Host.Outcome State Fault Refusal := .next (resetHost s)
/-- RESET_PACKAGE. -/
def execResetPackage (s : State) : Host.Outcome State Fault Refusal := .next (packageReset s false)

/-! ### `PLAT_RST`: R409 -/

/-- R409: GO with KIND and TARGET as they stand; other kinds, and targets that do not exist, are ignored. -/
def resetGo (s : State) : State :=
  let t := s.hostF 0xE00010 31 8
  match s.hostF 0xE00010 39 32 with
  | 1 => if t < 256 then resetContext s t else s
  | 2 => if t < Config.cores then resetCore s t else s
  | 3 => if t < Config.quads then resetMatrix s t else s
  | 4 => if t < Config.quads then resetCopy s t else s
  | 5 => if t / 64 = 0 ∧ 3 ≤ t % 32 ∧ t % 32 ≤ 12 then resetDie s (t % 32 - 3) else s
  | 6 => if t < Config.stackCount then resetStack s t else s
  | 7 => if t < 36 then resetPort s t else s
  | 8 => if t = 1 ∨ t = 2 then resetFabric s t else s
  | 9 => resetCommand s
  | 11 => resetHost s
  | 12 => packageReset s false
  | _ => s

end Sys2Proof.Machine
end

