-- ==== Sys2Proof/Machine/Device.lean ====
section
/-! DEFINITION. Writes to device registers (R7) with what each register does besides holding its fields (R268 to R412), the paths of R20,
and `ldd` and `std` (R156). -/
namespace Sys2Proof.Machine

/-! ### Registers: what a write does -/

/-- A write by the field map alone. A W1S bit that starts a command is kept with the command (R7, `State.commandBits`). -/
def plainWrite (s : State) (a : Nat) (x m : Quad) : State :=
  match regFields a with
  | none => s
  | some fs =>
    let old := s.devD a (resetOf fs)
    let v := genericWrite (fs.filter fun f => f.acc != .w1s) old x m
    if v = old then s else s.setDev a v
/-- Bit b is written 1. -/
def writes1 (x m : Quad) (b : Nat) : Bool := (x &&& m).getLsbD b
/-- A command applied where its bit is written 1. -/
def onBit (x m : Quad) (b : Nat) (s : State) (go : State → State) : State := if writes1 x m b then go s else s
/-- R284: a slot's registers; frames are taken while it is not at work. -/
def migWrite (s : State) (slot o a : Nat) (x m : Quad) : State :=
  if o < 0x10 then (if migState s slot = 1 ∨ migState s slot = 2 then s else plainWrite s a x m)
  else onBit x m 0 (onBit x m 1 s fun s => migEnd s slot) fun s => migGo s slot
/-- R303: `CTX_STOP`, `CTX_DBG` and `CTX_DUMP`. -/
def ctxWrite (s : State) (n o a : Nat) (x m : Quad) : State :=
  let s := plainWrite s a x m
  match o with
  | 0x00 => onBit x m 0 s fun s => stopGo s n
  | 0x18 => onBit x m 3 (onBit x m 2 (onBit x m 8 s fun s => clearPending s n) fun s => halt s n) fun s => debugGo s n
  | 0x20 => onBit x m 0 s fun s => dumpGo s n
  | _ => s
/-- R320: `CKPT_CTL`: EN first, then FULL and CUT. -/
def ckptWrite (s : State) (n o a : Nat) (x m : Quad) : State :=
  if o ≠ 0 then plainWrite s a x m
  else
    let s := plainWrite s a x (m &&& ~~~(1 : Quad))
    let s := if !m.getLsbD 0 then s else if x.getLsbD 0 then ckptEn s n else s.setHostF (ckptOff n) 0 0 0
    onBit x m 3 (onBit x m 4 s fun s => s.setHostF (ckptOff n) 4 4 1) fun s => trigger s n
/-- R336: GO of `CKPT_RSTCTL`. -/
def restoreGo (s : State) : State :=
  if s.hostF 0x700050 63 63 = 1 then s
  else match execRestore (BitVec.ofNat 8 (s.hostF 0x700050 15 8)) s with
    | .next t => t
    | _ => s
/-- R369: a retirement entry written by firmware; `RETCNT` counts the valid ones. -/
def retireWrite (s : State) (a : Nat) (x m : Quad) : State :=
  let s := plainWrite s a x m
  let n := (s.dev.filter fun y => decide (devAddr 0 0x900000 ≤ y.1) && decide (y.1 < devAddr 0 0x910000) && y.2.getLsbD 0).length
  if s.hostF 0x910000 13 0 = n then s else s.setHostF 0x910000 13 0 n
/-- R375: `RAS_STKFENCE`; the stack stands while a fence is in progress. -/
def stkWrite (s : State) (a : Nat) (x m : Quad) : State :=
  let s := if fenceState s = 1 ∨ fenceState s = 2 then s else plainWrite s a x m
  onBit x m 1 (onBit x m 0 s fenceGo) fenceEnd
/-- R378, R384: the registers of a queue. -/
def queueWrite (s : State) (q o a : Nat) (x m : Quad) : State :=
  match o with
  | 0x10 => qCtlWrite s q x m
  | 0x18 => doorbell s q ((s.host (queueOff q + 0x18) &&& ~~~m) ||| (x &&& m))
  | 0x30 => plainWrite s a x m
  | _ => if qEn s q then s else plainWrite s a x m
/-- A block of `count` records of `size` bytes: the record and the offset in it. -/
def blockOf (off base size count : Nat) : Option (Nat × Nat) :=
  if base ≤ off ∧ off < base + size * count then some ((off - base) / size, (off - base) % size) else none
/-- A write to a register of the host die. -/
def hostRegWrite (s : State) (off : Nat) (x m : Quad) : State :=
  let a := devAddr 0 off
  match blockOf off 0x400000 0x20 16, blockOf off 0x500000 0x100 256, blockOf off 0x600000 0x100 256, blockOf off 0xA00000 0x100 256,
      blockOf off 0xC00000 0x100 64 with
  | some (k, o), _, _, _, _ => migWrite s k o a x m
  | _, some (n, o), _, _, _ => ctxWrite s n o a x m
  | _, _, some (n, o), _, _ => ckptWrite s n o a x m
  | _, _, _, some (n, o), _ => let s := plainWrite s a x m; if o = 0 then onBit x m 2 s fun s => roll s n else s
  | _, _, _, _, some (q, o) => queueWrite s q o a x m
  | _, _, _, _, _ =>
    if off = 0x300008 then onBit x m 0 (plainWrite s a x m) invGo
    else if off = 0x700050 then onBit x m 0 (plainWrite s a x m) restoreGo
    else if off = 0x800000 then onBit x m 1 (onBit x m 0 (plainWrite s a x m) gangGo) gangIn
    else if off = 0x800030 then fabDomainWrite s x m
    else if 0x900000 ≤ off ∧ off < 0x910000 then retireWrite s a x m
    else if off = 0x910018 then stkWrite s a x m
    else if off = 0xD30000 then (if m.getLsbD 0 then schedStart s (x.toNat % 2 ^ 32) else s)
    else if off = 0xE00010 then onBit x m 0 (plainWrite s a x m) resetGo
    else if 0xE30000 ≤ off ∧ off < 0xE30100 then (if s.ctxs.any (·.bound) then s else plainWrite s a x m)
    else plainWrite s a x m
/-- A write of the bits `m` of the register quad at an address: a reserved die address is noted (R12), an unlisted offset discards. -/
def regWrite (s : State) (a : Nat) (x m : Quad) : State :=
  let die := (a - Config.devBase) / 2 ^ 32
  let off := (a - Config.devBase) % 2 ^ 32
  if dieReserved a then noteUnreach s a
  else if (regFields a).isNone then s
  else if die = 0 then hostRegWrite s off x m
  else if die ≤ 12 then
    if 0x300000 ≤ off then
      let core := 64 * (die - 3) + (off - 0x300000) / 0x200
      let slot := (off - 0x300000) % 0x200 / 0x10
      if off % 0x10 = 0 then bindWrite0 s core slot x m else bindWrite1 s core slot x m
    else plainWrite s a x m
  else
    let s := plainWrite s a x m
    match blockOf off 0x100000 0x100 32 with
    | some (ch, 0) => onBit x m 8 s fun s => mcCommit s (die - 13) ch
    | _ => s
/-- A write of n bytes, 4 or 8, at their own alignment. -/
def devStore (s : State) (a n x : Nat) : State :=
  let sh := 8 * (a % 8)
  regWrite s (a / 8 * 8) (BitVec.ofNat 64 (x % 2 ^ (8 * n) * 2 ^ sh)) (BitVec.ofNat 64 ((2 ^ (8 * n) - 1) * 2 ^ sh))
/-- R14, R376: the die of a register address is fenced or none of its islands has power. -/
def State.dieFenced (s : State) (a : Nat) : Bool :=
  let k := (a - Config.devBase) / 2 ^ 32 % 32
  s.socketFenced k || (decide (3 ≤ k) && decide (k ≤ 12) && (List.range 4).all fun i => s.islandOff (4 * (k - 3) + i))
    || (decide (13 ≤ k) && decide (k ≤ 24) && s.islandOff (40 + (k - 13)))
    || (decide (k ≤ 2) && (List.range 4).all fun i => s.islandOff (4 * ([15, 13, 14].getD k 0) + i))

/-! ### The paths of R20 -/

/-- REGISTER_WRITE: the management cores write 4 or 8 bytes at a physical address; an access to a fenced die goes nowhere. -/
def execRegisterWrite (addr : Nat) (wide : Bool) (x : Quad) (s : State) : Host.Outcome State Fault Refusal :=
  let n := if wide then 8 else 4
  if addr < Config.devBase ∨ Config.paEnd ≤ addr ∨ addr % n ≠ 0 then .refused .notEnabled
  else .next (if s.dieFenced addr && !dieReserved addr then s else devStore s addr n x.toNat)
/-- R20, R406: the host writes through BAR0 or BAR2: 4 or 8 bytes, naturally aligned; anything else has no effect. Without the host
die's firmware only `PLAT_STAT` is there. -/
def barStore (s : State) (bar off : Nat) (bs : List Byte) : State :=
  let n := bs.length
  let die := if bar = 2 then s.hostF 0xE00018 5 0 else 0
  let a := devAddr die off
  if (bar ≠ 0 ∧ bar ≠ 2) ∨ 2 ^ 32 ≤ off ∨ (n ≠ 4 ∧ n ≠ 8) ∨ off % n ≠ 0 then s
  else if stage s = 15 ∧ (die ≠ 0 ∨ off / 8 * 8 ≠ 0xE00000) then s
  else if s.dieFenced a && !dieReserved a then s
  else devStore s a n (leNat bs)

/-- R376: what a read of a fenced die returns is stated nowhere: a free value (log entry 14). -/
def fencedLoad (s : State) (n : Nat) : State × Nat := let r := s.draw; (r.2, r.1.toNat % 2 ^ (8 * n))
/-- R20: the management cores read 4 or 8 bytes at a physical address. -/
def coreLoad (s : State) (addr n : Nat) : State × Nat :=
  if s.dieFenced addr && !dieReserved addr then fencedLoad s n else devLoad s addr n
/-- R20, R406: the host reads through BAR0 or BAR2; a read of another shape returns all ones. Without the host die's firmware the port
exposes only `PLAT_STAT`, and another read returns a free value. -/
def barLoad (s : State) (bar off n : Nat) : State × Nat :=
  let die := if bar = 2 then s.hostF 0xE00018 5 0 else 0
  let a := devAddr die off
  if (n ≠ 4 ∧ n ≠ 8) ∨ off % n ≠ 0 then (s, 2 ^ (8 * n) - 1)
  else if stage s = 15 ∧ (die ≠ 0 ∨ off / 8 * 8 ≠ 0xE00000) then fencedLoad s n
  else coreLoad s a n
/-- R12, R376: a sideband read: a reserved or fenced die address returns zeros and is noted; no rule says what a die that answers
returns (log entry 144). -/
def sidebandLoad (s : State) (die : Nat) : State × Nat :=
  let a := devAddr die 0
  if dieReserved a || s.dieFenced a then (noteUnreach s a, 0) else let r := s.draw; (r.2, r.1.toNat)
def tellOut (r : State × Nat) (m : Nat → HostMsg) : State := { r.1 with hostOut := r.1.hostOut ++ [m r.2] }

/-! ### `ldd` and `std`: R156 -/

/-- One lane of a device access: performed, or deferred where the target is fenced (R376). -/
def devLane (e : Env) (o : MemOp) (id : Nat) (r : State × List LogLane) (l : Nat × Nat × Nat) : State × List LogLane :=
  let ops := captured e o (e.th l.2.1)
  if !dieReserved l.2.2 && r.1.dieFenced l.2.2 then
    (emptyDest r.1 e.c.id l.2.1 o.t e.f.d o.dcount, r.2 ++ [⟨l.1, l.2.1, BitVec.ofNat 64 l.2.2, ops.map (BitVec.ofNat 64), 7, 0, .dead⟩])
  else if o.kind = .write then (devStore r.1 l.2.2 o.bytes (ops.headD 0), r.2)
  else
    let x := devLoad r.1 l.2.2 o.bytes
    (sendBack x.1 e.c.id l.2.1 o.t e.f.d o.dcount [x.2]
      (some ⟨e.w.wid, l.1, id, e.instr, e.pc, BitVec.ofNat 64 l.2.2, ops.map (BitVec.ofNat 64)⟩), r.2)
/-- A device load or store. -/
def devBody (o : MemOp) (m : MemExt) (e : Env) (s : State) : Res :=
  if e.lanes.isEmpty then .go s
  else
    let ls := e.addrs m
    match checkAddrs e.c (s.ctx e.c.ctx) .device o.bytes ls with
    | .trap t => .trap s t
    | .wait => .wait
    | .pass =>
      match orderCheck s e .device (o.kind != .read) o.bytes ls with
      | .trap t => .trap s t
      | .wait => .wait
      | .pass =>
        let s := clearFences s e
        let id := s.uid
        let r := ls.foldl (devLane e o id) ({ s with uid := s.uid + 1 }, [])
        .go (addLog r.1 e id r.2)
/-- `ldd`. -/
def execLdd (t : Ty) (m : MemExt) (f : Fields) (s : State) : Host.Outcome State Fault Refusal :=
  issue (.ldd t m f) s (devBody ⟨.device, .read, t, 1, m.ord, .add⟩ m)
/-- `std`. -/
def execStd (t : Ty) (m : MemExt) (f : Fields) (s : State) : Host.Outcome State Fault Refusal :=
  issue (.std t m f) s (devBody ⟨.device, .write, t, 1, m.ord, .add⟩ m)

end Sys2Proof.Machine
end

