-- ==== Sys2Proof/Machine/Fetch.lean ====
section
/-! DEFINITION. Fetching and decoding the instruction that a warp issues: R52, R53, R238, R250, R280. -/
namespace Sys2Proof.Machine

/-- What a fetch gives: an instruction to run with the cursor on its warp, or a step that ends without one. -/
inductive Fetched
  | run (i : Instr) (s : State)
  | over (s : State)
  deriving DecidableEq, Repr
/-- Where a warp stands: in its handler, or at its current entry (R212, R238); with the entry's lanes. -/
def Warp.place (w : Warp) : Option (Nat × BitVec 56 × Mask) :=
  match w.handler with
  | some h => (w.entries.find? fun e => e.eid == h.eid).map fun e => (h.eid, h.pc, e.mask)
  | none => (currentEntry w.entries).map fun e => (e.eid, e.pc, e.mask)
/-- R250: the 16 bytes from an address of the code segment on. -/
def codeBits (k : Kernel) (pc : BitVec 56) : BitVec 128 := BitVec.ofNat 128 (k.code.nat (pc.toNat - k.codeVA) 16)
/-- R15: a block enters a core's instruction cache, which keeps 512. -/
def icachePut (core ctx block : Nat) (l : List (Nat × Nat × Nat)) : List (Nat × Nat × Nat) :=
  let mine := l.filter fun x => x.1 == core
  if mine.length < 512 then (core, ctx, block) :: l
  else (core, ctx, block) :: (mine.take 511 ++ l.filter fun x => x.1 != core)
/-- R15: a block of memory enters the 64 KiB instruction cache of a quad, which keeps 2,048. -/
def qicachePut (quad block : Nat) (l : List (Nat × Nat)) : List (Nat × Nat) :=
  let rest := l.filter fun x => x != (quad, block)
  let mine := rest.filter fun x => x.1 == quad
  if mine.length < 2048 then (quad, block) :: rest
  else (quad, block) :: (mine.take 2047 ++ rest.filter fun x => x.1 != quad)
/-- The block that an address lies in can be read without a translation. -/
def blockHeld (s : State) (c : Crew) (core pc : Nat) : Bool := s.icache.contains (core, c.ctx, pc / 32) && c.kernel.pages.contains (pc / 32768)
/-- R280: the block at an address fetched; a translation that waits, or a cause. -/
def fetchBlock (s : State) (c : Crew) (w : Warp) (pc : Nat) : State × Tried :=
  let core := c.warpCore w
  if pc < c.kernel.codeVA ∨ c.kernel.codeVA + c.kernel.codeLen ≤ pc then (s, .fault 8)
  else if blockHeld s c core pc then (s, .ok 0 0)
  else
    let r := tryAccess s c.id w.wid core c.ctx pc .fetch
    match r.2 with
    | .ok k p =>
      let t := endStall r.1 c.id w.wid .fetch
      let t := { t with icache := icachePut core c.ctx (pc / 32) t.icache, qicache := qicachePut (quadOf core) (k / 32) t.qicache }
      (t.takeCode c.ctx c.kernel p, .ok k p)
    | x => (r.1, x)
/-- R297: the header of the word at an address, no further than its block. -/
def headerOf (pc : BitVec 56) (x : BitVec 128) : Quad :=
  let n := Nat.min 8 (32 - pc.toNat % 32)
  BitVec.ofNat 64 (x.toNat % 2 ^ (8 * n))
/-- R52, R53, R280: a warp's next instruction. A pending trap is delivered first (R300); a deprecated instruction in progress (R93) or
an access that waits (R116) keeps the warp from issuing. -/
def fetch (s : State) (c : Crew) (w : Warp) : Option Fetched :=
  if w.trap.isSome then some (.over (deliverPending { s with waited := false } c.id w.wid))
  else if w.handler.isNone && (w.micro.isSome || (match w.stall with | some x => x.waiting | none => false)) then some (.over (waitState s))
  else
    match w.place with
    | none => none
    | some (eid, pc, mask) =>
      let r := fetchBlock s c w pc.toNat
      match r.2 with
      | .wait => some (.over (waitState r.1))
      | .fault x => some (.over (takeTrap { setStall r.1 c.id w.wid none with waited := false } c.id w.wid eid pc 0
          { cls := 8, cause := x, tval := pc.setWidth 64, lanes := mask }))
      | .ok _ _ =>
        match r.1.crew? c.id with
        | none => none
        | some d =>
          let x := codeBits d.kernel pc
          let t := { r.1 with cur := some ⟨c.id, w.wid, eid, pc, x⟩ }
          match decode d.kernel.shape (pc.toNat % 32) x with
          | .ok i => some (.run i t)
          | .error e => some (.run (.illegalInstruction e.code (headerOf pc x)) t)

end Sys2Proof.Machine
end

