-- ==== Sys2Proof/Machine/Moves.lean ====
section
/-! DEFINITION. What may move besides a warp (log entry 4): the environment's moves, the order of ready warps (R239), and the events that
the module's own engines offer. -/
namespace Sys2Proof.Machine

/-! ### The environment -/

/-- Bytes that an agent outside writes to memory: the host's own, DRAM or the CXL window. A write that meets a bus error writes nothing
(R363); one that needs a page of a pool that has none waits (R328). -/
def outsideWrite (s : State) (a : Nat) (bs : List Byte) : Option State :=
  let n := bs.length
  if isVault a || s.spanHeld a n then none
  else if s.writeBad a n then some s
  else
    let t := (bs.zipIdx).foldl (fun s x => physWrite s none none none (a + x.2) [x.1]) s
    some (t.clearPoison (((List.range (n / 64 + 1)).map fun i => (a + 63) / 64 * 64 + 64 * i).filter fun g => decide (g + 64 ≤ a + n)))
/-- R239: what is added to the wait of every warp that is ready (log entry 119). -/
def waitOn (n : Nat) (s : State) : State :=
  { s with crews := s.crews.map fun c => { c with warps := c.warps.map fun w => { w with waiting := if w.waiting = 0 then 0 else w.waiting + n } } }
/-- A move of the environment, or of a unit whose timing the spec leaves open; none where it cannot happen. -/
def moveDo (s : State) : Move → Option State
  | .issue _ _ | .issueLate _ _ | .sorrel | .event _ => none
  | .lanePerform crew id => performLane s crew id
  | .pass n => some (waitOn n { s with cycle := s.cycle + n })
  | .hostWrite a bs => outsideWrite s a bs
  | .barWrite bar off bs => some (barStore s bar off bs)
  | .arrive port bs => if (s.port? port).any (·.up) then arriveBytes s port bs else none
  | .transmit port vl => transmit s port vl
  | .writeBack line => if s.ras.dirty.any fun d => d.line == line then
      some { s with ras := { s.ras with dirty := s.ras.dirty.filter fun d => d.line != line } } else none
  | .l1Replace core line => some { s with l1 := s.l1.filter fun x => !(x.core == core && x.line == line) }
  | .dramRequest ctx touched => dramRequest s ctx touched
  | .tlbReplace i => some { s with tlb := s.tlb.eraseIdx i }
  | .route dst port => some { s with routes := (dst, port) :: s.routes.filter fun r => r.1 != dst }
  | .scrubEnd stack => scrubEnd s stack
  | .tokenMap t d => some { s with tokens := (t, d) :: s.tokens.filter fun x => x.1 != t }
  | .island n on => setIsland s n on
  | .temperature k x => some { s with plat := { s.plat with temps := (k, x) :: s.plat.temps.filter fun y => y.1 != k } }
  | .linkErrors port n => some (s.modPort port fun p => { p with corrected := p.corrected + n })
  | .laneFail port => some (s.modPort port fun p => { p with lanes := p.lanes - 1 })
  | .cxlBacked l => some { s with plat := { s.plat with cxl := l } }
  | .barRead bar off n => if (bar = 0 ∨ bar = 2) ∧ off < 2 ^ 32 then some (tellOut (barLoad s bar off n) .barData) else none
  | .coreRead a wide =>
    let n := if wide then 8 else 4
    if a < Config.devBase ∨ Config.paEnd ≤ a ∨ a % n ≠ 0 then none else some (tellOut (coreLoad s a n) .coreData)
  | .sidebandRead die => if die < 64 then some (tellOut (sidebandLoad s die) .sidebandData) else none
  | .measure b => if b ≤ 6 then some { s with hostOut := s.hostOut ++ [.measurement b (measurement s b)] } else none
  | .islandPoint n v f => if n < 64 then some (setPoint s n v f) else none
  | .sidebandWrite die => if die < 64 then some (if dieReserved (devAddr die 0) then noteUnreach s (devAddr die 0) else s) else none
/-- Moves that the module's power does not matter to. -/
def Move.outside : Move → Bool
  | .temperature _ _ | .pass _ => true
  | _ => false

/-- R26: the host die's island that a move needs: the host link, the management complex, the command path, or Chervil. -/
def Move.needs : Move → Option Nat
  | .hostWrite _ _ | .barWrite _ _ _ | .barRead _ _ _ => some 60
  | .measure _ | .islandPoint _ _ _ | .coreRead _ _ | .sidebandRead _ | .sidebandWrite _ | .event (.registerWrite _ _ _) => some 61
  | .sorrel | .event .queueExamination | .event (.nodeResolve _) => some 62
  | .event (.intervalCut _) | .event (.shardStream _) | .event (.indexWaitTimeout _) | .event (.intervalSeal _)
  | .event (.timerTrigger _) | .event .costUpdate => some 63
  | _ => none
/-- R14: the move's island has power. -/
def State.powers (s : State) (m : Move) : Bool := match m.needs with | some n => !s.islandOff n | none => true

/-! ### Warps: R239 -/

/-- R239: the slot index of a warp on its core; landing slots are 64 and 65. -/
def slotIndex (s : State) (c : Crew) (w : Warp) : Nat :=
  match w.away with
  | some a => 64 + a.slot
  | none => (crewBases s c).ws + (match c.kernel.shape.width with | 8 => w.wid / 2 | 128 => 2 * w.wid | _ => w.wid)
/-- R239: the effective class. -/
def effClass (c : Crew) (w : Warp) : Nat := Nat.min 7 (c.cls + w.waiting / 16384)
/-- R239: `a` goes before `b`: class, then the longer wait, then the lower slot; warps of different cores in core order. -/
def goesFirst (s : State) (a b : Crew × Warp) : Bool :=
  let x := effClass a.1 a.2
  let y := effClass b.1 b.2
  let i := 128 * a.1.warpCore a.2 + slotIndex s a.1 a.2
  let j := 128 * b.1.warpCore b.2 + slotIndex s b.1 b.2
  decide (y < x) || (x == y && (decide (b.2.waiting < a.2.waiting) || (a.2.waiting == b.2.waiting && decide (i < j))))
/-- The first of some warps. -/
def firstWarp (s : State) (l : List (Crew × Warp)) : Option (Crew × Warp) :=
  l.foldl (fun b x => match b with | none => some x | some y => if goesFirst s x y then some x else some y) none
/-- The warps of crews that run. -/
def runningWarps (s : State) : List (Crew × Warp) := (s.crews.filter (Crew.runs s)).flatMap fun c => c.warps.map fun w => (c, w)

/-! ### The clock -/

/-- R347: the timebase has reached T of a gang switch; a GANG_INSTANT on the agenda acts itself. -/
def reachT (s : State) : State :=
  if s.gang.phase = 1 ∧ gangT s ≤ s.timebase.toNat ∧ s.agenda.head? ≠ some (.event .gangInstant) then gangAtT s else s
/-- R395: nodes resolve in the instant their last dependence is met; a NODE_RESOLVE on the agenda acts itself. -/
def nodesReady (s : State) : State :=
  if s.nodes.isEmpty || s.islandOff 62 then s
  else match s.agenda.head? with | some (.event (.nodeResolve _)) => s | _ => resolveReady s
/-- The clock moves on one cycle; the units that only watch the state note it (R173, R199, R328, R347, R366, R395). -/
def clock (s : State) : State := acceptHeld (nodesReady (settleWrites (reachT (noteReady (wakeAll { s with cycle := s.cycle + 1 })))))

/-! ### Engines -/

/-- Events that a crew's own state offers. -/
def crewEvents (c : Crew) : List Instr :=
  (c.warps.flatMap fun w => (if w.micro.isSome then [.microStep c.id w.wid] else []) ++ if w.migWait.isSome then [.migCommit c.id w.wid] else [])
  ++ ((c.threads.zipIdx).flatMap fun t => if t.1.chain.isEmpty then [] else (List.range t.1.links.length).map fun n => .linkDigitDelivery c.id t.2 n)
  ++ ((c.copies.zipIdx).filterMap fun x => if x.1.any fun y => y.st == .running then some (.copyGranule c.id x.2) else none)
  ++ (c.transfers.flatMap fun x => [.tileLoadComplete c.id x.id, .tileStoreReadDone c.id x.id])
  ++ (if c.kernel.shape.width = 0 then .poolCycle c.id ::
      (c.warps.flatMap fun w => (List.range 32).map fun l => .laneRefill c.id w.wid l)
        ++ c.warps.flatMap fun w => w.entries.map fun e => .idleHandoff c.id w.wid e.eid else [])
/-- Moves that the module's own units offer. -/
def engineMoves (s : State) : List Move :=
  ((s.rets.map fun r => .event (.memoryReturn r.id))
  ++ (s.crews.flatMap fun c => (c.log.filter fun x => x.lanes.any fun l => l.wait == .flight).map fun x => .lanePerform c.id x.id)
  ++ ((s.crews.filter (Crew.runs s)).flatMap crewEvents).map .event
  ++ (((s.crews.map fun c => quadOf c.core).eraseDups).flatMap fun q => [.event (.matrixPassEnd q), .event (.matrixPassGrant q)])
  ++ (s.merge.filterMap fun m => if m.prgi.isNone then some (.event (.pageRequest m.die m.ctx m.vpage)) else none)
  ++ (if s.inval.isEmpty then [] else [.event .invalidationComplete])
  ++ (s.mig.map fun m => .event (.migrationLineCopy m.slot))
  ++ ((s.ctxs.filter fun x => x.stop.isSome).map fun x => .event (.stopComplete x.num))
  ++ ((s.ctxs.filter fun x => ckPhase s x.num != 0).flatMap fun x =>
      [.event (.intervalCut x.num), .event (.shardStream x.num), .event (.indexWaitTimeout x.num), .event (.intervalSeal x.num)])
  ++ (if s.gang.phase = 0 then [] else [.event .gangInstant, .event .sweepSealed, .event .gangClose])
  ++ (if s.gang.phase = 5 then [.event .gangSwitchIn] else [])
  ++ (s.ports.flatMap fun p => (List.range 8).flatMap fun vl =>
      (if p.egress.any (fun x => x.vl == vl) || p.xbar.any (fun x => x.vl == vl) then [.transmit p.num vl] else [])
      ++ match p.ingress.find? fun x => x.vl == vl with
        | none => []
        | some x => match x.type with
          | 0 => [.event (.fabricLoadRequest p.num vl)]
          | 1 => [.event (.fabricStoreRequest p.num vl)]
          | 2 => [.event (.fabricAtomicRequest p.num vl)]
          | 3 => [.event (.fabricReply p.num vl)]
          | _ => [.event (.fabricNegativeReply p.num vl)])
  ++ (if s.due.isEmpty then [] else [.event .queueExamination])
  ++ ((List.range s.nodes.length).map fun i => .event (.nodeResolve i))
  ++ ((s.launches.filter fun l => l.st == 2).map fun l => .event (.launchComplete (BitVec.ofNat 32 l.num))))

end Sys2Proof.Machine
end

