-- ==== Sys2Proof/Machine/Place.lean ====
section
/-! DEFINITION. An instruction stored where the next step fetches (log entry 5). -/
namespace Sys2Proof.Machine

/-- A kernel of one 32-byte block at 0x8000. -/
def oneBlock (w : Nat) : Kernel :=
  { desc := 0, codeVA := 0x8000, codeLen := 32, dataVA := 0, shape := openShape, trapVA := 0, rstVA := 0, rstTiles := 0, prio := []
    code := memOfBytes (leBytes 16 w), pages := [1] }
/-- A crew of one width-8 warp of context 0 on core 0, started, whose next instruction is the word. -/
def placeArben (s : State) (w : Nat) : State :=
  let k := oneBlock w
  let c : Crew := { freshCrew s.uid (s.uid + 1) 0 0 0 0 k 0 8192 (List.replicate 64 0) with started := true }
  let x : Ctx := { Ctx.clear 0 with bound := true, quadMap := [0], kernel := some k, groups := 1, privSize := 8192 }
  { s with uid := s.uid + 2, crews := [c], ctxs := [x], icache := [(0, 0, 0x400)], agenda := [.issue s.uid 0], plat := { s.plat with standby := false } }
/-- A packet in progress on queue 0 whose program is the one bytecode. -/
def placeSorrel (s : State) (w : Nat) : State :=
  let p : Sorrel :=
    { queue := 0, ring := 0, slot := 0, lap := 0, words := List.replicate 16 0, prog := [BitVec.ofNat 32 w], pc := 0, steps := 0
      k := List.replicate 8 0, loop := none, csts := [], deps := [], cond := none, last := 0, disp := 5 }
  { s with sorrel := some p, agenda := [.sorrel], plat := { s.plat with standby := false } }

end Sys2Proof.Machine
end

