-- ==== Sys2Proof/Machine/Integer.lean ====
section
/-! DEFINITION. Integer arithmetic, logic, shifts, fields, counts, compare, select, moves and integer conversion: R96 to R107. -/
namespace Sys2Proof.Machine

/-- R99: the low bits of an exact result, clamped first for `.sat`. -/
def arith (t : Ty) (sat : Bool) (x : Int) : Nat := wrapN t.bits (if sat then satInt t.bits t.signed x else x)
/-- The bits of the first source. -/
def bitsA (t : Ty) (e : Env) (th : Thread) : Nat := srcBits e.w th t e.f.a
def bitsC (t : Ty) (e : Env) (th : Thread) : Nat := srcBits e.w th t e.f.c
/-- The sources as integers of the type. -/
def intA (t : Ty) (e : Env) (th : Thread) : Int := intOf t (bitsA t e th)
def intB (t : Ty) (e : Env) (th : Thread) : Int := intOf t (srcB e th t)
def intC (t : Ty) (e : Env) (th : Thread) : Int := intOf t (bitsC t e th)
def intOne (t : Ty) (e : Env) (th : Thread) : Int := intOf t (srcOne e th t)
/-- R98: a shift count, field control word or index. -/
def cntB (e : Env) (th : Thread) : Nat := srcB e th .n32

/-- R96: each executing lane writes one result of a type, under R27 and R97. -/
def aluBody (t : Ty) (g : Env → Thread → Nat) (e : Env) (s : State) : Res :=
  .go (writeD e s t (e.lanes.map fun l => (l.2, g e (e.th l.2))))

/-! ### Results: R99 to R103 -/

def evalAdd (t : Ty) (sat : Bool) (e : Env) (th : Thread) : Nat := arith t sat (intA t e th + intB t e th)
def evalSub (t : Ty) (sat : Bool) (e : Env) (th : Thread) : Nat := arith t sat (intA t e th - intB t e th)
def evalMin (t : Ty) (sat : Bool) (e : Env) (th : Thread) : Nat := arith t sat (min (intA t e th) (intB t e th))
def evalMax (t : Ty) (sat : Bool) (e : Env) (th : Thread) : Nat := arith t sat (max (intA t e th) (intB t e th))
def evalAbs (t : Ty) (sat : Bool) (e : Env) (th : Thread) : Nat := arith t sat (intOne t e th).natAbs
def evalNeg (t : Ty) (sat : Bool) (e : Env) (th : Thread) : Nat := arith t sat (-intOne t e th)
def evalAnd (t : Ty) (e : Env) (th : Thread) : Nat := Nat.land (bitsA t e th) (srcB e th t)
def evalOr (t : Ty) (e : Env) (th : Thread) : Nat := Nat.lor (bitsA t e th) (srcB e th t)
def evalXor (t : Ty) (e : Env) (th : Thread) : Nat := Nat.xor (bitsA t e th) (srcB e th t)
/-- The complement of n bits. -/
def notBits (t : Ty) (x : Nat) : Nat := 2 ^ t.bits - 1 - x % 2 ^ t.bits
def evalAndn (t : Ty) (e : Env) (th : Thread) : Nat := Nat.land (bitsA t e th) (notBits t (srcB e th t))
def evalNot (t : Ty) (e : Env) (th : Thread) : Nat := notBits t (srcOne e th t)
/-- R101: a count of n or more gives 0 without SAT; the power is cut where the result no longer depends on it. -/
def evalShl (t : Ty) (sat : Bool) (e : Env) (th : Thread) : Nat := arith t sat (intA t e th * 2 ^ min (cntB e th) 128)
def evalShr (t : Ty) (e : Env) (th : Thread) : Nat := bitsA t e th / 2 ^ min (cntB e th) 128
def evalSar (t : Ty) (e : Env) (th : Thread) : Nat := wrapN t.bits (intA t e th / 2 ^ min (cntB e th) 128)
def evalRot (t : Ty) (e : Env) (th : Thread) : Nat :=
  let k := cntB e th % t.bits
  (bitsA t e th * 2 ^ k + bitsA t e th / 2 ^ (t.bits - k)) % 2 ^ t.bits
def evalMov (t : Ty) (e : Env) (th : Thread) : Nat := srcOne e th t
def evalMul (t : Ty) (sat : Bool) (e : Env) (th : Thread) : Nat := arith t sat (intA t e th * intB t e th)
def evalMulh (t : Ty) (e : Env) (th : Thread) : Nat := wrapN t.bits (intA t e th * intB t e th / 2 ^ t.bits)
def evalMad (t : Ty) (sat : Bool) (e : Env) (th : Thread) : Nat := arith t sat (intA t e th * intB t e th + intC t e th)
/-- R102: p and l of a control word. -/
def fieldPos (t : Ty) (b : Nat) : Nat := min (b % 256) t.bits
def fieldLen (t : Ty) (b : Nat) : Nat := min (b / 256 % 256) (t.bits - fieldPos t b)
def evalBfx (t : Ty) (e : Env) (th : Thread) : Nat :=
  let b := cntB e th
  let l := fieldLen t b
  let f := bitsA t e th / 2 ^ fieldPos t b % 2 ^ l
  if t.signed then wrapN t.bits (sInt l f) else f
def evalBfi (t : Ty) (e : Env) (th : Thread) : Nat :=
  let b := cntB e th
  let p := fieldPos t b
  let l := fieldLen t b
  let a := bitsA t e th
  a - a / 2 ^ p % 2 ^ l * 2 ^ p + bitsC t e th % 2 ^ l * 2 ^ p
def evalPopc (t : Ty) (e : Env) (th : Thread) : Nat := popcount t.bits (srcOne e th t)
def evalClz (t : Ty) (e : Env) (th : Thread) : Nat := clzN t.bits (srcOne e th t)
def evalCtz (t : Ty) (e : Env) (th : Thread) : Nat := ctzN t.bits (srcOne e th t)
def evalFnth (t : Ty) (e : Env) (th : Thread) : Nat := (fnthN t.bits 0 (bitsA t e th) (cntB e th)).getD 0xFFFFFFFF
def evalBrev (t : Ty) (e : Env) (th : Thread) : Nat := brevN t.bits (srcOne e th t)
/-- R104. -/
def evalCmp (t : Ty) (c : Cond) (e : Env) (th : Thread) : Bool :=
  let a := intA t e th
  let b := intB t e th
  match c with
  | .eq => a == b
  | .ne => a != b
  | .lt => decide (a < b)
  | .le => decide (a ≤ b)
  | .gt => decide (b < a)
  | _ => decide (b ≤ a)
def evalSel (t : Ty) (e : Env) (th : Thread) : Nat := if predOf th e.f.c then bitsA t e th else srcB e th t
/-- R107. -/
def evalCvt (td ts : Ty) (sat : Bool) (e : Env) (th : Thread) : Nat := arith td sat (intA ts e th)

/-! ### The instructions -/

/-- `add`. -/
def execAdd (t : Ty) (sat : Bool) (f : Fields) (s : State) : Host.Outcome State Fault Refusal :=
  issue (.add t sat f) s (aluBody t (evalAdd t sat))
/-- `sub`. -/
def execSub (t : Ty) (sat : Bool) (f : Fields) (s : State) : Host.Outcome State Fault Refusal :=
  issue (.sub t sat f) s (aluBody t (evalSub t sat))
/-- `min`. -/
def execMin (t : Ty) (sat : Bool) (f : Fields) (s : State) : Host.Outcome State Fault Refusal :=
  issue (.min t sat f) s (aluBody t (evalMin t sat))
/-- `max`. -/
def execMax (t : Ty) (sat : Bool) (f : Fields) (s : State) : Host.Outcome State Fault Refusal :=
  issue (.max t sat f) s (aluBody t (evalMax t sat))
/-- `abs`. -/
def execAbs (t : Ty) (sat : Bool) (f : Fields) (s : State) : Host.Outcome State Fault Refusal :=
  issue (.abs t sat f) s (aluBody t (evalAbs t sat))
/-- `neg`. -/
def execNeg (t : Ty) (sat : Bool) (f : Fields) (s : State) : Host.Outcome State Fault Refusal :=
  issue (.neg t sat f) s (aluBody t (evalNeg t sat))
/-- `and`. -/
def execAnd (t : Ty) (sat : Bool) (f : Fields) (s : State) : Host.Outcome State Fault Refusal :=
  issue (.and t sat f) s (aluBody t (evalAnd t))
/-- `or`. -/
def execOr (t : Ty) (sat : Bool) (f : Fields) (s : State) : Host.Outcome State Fault Refusal :=
  issue (.or t sat f) s (aluBody t (evalOr t))
/-- `xor`. -/
def execXor (t : Ty) (sat : Bool) (f : Fields) (s : State) : Host.Outcome State Fault Refusal :=
  issue (.xor t sat f) s (aluBody t (evalXor t))
/-- `andn`. -/
def execAndn (t : Ty) (sat : Bool) (f : Fields) (s : State) : Host.Outcome State Fault Refusal :=
  issue (.andn t sat f) s (aluBody t (evalAndn t))
/-- `not`. -/
def execNot (t : Ty) (sat : Bool) (f : Fields) (s : State) : Host.Outcome State Fault Refusal :=
  issue (.not t sat f) s (aluBody t (evalNot t))
/-- `shl`. -/
def execShl (t : Ty) (sat : Bool) (f : Fields) (s : State) : Host.Outcome State Fault Refusal :=
  issue (.shl t sat f) s (aluBody t (evalShl t sat))
/-- `shr`. -/
def execShr (t : Ty) (sat : Bool) (f : Fields) (s : State) : Host.Outcome State Fault Refusal :=
  issue (.shr t sat f) s (aluBody t (evalShr t))
/-- `sar`. -/
def execSar (t : Ty) (sat : Bool) (f : Fields) (s : State) : Host.Outcome State Fault Refusal :=
  issue (.sar t sat f) s (aluBody t (evalSar t))
/-- `rot`. -/
def execRot (t : Ty) (sat : Bool) (f : Fields) (s : State) : Host.Outcome State Fault Refusal :=
  issue (.rot t sat f) s (aluBody t (evalRot t))
/-- `mov`. -/
def execMov (t : Ty) (sat : Bool) (f : Fields) (s : State) : Host.Outcome State Fault Refusal :=
  issue (.mov t sat f) s (aluBody t (evalMov t))
/-- `mul`. -/
def execMul (t : Ty) (sat : Bool) (f : Fields) (s : State) : Host.Outcome State Fault Refusal :=
  issue (.mul t sat f) s (aluBody t (evalMul t sat))
/-- `mulh`. -/
def execMulh (t : Ty) (sat : Bool) (f : Fields) (s : State) : Host.Outcome State Fault Refusal :=
  issue (.mulh t sat f) s (aluBody t (evalMulh t))
/-- `mad`. -/
def execMad (t : Ty) (sat : Bool) (f : Fields) (s : State) : Host.Outcome State Fault Refusal :=
  issue (.mad t sat f) s (aluBody t (evalMad t sat))
/-- `bfx`. -/
def execBfx (t : Ty) (sat : Bool) (f : Fields) (s : State) : Host.Outcome State Fault Refusal :=
  issue (.bfx t sat f) s (aluBody t (evalBfx t))
/-- `bfi`. -/
def execBfi (t : Ty) (sat : Bool) (f : Fields) (s : State) : Host.Outcome State Fault Refusal :=
  issue (.bfi t sat f) s (aluBody t (evalBfi t))
/-- `popc`. -/
def execPopc (t : Ty) (sat : Bool) (f : Fields) (s : State) : Host.Outcome State Fault Refusal :=
  issue (.popc t sat f) s (aluBody .n32 (evalPopc t))
/-- `clz`. -/
def execClz (t : Ty) (sat : Bool) (f : Fields) (s : State) : Host.Outcome State Fault Refusal :=
  issue (.clz t sat f) s (aluBody .n32 (evalClz t))
/-- `ctz`. -/
def execCtz (t : Ty) (sat : Bool) (f : Fields) (s : State) : Host.Outcome State Fault Refusal :=
  issue (.ctz t sat f) s (aluBody .n32 (evalCtz t))
/-- `fnth`. -/
def execFnth (t : Ty) (sat : Bool) (f : Fields) (s : State) : Host.Outcome State Fault Refusal :=
  issue (.fnth t sat f) s (aluBody .n32 (evalFnth t))
/-- `brev`. -/
def execBrev (t : Ty) (sat : Bool) (f : Fields) (s : State) : Host.Outcome State Fault Refusal :=
  issue (.brev t sat f) s (aluBody t (evalBrev t))
/-- `cmp`: R104. -/
def execCmp (t : Ty) (c : Cond) (f : Fields) (s : State) : Host.Outcome State Fault Refusal :=
  issue (.cmp t c f) s fun e s => .go (writeP e s (e.lanes.map fun l => (l.2, evalCmp t c e (e.th l.2))))
/-- `sel`: R105. -/
def execSel (t : Ty) (f : Fields) (s : State) : Host.Outcome State Fault Refusal := issue (.sel t f) s (aluBody t (evalSel t))
/-- `movi.b32`: R106. -/
def execMoviB32 (f : Fields) (s : State) : Host.Outcome State Fault Refusal :=
  issue (.moviB32 f) s (aluBody .b32 fun e _ => immBits .b32 (e.f.imm.getD 0))
/-- `movi.b64`, format I: R106. -/
def execMoviB64I (f : Fields) (s : State) : Host.Outcome State Fault Refusal :=
  issue (.moviB64I f) s (aluBody .b64 fun e _ => immBits .b64 (e.f.imm.getD 0))
/-- `movi.b64`, format W: R106. -/
def execMoviB64W (x : Quad) (f : Fields) (s : State) : Host.Outcome State Fault Refusal :=
  issue (.moviB64W x f) s (aluBody .b64 fun _ _ => x.toNat)
/-- `cvt`: R107. -/
def execCvt (td ts : Ty) (sat : Bool) (f : Fields) (s : State) : Host.Outcome State Fault Refusal :=
  issue (.cvt td ts sat f) s (aluBody td (evalCvt td ts sat))

end Sys2Proof.Machine
end

