-- ==== Sys2Proof/Machine/CrossLane.lean ====
section
/-! DEFINITION. Flags raised by lanes (R36, R37), and the cross-lane instructions: R51, R121 to R126. -/
namespace Sys2Proof.Machine

/-- R37: flags raised by lanes are set; the flag trap where an enable is set, else the instruction's own effect. -/
def withFlags (e : Env) (s : State) (fl : List (Nat × Nat × Flg)) (go : State → Res) : Res :=
  let s' := s.modCrew e.c.id fun c => fl.foldl (fun c x => c.modThread x.2.1 fun t => t.raise x.2.2) c
  let bad := fl.filter fun x => (e.th x.2.1).enabled x.2.2 != 0
  if bad.isEmpty then go s'
  else .trap s' { cls := 3, cause := (bad.foldl (fun a x => a ||| x.2.2) (0 : Flg)).toNat, tval := 0
                  lanes := maskOf (bad.map (·.1)) }

/-- R123: the participants. -/
def Env.participants (e : Env) : List (Nat × Nat) := e.lanes.filter fun l => e.members.getLsbD l.1
/-- R123: members that are live in another entry. -/
def Env.absent (e : Env) : Mask := e.members &&& e.w.live &&& ~~~e.mask
/-- R121 to R123: a cross-lane instruction: the member-absent trap, or its effect on the participants. Without an executing lane it
retires, wherever its members stand (R60, log entry 151). -/
def crossBody (g : Env → State → Res) (e : Env) (s : State) : Res :=
  if e.lanes.isEmpty then .go s
  else if e.absent != 0 then .trap s (controlTrap 8 (e.pc.setWidth 64) e.absent (.absent e.absent))
  else g e s
/-- A predicate written by every participant. -/
def crossPred (g : Env → List (Nat × Nat) → Nat → Bool) : Env → State → Res :=
  crossBody fun e s => .go (writeP e s (e.participants.map fun l => (l.2, g e e.participants l.1)))
/-- A value of a type written by every participant. -/
def crossVal (t : Ty) (g : Env → List (Nat × Nat) → Nat × Nat → Nat) : Env → State → Res :=
  crossBody fun e s => .go (writeD e s t (e.participants.map fun l => (l.2, g e e.participants l)))
/-- Registers written by every participant. -/
def crossRegs (g : Env → List (Nat × Nat) → Nat → List (Nat × Word)) : Env → State → Res :=
  crossBody fun e s => .go (writeRegs s e.c.id (e.participants.map fun l => (l.2, g e e.participants l.1)))

/-- `vote.all`: R124. -/
def execVoteAll (f : Fields) (s : State) : Host.Outcome State Fault Refusal :=
  issue (.voteAll f) s (crossPred fun e ps _ => ps.all fun l => predOf (e.th l.2) e.f.a)
/-- `vote.any`: R124. -/
def execVoteAny (f : Fields) (s : State) : Host.Outcome State Fault Refusal :=
  issue (.voteAny f) s (crossPred fun e ps _ => ps.any fun l => predOf (e.th l.2) e.f.a)
/-- `vote.uni`: R124. -/
def execVoteUni (f : Fields) (s : State) : Host.Outcome State Fault Refusal :=
  issue (.voteUni f) s (crossPred fun e ps _ =>
    (ps.all fun l => predOf (e.th l.2) e.f.a) || (ps.all fun l => !predOf (e.th l.2) e.f.a))
/-- `elect`: R124. -/
def execElect (f : Fields) (s : State) : Host.Outcome State Fault Refusal :=
  issue (.elect f) s (crossPred fun _ ps l => (ps.head?.map (·.1)) == some l)
/-- The registers of a number of 32-bit words, from register n on. -/
def wordsAt (n count x : Nat) : List (Nat × Word) := (List.range count).map fun i => (n + i, BitVec.ofNat 32 (x / 2 ^ (32 * i)))
/-- The register number of a `v` operand. -/
def vNum (o : Opd) : Nat := match o with | .v n => n.toNat | _ => 0
/-- `ballot`: R124. -/
def execBallot (f : Fields) (s : State) : Host.Outcome State Fault Refusal :=
  issue (.ballot f) s (crossRegs fun e ps _ =>
    wordsAt (vNum e.f.d) ((e.sh.width + 31) / 32) (maskOf ((ps.filter fun l => predOf (e.th l.2) e.f.a).map (·.1))).toNat)
/-- R125: A of a source lane; a lane that is no participant supplies 0. -/
def laneA (t : Ty) (e : Env) (ps : List (Nat × Nat)) (src : Nat) : Nat :=
  match ps.find? fun l => l.1 == src with
  | some l => bitsA t e (e.th l.2)
  | none => 0
/-- `lmov`: R124. -/
def execLmov (t : Ty) (f : Fields) (s : State) : Host.Outcome State Fault Refusal :=
  issue (.lmov t f) s (crossVal t fun e ps l => laneA t e ps (cntB e (e.th l.2) % e.sh.width))
/-- R125: the source lane of `shfl`; none where it is out of range. -/
def shflLane (mode : ShflMode) (width l b : Nat) : Option Nat :=
  match mode with
  | .idx => if b < width then some b else none
  | .up => if b ≤ l then some (l - b) else none
  | .down => if l + b < width then some (l + b) else none
  | .xor => if Nat.xor l b < width then some (Nat.xor l b) else none
/-- `shfl`: R125. -/
def execShfl (t : Ty) (mode : ShflMode) (f : Fields) (s : State) : Host.Outcome State Fault Refusal :=
  issue (.shfl t mode f) s (crossVal t fun e ps l =>
    match shflLane mode e.sh.width l.1 (cntB e (e.th l.2)) with
    | some src => laneA t e ps src
    | none => bitsA t e (e.th l.2))

/-! ### Reductions: R51, R89, R125 -/

/-- R89: an integer reduction of the participants' values. -/
def intRedux (t : Ty) (rop : Nat) (xs : List Nat) : Nat :=
  match xs with
  | [] => 0
  | x :: r =>
    let pickOf (lt : Int → Int → Bool) (a b : Nat) : Nat := if lt (intOf t b) (intOf t a) then b else a
    match rop with
    | 0 => r.foldl (fun a b => (a + b) % 2 ^ t.bits) x
    | 1 => r.foldl (pickOf fun a b => decide (a < b)) x
    | 2 => r.foldl (pickOf fun a b => decide (b < a)) x
    | 3 => r.foldl Nat.land x
    | 4 => r.foldl Nat.lor x
    | _ => r.foldl Nat.xor x
/-- R51: a node over two children, either of which may be absent. -/
def reduxNode (op : Fl → Fl → Ex) (f : Fmt) (m : Rm) (a b : Option Nat) : Option Nat × Flg :=
  match a, b with
  | none, x => (x, 0)
  | x, none => (x, 0)
  | some x, some y => let r := (op (Fl.ofBits f x) (Fl.ofBits f y)).round f m; (some r.1, r.2)
/-- One level of the tree. -/
def reduxLevel (op : Fl → Fl → Ex) (f : Fmt) (m : Rm) : List (Option Nat) → List (Option Nat) × Flg
  | a :: b :: r =>
    let x := reduxNode op f m a b
    let y := reduxLevel op f m r
    (x.1 :: y.1, x.2 ||| y.2)
  | r => (r, 0)
/-- R51: the tree of n levels. -/
def reduxTree (op : Fl → Fl → Ex) (f : Fmt) (m : Rm) : Nat → List (Option Nat) × Flg → List (Option Nat) × Flg
  | 0, x => x
  | n + 1, x => let y := reduxLevel op f m x.1; reduxTree op f m n (y.1, x.2 ||| y.2)
/-- R51, R89: a floating-point reduction; a NaN result is canonical (R30). With one participant no node is rounded, so that its
signalling NaN raises nothing (log entry 19). -/
def flRedux (t : Ty) (rop : Nat) (ctl : BitVec 2) (xs : List (Option Nat)) : Nat × Flg :=
  let f := (fmtOf t)
  let m := if rop < 4 then Rm.ofCode ctl.toNat else Rm.ofCode (rop - 4)
  let op := if rop = 1 then minmaxFl false else if rop = 2 then minmaxFl true else addFl m
  let r := reduxTree op f m (Nat.log2 xs.length) (xs, 0)
  let x := (r.1.headD none).getD 0
  (if (Fl.ofBits f x).isNan then f.nan else x, r.2)
/-- `redux`: R51, R89, R124. -/
def execRedux (t : Ty) (rop : BitVec 3) (f : Fields) (s : State) : Host.Outcome State Fault Refusal :=
  issue (.redux t rop f) s (crossBody fun e s =>
    let ps := e.participants
    if t.isFloat then
      let ctl := match ps with | l :: _ => (e.th l.2).fpctl.setWidth 2 | [] => 0
      let xs := (List.range e.sh.width).map fun i => (ps.find? fun l => l.1 == i).map fun l => bitsA t e (e.th l.2)
      let r := flRedux t rop.toNat ctl xs
      withFlags e s (ps.map fun l => (l.1, l.2, r.2)) fun s => .go (writeD e s t (ps.map fun l => (l.2, r.1)))
    else
      let r := intRedux t rop.toNat (ps.map fun l => bitsA t e (e.th l.2))
      .go (writeD e s t (ps.map fun l => (l.2, r))))

/-! ### Permutations: R126 -/

/-- Register A + k of a lane as an element of a type; a lane that is no participant supplies 0. -/
def laneElem (t : Ty) (e : Env) (ps : List (Nat × Nat)) (lane k : Nat) : Nat :=
  match ps.find? fun l => l.1 == lane with
  | some l => srcBits e.w (e.th l.2) t (.v (BitVec.ofNat 8 (vNum e.f.a + k * t.regs)))
  | none => 0
/-- R126 `zipK`: structures of K elements spread over the lanes. -/
def zipBody (t : Ty) (k : Nat) : Env → State → Res :=
  crossRegs fun e ps lane => (List.range k).flatMap fun r =>
    let i := r * e.sh.width + lane
    resultWords t (vNum e.f.d + r * t.regs) (laneElem t e ps (i / k) (i % k))
/-- R126 `unzipK`. -/
def unzipBody (t : Ty) (k : Nat) : Env → State → Res :=
  crossRegs fun e ps lane => (List.range k).flatMap fun r =>
    let i := k * lane + r
    resultWords t (vNum e.f.d + r * t.regs) (laneElem t e ps (i % e.sh.width) (i / e.sh.width))
/-- `zip2`. -/
def execZip2 (t : Ty) (f : Fields) (s : State) : Host.Outcome State Fault Refusal := issue (.zip2 t f) s (zipBody t 2)
/-- `zip3`. -/
def execZip3 (t : Ty) (f : Fields) (s : State) : Host.Outcome State Fault Refusal := issue (.zip3 t f) s (zipBody t 3)
/-- `zip4`. -/
def execZip4 (t : Ty) (f : Fields) (s : State) : Host.Outcome State Fault Refusal := issue (.zip4 t f) s (zipBody t 4)
/-- `unzip2`. -/
def execUnzip2 (t : Ty) (f : Fields) (s : State) : Host.Outcome State Fault Refusal := issue (.unzip2 t f) s (unzipBody t 2)
/-- `unzip3`. -/
def execUnzip3 (t : Ty) (f : Fields) (s : State) : Host.Outcome State Fault Refusal := issue (.unzip3 t f) s (unzipBody t 3)
/-- `unzip4`. -/
def execUnzip4 (t : Ty) (f : Fields) (s : State) : Host.Outcome State Fault Refusal := issue (.unzip4 t f) s (unzipBody t 4)

end Sys2Proof.Machine
end

