-- ==== Sys2Proof/Machine/FloatOps.lean ====
section
/-! DEFINITION. Floating-point instructions: R128 to R137, with link producers and consumers, and the pair word (R65 to R67). -/
namespace Sys2Proof.Machine

/-! ### Sources and results: R128 -/

def flA (t : Ty) (e : Env) (th : Thread) : Fl := Fl.ofBits (fmtOf t) (bitsA t e th)
def flB (t : Ty) (e : Env) (th : Thread) : Fl := Fl.ofBits (fmtOf t) (srcB e th t)
def flC (t : Ty) (e : Env) (th : Thread) : Fl := Fl.ofBits (fmtOf t) (bitsC t e th)
def flOne (t : Ty) (e : Env) (th : Thread) : Fl := Fl.ofBits (fmtOf t) (srcOne e th t)
/-- R86: the mode of an instruction in a thread. -/
def modeIn (rm : RMode) (th : Thread) : Rm := modeOf rm (th.fpctl.setWidth 2)
/-- R131: an operation on one element, or on the two elements of a packed type. -/
def perElem (t : Ty) (g : (Nat → Fl) → Nat × Flg) (xs : List Nat) : Nat × Flg :=
  let f := (fmtOf t)
  if t.packed then
    let lo := g fun i => Fl.ofBits f (xs.getD i 0 % 2 ^ 16)
    let hi := g fun i => Fl.ofBits f (xs.getD i 0 / 2 ^ 16)
    (lo.1 + hi.1 * 2 ^ 16, lo.2 ||| hi.2)
  else g fun i => Fl.ofBits f (xs.getD i 0)
/-- R130, R131: an arithmetic operation rounded once. -/
def evalArith (t : Ty) (rm : RMode) (op : Rm → Fl → Fl → Fl → Ex) (e : Env) (th : Thread) : Nat × Flg :=
  let m := modeIn rm th
  perElem t (fun x => (op m (x 0) (x 1) (x 2)).round (fmtOf t) m) [bitsA t e th, srcB e th t, bitsC t e th]
def evalFadd (t : Ty) (rm : RMode) : Env → Thread → Nat × Flg := evalArith t rm fun m a b _ => addFl m a b
def evalFsub (t : Ty) (rm : RMode) : Env → Thread → Nat × Flg := evalArith t rm fun m a b _ => addFl m a b.flip
def evalFmul (t : Ty) (rm : RMode) : Env → Thread → Nat × Flg := evalArith t rm fun _ a b _ => mulFl a b
def evalFma (t : Ty) (rm : RMode) : Env → Thread → Nat × Flg := evalArith t rm fmaFl
def evalFdiv (t : Ty) (rm : RMode) : Env → Thread → Nat × Flg := evalArith t rm fun _ a b _ => divFl a b
/-- A function of the single source, rounded once. -/
def evalOne (t : Ty) (rm : RMode) (op : Rm → Fl → Ex) (e : Env) (th : Thread) : Nat × Flg :=
  (op (modeIn rm th) (flOne t e th)).round (fmtOf t) (modeIn rm th)
def evalFsqrt (t : Ty) (rm : RMode) : Env → Thread → Nat × Flg := evalOne t rm fun _ => sqrtFl
/-- R132. -/
def evalFmin (t : Ty) (e : Env) (th : Thread) : Nat × Flg :=
  (minmaxFl false (flA t e th) (flB t e th)).round (fmtOf t) (modeIn .ctl th)
def evalFmax (t : Ty) (e : Env) (th : Thread) : Nat × Flg :=
  (minmaxFl true (flA t e th) (flB t e th)).round (fmtOf t) (modeIn .ctl th)
/-- R133. -/
def evalFsel (t : Ty) (e : Env) (th : Thread) : Nat × Flg :=
  let x := if predOf th e.f.c then bitsA t e th else srcB e th t
  let v := Fl.ofBits (fmtOf t) x
  (if v.isNan then (fmtOf t).nan else x, flIf v.isSnan flNV)
/-- R134. -/
def evalFcmp (t : Ty) (c : Cond) (e : Env) (th : Thread) : Bool × Flg := cmpFl c (flA t e th) (flB t e th)
/-- R135. In format I (R82, R128) A stays the only source and the immediate stands for nothing (log entry 149). -/
def evalFclass (t : Ty) (e : Env) (th : Thread) : Nat × Flg :=
  (classOf (fmtOf t) (flA t e th), flIf (flA t e th).isSnan flNV)
/-- R136. -/
def evalFrcp (t : Ty) (rm : RMode) : Env → Thread → Nat × Flg := evalOne t rm fun _ => rcpFl
def evalFrsq (t : Ty) (rm : RMode) : Env → Thread → Nat × Flg := evalOne t rm fun _ => rsqFl
def evalFexp2 (t : Ty) (rm : RMode) : Env → Thread → Nat × Flg := evalOne t rm fun _ => exp2Fl
def evalFlog2 (t : Ty) (rm : RMode) : Env → Thread → Nat × Flg := evalOne t rm fun _ => log2Fl
def evalFscale (t : Ty) (rm : RMode) (e : Env) (th : Thread) : Nat × Flg :=
  (scaleFl (flA t e th) (intOf .s32 (srcB e th .s32))).round (fmtOf t) (modeIn rm th)
def evalFrnd (t : Ty) (rm : RMode) : Env → Thread → Nat × Flg := evalOne t rm rndFl
def evalFsin (t : Ty) (rm : RMode) : Env → Thread → Nat × Flg := evalOne t rm fun _ => sinFl
def evalFcos (t : Ty) (rm : RMode) : Env → Thread → Nat × Flg := evalOne t rm fun _ => cosFl
/-- R38, R137. -/
def evalFcvt (td ts : Ty) (rm : RMode) (e : Env) (th : Thread) : Nat × Flg :=
  let m := modeIn rm th
  if ts.isFloat then
    let a := flA ts e th
    if td.isFloat then let y := roundFl (fmtOf td) m a; (y.1, y.2 ||| flIf a.isSnan flNV)
    else let y := toIntFl td.bits td.signed m a; (wrapN td.bits y.1, y.2)
  else roundFl (fmtOf td) m (Fl.ofDy (Dy.ofInt (intA ts e th)) false)

/-! ### Bodies -/

/-- R37, R128: results with flags, by executing lane. -/
def floatBody (t : Ty) (g : Env → Thread → Nat × Flg) (e : Env) (s : State) : Res :=
  let xs := e.lanes.map fun l => (l, g e (e.th l.2))
  withFlags e s (xs.map fun x => (x.1.1, x.1.2, x.2.2)) fun s => .go (writeD e s t (xs.map fun x => (x.1.2, x.2.1)))

/-- The instruction names a link. -/
def usesLink (f : Fields) : Bool := [f.d, f.a, f.b, f.c].any fun o => match o with | .l _ => true | _ => false
/-- R148: a source of a record, captured at issue. -/
def captureOpd (w : Warp) (th : Thread) (t : Ty) (o : Opd) : ChainSrc :=
  match o with
  | .l n => .link n.toNat
  | o => .value (BitVec.ofNat 64 (srcBits w th t o))
/-- R148: the record of a link producer or consumer in a thread; `nsrc` is its number of sources. -/
def chainRecOf (e : Env) (t : Ty) (nsrc : Nat) (th : Thread) : ChainRec :=
  let raw := (e.instr.raw).getD ⟨0, 0, 0, false, 0, 0, 0, 0, 0, 0, 0⟩
  let imm (o : Opd) : ChainSrc := match e.f.imm with
    | some x => .value (BitVec.ofNat 64 (immBits t x))
    | none => captureOpd e.w th t o
  let isK (o : Opd) : Bool := e.f.imm.isSome || (match o with | .k _ => true | _ => false)
  let konst := isK e.f.a || isK e.f.b
  let early := earlyOp raw.op raw.fn konst
  let a := if nsrc = 1 then imm e.f.a else captureOpd e.w th t e.f.a
  let b := if nsrc = 1 then .unused else imm e.f.b
  let c := if nsrc = 3 then captureOpd e.w th t e.f.c else .unused
  let r : ChainRec := ⟨raw.op, raw.fn, raw.d, a, b, c, th.fpctl.setWidth 2, early⟩
  match e.instr with
  | .fsel _ _ =>
    let p := predOf th e.f.c
    let keep (x : ChainSrc) (sel : Bool) : ChainSrc := match x with | .link n => if sel then .link n else .unused | x => x
    { r with a := keep a p, b := keep b (!p), c := .value (if p then 1 else 0) }
  | _ => r
/-- R133: the links of an `fsel` that it does not select. -/
def dropLinks (e : Env) (th : Thread) : List Nat :=
  match e.instr with
  | .fsel _ _ =>
    match (if predOf th e.f.c then e.f.b else e.f.a) with
    | .l n => if e.f.imm.isSome && predOf th e.f.c then [] else [n.toNat]
    | _ => []
  | _ => []
/-- R138, R142: a link producer issues in every executing lane. The exponent of a link whose inputs have none is a free value
(log entry 14). -/
def producerBody (t : Ty) (nsrc n : Nat) (e : Env) (s : State) : Res :=
  if e.lanes.any fun l => decide (8 ≤ (e.th l.2).producers) then .wait
  else .go (e.lanes.foldl (fun s l =>
    let th := e.th l.2
    let r := chainRecOf e t nsrc th
    let p := predictE r.op (r.csrcs th)
    let d := s.draw
    let s := if p.isSome then s else d.2
    let ex := match p with | some x => clampE x | none => sInt 12 d.1.toNat
    let lk : LinkReg := ⟨t == .f64, .empty, .finite, 0, ex, []⟩
    s.modCrew e.c.id fun c => c.modThread l.2 fun th => { th with chain := th.chain ++ [r] }.setLink n lk) s)
/-- R323: the rows of D in the lanes whose register is full, so that the instruction has written it already. -/
def markWritten (e : Env) (s : State) : State :=
  match e.f.d, s.crew? e.c.id with
  | .v n, some c => markAll s c.ctx ((e.lanes.filter fun l => (c.thread l.2).isFull n.toNat 1).flatMap fun l => c.rowsOf l.2 [n.toNat])
  | _, _ => s
/-- R142 to R145: a link consumer that writes a register or a predicate. With a trap enable set it waits for its full sources and
runs at its issue (log entry 17). -/
def consumerBody (t : Ty) (nsrc : Nat) (e : Env) (s : State) : Res :=
  let full (th : Thread) (r : ChainRec) : Bool := (r.linkNums ++ dropLinks e th).all fun n => (th.link n).isFull
  if e.lanes.any fun l => let th := e.th l.2; decide (4 ≤ th.consumers) || (th.anyEnable && !full th (chainRecOf e t nsrc th)) then .wait
  else
    let fl := e.lanes.map fun l =>
      let th := e.th l.2
      let r := chainRecOf e t nsrc th
      if th.anyEnable then (l.1, l.2, ((consumerReady r th).getD (0, 0)).2 ||| r.pending th) else (l.1, l.2, 0)
    withFlags e s fl fun s => .go (markWritten e <| s.modCrew e.c.id fun c => e.lanes.foldl (fun c l => c.modThread l.2 fun th =>
      let r := chainRecOf e t nsrc th
      let th := consumeLinks 16 (dropLinks e th) { th with chain := th.chain ++ [r] }
      let th := if r.op != 0x58 && decide (r.d.toNat < 0x100) then th.setEmpty r.d.toNat (if r.dstTy.bits = 64 then 2 else 1) else th
      completeAll th) c)
/-- R129: an instruction that accepts links: a producer, a consumer, or its plain form. -/
def linkBody (t : Ty) (nsrc : Nat) (plain : Env → State → Res) (e : Env) (s : State) : Res :=
  match e.f.d with
  | .l n => producerBody t nsrc n.toNat e s
  | _ => if usesLink e.f then consumerBody t nsrc e s else plain e s

/-- `fadd`. -/
def execFadd (t : Ty) (rm : RMode) (f : Fields) (s : State) : Host.Outcome State Fault Refusal :=
  issue (.fadd t rm f) s (linkBody t 2 (floatBody t (evalFadd t rm)))
/-- `fsub`. -/
def execFsub (t : Ty) (rm : RMode) (f : Fields) (s : State) : Host.Outcome State Fault Refusal :=
  issue (.fsub t rm f) s (linkBody t 2 (floatBody t (evalFsub t rm)))
/-- `fmul`. -/
def execFmul (t : Ty) (rm : RMode) (f : Fields) (s : State) : Host.Outcome State Fault Refusal :=
  issue (.fmul t rm f) s (linkBody t 2 (floatBody t (evalFmul t rm)))
/-- `fma`. -/
def execFma (t : Ty) (rm : RMode) (f : Fields) (s : State) : Host.Outcome State Fault Refusal :=
  issue (.fma t rm f) s (linkBody t 3 (floatBody t (evalFma t rm)))
/-- `fdiv`. -/
def execFdiv (t : Ty) (rm : RMode) (f : Fields) (s : State) : Host.Outcome State Fault Refusal :=
  issue (.fdiv t rm f) s (linkBody t 2 (floatBody t (evalFdiv t rm)))
/-- `fsqrt`. -/
def execFsqrt (t : Ty) (rm : RMode) (f : Fields) (s : State) : Host.Outcome State Fault Refusal :=
  issue (.fsqrt t rm f) s (linkBody t 1 (floatBody t (evalFsqrt t rm)))
/-- `fmin`. -/
def execFmin (t : Ty) (f : Fields) (s : State) : Host.Outcome State Fault Refusal :=
  issue (.fmin t f) s (linkBody t 2 (floatBody t (evalFmin t)))
/-- `fmax`. -/
def execFmax (t : Ty) (f : Fields) (s : State) : Host.Outcome State Fault Refusal :=
  issue (.fmax t f) s (linkBody t 2 (floatBody t (evalFmax t)))
/-- `fsel`. -/
def execFsel (t : Ty) (f : Fields) (s : State) : Host.Outcome State Fault Refusal :=
  issue (.fsel t f) s (linkBody t 2 (floatBody t (evalFsel t)))
/-- `fcmp`: R134. -/
def execFcmp (t : Ty) (c : Cond) (f : Fields) (s : State) : Host.Outcome State Fault Refusal :=
  issue (.fcmp t c f) s (linkBody t 2 fun e s =>
    let xs := e.lanes.map fun l => (l, evalFcmp t c e (e.th l.2))
    withFlags e s (xs.map fun x => (x.1.1, x.1.2, x.2.2)) fun s => .go (writeP e s (xs.map fun x => (x.1.2, x.2.1))))
/-- `fclass`. -/
def execFclass (t : Ty) (f : Fields) (s : State) : Host.Outcome State Fault Refusal :=
  issue (.fclass t f) s (floatBody .n32 (evalFclass t))
/-- `frcp`. -/
def execFrcp (t : Ty) (rm : RMode) (f : Fields) (s : State) : Host.Outcome State Fault Refusal :=
  issue (.frcp t rm f) s (floatBody t (evalFrcp t rm))
/-- `frsq`. -/
def execFrsq (t : Ty) (rm : RMode) (f : Fields) (s : State) : Host.Outcome State Fault Refusal :=
  issue (.frsq t rm f) s (floatBody t (evalFrsq t rm))
/-- `fexp2`. -/
def execFexp2 (t : Ty) (rm : RMode) (f : Fields) (s : State) : Host.Outcome State Fault Refusal :=
  issue (.fexp2 t rm f) s (floatBody t (evalFexp2 t rm))
/-- `flog2`. -/
def execFlog2 (t : Ty) (rm : RMode) (f : Fields) (s : State) : Host.Outcome State Fault Refusal :=
  issue (.flog2 t rm f) s (floatBody t (evalFlog2 t rm))
/-- `fscale`. -/
def execFscale (t : Ty) (rm : RMode) (f : Fields) (s : State) : Host.Outcome State Fault Refusal :=
  issue (.fscale t rm f) s (floatBody t (evalFscale t rm))
/-- `frnd`. -/
def execFrnd (t : Ty) (rm : RMode) (f : Fields) (s : State) : Host.Outcome State Fault Refusal :=
  issue (.frnd t rm f) s (floatBody t (evalFrnd t rm))
/-- `fsin`. -/
def execFsin (t : Ty) (rm : RMode) (f : Fields) (s : State) : Host.Outcome State Fault Refusal :=
  issue (.fsin t rm f) s (floatBody t (evalFsin t rm))
/-- `fcos`. -/
def execFcos (t : Ty) (rm : RMode) (f : Fields) (s : State) : Host.Outcome State Fault Refusal :=
  issue (.fcos t rm f) s (floatBody t (evalFcos t rm))
/-- `fcvt`. -/
def execFcvt (td ts : Ty) (rm : RMode) (f : Fields) (s : State) : Host.Outcome State Fault Refusal :=
  issue (.fcvt td ts rm f) s (linkBody ts 1 (floatBody td (evalFcvt td ts rm)))

/-! ### The pair word: R65 to R67 -/

/-- The result of a pairable operation in a thread, with its type and flags. -/
def halfEval (e : Env) (th : Thread) : Ty × Nat × Flg :=
  match e.instr with
  | .add t b _ => (t, evalAdd t b e th, 0)
  | .sub t b _ => (t, evalSub t b e th, 0)
  | .min t b _ => (t, evalMin t b e th, 0)
  | .max t b _ => (t, evalMax t b e th, 0)
  | .abs t b _ => (t, evalAbs t b e th, 0)
  | .neg t b _ => (t, evalNeg t b e th, 0)
  | .and t _ _ => (t, evalAnd t e th, 0)
  | .or t _ _ => (t, evalOr t e th, 0)
  | .xor t _ _ => (t, evalXor t e th, 0)
  | .andn t _ _ => (t, evalAndn t e th, 0)
  | .not t _ _ => (t, evalNot t e th, 0)
  | .shl t b _ => (t, evalShl t b e th, 0)
  | .shr t _ _ => (t, evalShr t e th, 0)
  | .sar t _ _ => (t, evalSar t e th, 0)
  | .rot t _ _ => (t, evalRot t e th, 0)
  | .mov t _ _ => (t, evalMov t e th, 0)
  | .mul t b _ => (t, evalMul t b e th, 0)
  | .mulh t _ _ => (t, evalMulh t e th, 0)
  | .mad t b _ => (t, evalMad t b e th, 0)
  | .bfx t _ _ => (t, evalBfx t e th, 0)
  | .bfi t _ _ => (t, evalBfi t e th, 0)
  | .popc t _ _ => (.n32, evalPopc t e th, 0)
  | .clz t _ _ => (.n32, evalClz t e th, 0)
  | .ctz t _ _ => (.n32, evalCtz t e th, 0)
  | .fnth t _ _ => (.n32, evalFnth t e th, 0)
  | .brev t _ _ => (t, evalBrev t e th, 0)
  | .fadd t rm _ => (t, evalFadd t rm e th)
  | .fsub t rm _ => (t, evalFsub t rm e th)
  | .fmul t rm _ => (t, evalFmul t rm e th)
  | .fma t rm _ => (t, evalFma t rm e th)
  | .frcp t rm _ => (t, evalFrcp t rm e th)
  | .frsq t rm _ => (t, evalFrsq t rm e th)
  | .fexp2 t rm _ => (t, evalFexp2 t rm e th)
  | .flog2 t rm _ => (t, evalFlog2 t rm e th)
  | .fscale t rm _ => (t, evalFscale t rm e th)
  | .frnd t rm _ => (t, evalFrnd t rm e th)
  | .fmin t _ => (t, evalFmin t e th)
  | .fmax t _ => (t, evalFmax t e th)
  | _ => (.b32, 0, 0)
/-- R67: both halves read their sources, then write; a flag trap of either stops the word. -/
def execPairWord (x y : PairHalf) (s : State) : Host.Outcome State Fault Refusal :=
  issue (.pairWord x y) s fun e s =>
    let rs := e.parts.flatMap fun p => p.lanes.map fun l => (p, l, halfEval p (p.th l.2))
    let fl := e.lanes.map fun l =>
      (l.1, l.2, rs.foldl (fun a r => if r.2.1.1 = l.1 then a ||| r.2.2.2.2 else a) (0 : Flg))
    withFlags e s fl fun s => .go (rs.foldl (fun s r => writeD r.1 s r.2.2.1 [(r.2.1.2, r.2.2.2.1)]) s)

end Sys2Proof.Machine
end

