-- ==== Sys2Proof/Machine/LoadStore.lean ====
section
/-! DEFINITION. Loads, stores and atomics of private, scratchpad, vault, global and fabric space, the return of their data,
prefetch, fences and the crew barrier (R151 to R169). -/
namespace Sys2Proof.Machine

/-! ### Fabric: R155, R161, R342 -/

/-- R155: PEER and OFF. -/
def fabPeer (a : Nat) : Nat := bitsOf a 55 44
def fabOff (a : Nat) : Nat := a % 2 ^ 44
/-- R341, R342: the request of one element of a lane. -/
def fabPacket (s : State) (x : Ctx) (o : MemOp) (a i : Nat) (ops : List Nat) : Packet :=
  let data := match o.kind with
    | .write => leBytes o.w (ops.getD i 0)
    | .atomic => ops.flatMap (leBytes o.w)
    | _ => []
  { job := x.jobId, type := match o.kind with | .write => 1 | .atomic => 2 | _ => 0
    src := s.domain, dst := fabPeer a, injtb := s.timebase, off := fabOff (a + i * o.w), vl := 2 * x.fclass, ord := o.ord.code
    op := if o.kind = .atomic then o.t.code ++ o.aop.code.extractLsb' 0 4 else (o.t.code).setWidth 8
    tag := BitVec.ofNat 32 s.tagNext, len := if o.kind = .read then o.w else data.length, status := 0
    be := if o.kind = .write then BitVec.ofNat 256 (2 ^ data.length - 1) else 0, data := data }
/-- Elements of a lane's access. -/
def MemOp.elems (o : MemOp) : Nat := if o.kind = .atomic then 1 else o.count
/-- R342, R420: one lane's requests injected, or its fabric-target error at once. -/
def fabLane (e : Env) (o : MemOp) (id : Nat) (x : State × List LogLane) (l : Nat × Nat × Nat) : State × List LogLane :=
  let cx := x.1.ctx e.c.ctx
  let ops := captured e o (e.th l.2.1)
  let s := emptyDest x.1 e.c.id l.2.1 o.t e.f.d o.dcount
  match (if cx.jobV then s.route (fabPeer l.2.2) else none) with
  | none => (s, x.2 ++ [⟨l.1, l.2.1, BitVec.ofNat 64 l.2.2, ops.map (BitVec.ofNat 64), 9, 0, .dead⟩])
  | some port =>
    ((List.range o.elems).foldl (fun s i =>
      let p := fabPacket s cx o l.2.2 i ops
      let y : FabOut := ⟨p.tag, id, e.c.ctx, e.c.id, e.w.wid, l.1, l.2.1, e.instr, e.pc, i, BitVec.ofNat 64 (l.2.2 + i * o.w)⟩
      inject { s with tagNext := (s.tagNext + 1) % 2 ^ 32, fabOut := s.fabOut ++ [y] } port p) s, x.2)
/-- A load, store or atomic of fabric space. -/
def fabBody (o : MemOp) (m : MemExt) (e : Env) (s : State) : Res :=
  if e.lanes.isEmpty then .go s
  else
    let ls := e.addrs m
    let cx := s.ctx e.c.ctx
    match checkAddrs e.c cx .fabric o.bytes ls with
    | .trap t => .trap s t
    | .wait => .wait
    | .pass =>
      match orderCheck s e .fabric (o.kind != .read) o.bytes ls with
      | .trap t => .trap s t
      | .wait => .wait
      | .pass =>
        let need := ls.flatMap fun l => (List.range o.elems).map fun i => (fabPeer l.2.2, (fabPacket s cx o l.2.2 i (captured e o (e.th l.2.1))).size)
        if cx.jobV && (s.gangHolds cx.jobId || !s.roomFor need) then .wait
        else
          let s := clearFences s e
          let id := s.uid
          let r := ls.foldl (fabLane e o id) ({ s with uid := s.uid + 1 }, [])
          let s := addLog r.1 e id r.2
          .go (if ordAcq o.ord then addAcquire .fabric e.c.id id (ls.map (·.2.1)) s else s)

/-! ### The instructions: R157, R163 -/

/-- `ldp`. -/
def execLdp (t : Ty) (v : Vec) (m : MemExt) (f : Fields) (s : State) : Host.Outcome State Fault Refusal :=
  issue (.ldp t v m f) s (memBody ⟨.priv, .read, t, v.count, m.ord, .add⟩ m)
/-- `stp`. -/
def execStp (t : Ty) (v : Vec) (m : MemExt) (f : Fields) (s : State) : Host.Outcome State Fault Refusal :=
  issue (.stp t v m f) s (memBody ⟨.priv, .write, t, v.count, m.ord, .add⟩ m)
/-- `lds`. -/
def execLds (t : Ty) (v : Vec) (m : MemExt) (f : Fields) (s : State) : Host.Outcome State Fault Refusal :=
  issue (.lds t v m f) s (scratchBody ⟨.scratch, .read, t, v.count, m.ord, .add⟩ m)
/-- `sts`. -/
def execSts (t : Ty) (v : Vec) (m : MemExt) (f : Fields) (s : State) : Host.Outcome State Fault Refusal :=
  issue (.sts t v m f) s (scratchBody ⟨.scratch, .write, t, v.count, m.ord, .add⟩ m)
/-- `ldv`. -/
def execLdv (t : Ty) (v : Vec) (m : MemExt) (f : Fields) (s : State) : Host.Outcome State Fault Refusal :=
  issue (.ldv t v m f) s (memBody ⟨.vault, .read, t, v.count, m.ord, .add⟩ m)
/-- `stv`. -/
def execStv (t : Ty) (v : Vec) (m : MemExt) (f : Fields) (s : State) : Host.Outcome State Fault Refusal :=
  issue (.stv t v m f) s (memBody ⟨.vault, .write, t, v.count, m.ord, .add⟩ m)
/-- `ldg`. -/
def execLdg (t : Ty) (v : Vec) (m : MemExt) (f : Fields) (s : State) : Host.Outcome State Fault Refusal :=
  issue (.ldg t v m f) s (memBody ⟨.global, .read, t, v.count, m.ord, .add⟩ m)
/-- `stg`. -/
def execStg (t : Ty) (v : Vec) (m : MemExt) (f : Fields) (s : State) : Host.Outcome State Fault Refusal :=
  issue (.stg t v m f) s (memBody ⟨.global, .write, t, v.count, m.ord, .add⟩ m)
/-- `ldf`. -/
def execLdf (t : Ty) (v : Vec) (m : MemExt) (f : Fields) (s : State) : Host.Outcome State Fault Refusal :=
  issue (.ldf t v m f) s (fabBody ⟨.fabric, .read, t, v.count, m.ord, .add⟩ m)
/-- `stf`. -/
def execStf (t : Ty) (v : Vec) (m : MemExt) (f : Fields) (s : State) : Host.Outcome State Fault Refusal :=
  issue (.stf t v m f) s (fabBody ⟨.fabric, .write, t, v.count, m.ord, .add⟩ m)
/-- `atms`. -/
def execAtms (t : Ty) (op : AOp) (m : MemExt) (f : Fields) (s : State) : Host.Outcome State Fault Refusal :=
  issue (.atms t op m f) s (scratchBody ⟨.scratch, .atomic, t, 1, m.ord, op⟩ m)
/-- `atmv`. -/
def execAtmv (t : Ty) (op : AOp) (m : MemExt) (f : Fields) (s : State) : Host.Outcome State Fault Refusal :=
  issue (.atmv t op m f) s (memBody ⟨.vault, .atomic, t, 1, m.ord, op⟩ m)
/-- `atmg`. -/
def execAtmg (t : Ty) (op : AOp) (m : MemExt) (f : Fields) (s : State) : Host.Outcome State Fault Refusal :=
  issue (.atmg t op m f) s (memBody ⟨.global, .atomic, t, 1, m.ord, op⟩ m)
/-- `atmf`. -/
def execAtmf (t : Ty) (op : AOp) (m : MemExt) (f : Fields) (s : State) : Host.Outcome State Fault Refusal :=
  issue (.atmf t op m f) s (fabBody ⟨.fabric, .atomic, t, 1, m.ord, op⟩ m)
/-- MEMORY_RETURN: the data of an access reaches its registers, which are then full (R158). -/
def execMemoryReturn (id : Nat) (s : State) : Host.Outcome State Fault Refusal :=
  match s.rets.find? fun r => r.id == id with
  | none => .refused .notEnabled
  | some r => .next (writeRegs { s with rets := s.rets.filter fun x => x.id != id } r.crew [(r.tid, r.writes)])

/-! ### Prefetch: R166 -/

/-- R166: a line asked for; a bad address is dropped. The last-level cache holds no state that a program sees. -/
def prefetch (l1 : Bool) (m : MemExt) (e : Env) (s : State) : Res :=
  let core := e.c.warpCore e.w
  .go ((e.lanes.filter fun l => !prefetchDrops e l).foldl (fun s l =>
    let a := addrOf e.w (e.th l.2) e.f m
    if 2 ^ 56 ≤ a then s
    else
      match (xlate s (dieOf core) (some core) e.c.ctx a .read).2 with
      | .ok k _ =>
        let line := k / 128 * 128
        if l1 && s.cached k && !s.poisoned line 128 && !(s.l1.any fun x => x.core == core && x.line == line) then l1Fill s core line else s
      | _ => s) s)
/-- `pfg`. -/
def execPfg (m : MemExt) (f : Fields) (s : State) : Host.Outcome State Fault Refusal := issue (.pfg m f) s (prefetch true m)
/-- `pfg.llc`. -/
def execPfgLlc (m : MemExt) (f : Fields) (s : State) : Host.Outcome State Fault Refusal := issue (.pfgLlc m f) s (prefetch false m)

/-! ### Fences: R167 -/

/-- `fence.acq`. -/
def execFenceAcq (f : Fields) (s : State) : Host.Outcome State Fault Refusal :=
  issue (.fenceAcq f) s fun e s => .go (addFence true false s e)
/-- `fence.rel`. -/
def execFenceRel (f : Fields) (s : State) : Host.Outcome State Fault Refusal :=
  issue (.fenceRel f) s fun e s => .go (addFence false true s e)
/-- `fence.ar`. -/
def execFenceAr (f : Fields) (s : State) : Host.Outcome State Fault Refusal :=
  issue (.fenceAr f) s fun e s => .go (addFence true true s e)

/-! ### The crew barrier: R168 -/

/-- R168: threads arrive. -/
def arrive (c : Crew) (tids : List Nat) : Crew :=
  { c with barrier := { c.barrier with arrived := c.barrier.arrived + tids.length
                                       mask := tids.foldl (fun m t => m ||| (1 : BitVec 2048) <<< t) c.barrier.mask } }
/-- `bar`. -/
def execBar (f : Fields) (s : State) : Host.Outcome State Fault Refusal :=
  issueCtl (.bar f) s fun e s =>
    if e.lanes.isEmpty then .go (e.moveOn s)
    else
      match releaseCheck s e with
      | .trap t => .trap s t
      | .wait => .wait
      | .pass =>
        let s := holdLanes e .bar e.lanes s
        match s.crew? e.c.id with
        | none => .go s
        | some c =>
          let b := checkBar s.cycle (arrive c (e.lanes.map (·.2)))
          .go (acquireIf b.2 c.core (s.setCrew b.1))

end Sys2Proof.Machine
end

