-- ==== Sys2Proof/Machine/Predicate.lean ====
section
/-! DEFINITION. Predicate instructions: R108, R109. -/
namespace Sys2Proof.Machine

/-- R108: a predicate computed in each executing lane. -/
def predBody (g : Env → Thread → Bool) (e : Env) (s : State) : Res :=
  .go (writeP e s (e.lanes.map fun l => (l.2, g e (e.th l.2))))
/-- The sources, inverted by FN[0] and FN[1]. -/
def predA (n : Bool) (e : Env) (th : Thread) : Bool := predOf th e.f.a != n
def predB (n : Bool) (e : Env) (th : Thread) : Bool := predOf th e.f.b != n
/-- `pand`. -/
def execPand (na nb : Bool) (f : Fields) (s : State) : Host.Outcome State Fault Refusal :=
  issue (.pand na nb f) s (predBody fun e th => predA na e th && predB nb e th)
/-- `por`. -/
def execPor (na nb : Bool) (f : Fields) (s : State) : Host.Outcome State Fault Refusal :=
  issue (.por na nb f) s (predBody fun e th => predA na e th || predB nb e th)
/-- `pxor`. -/
def execPxor (na nb : Bool) (f : Fields) (s : State) : Host.Outcome State Fault Refusal :=
  issue (.pxor na nb f) s (predBody fun e th => predA na e th != predB nb e th)
/-- `pnot`. -/
def execPnot (f : Fields) (s : State) : Host.Outcome State Fault Refusal :=
  issue (.pnot f) s (predBody fun e th => predA true e th)
/-- `pmov`. -/
def execPmov (f : Fields) (s : State) : Host.Outcome State Fault Refusal :=
  issue (.pmov f) s (predBody fun e th => predA false e th)
/-- R109: the predicates of a group below `.preds`, as 32 bits. -/
def predGroup (sh : Shape) (grp : BitVec 2) (th : Thread) : Nat :=
  (List.range 32).foldl (fun x i =>
    let n := 32 * grp.toNat + i
    if decide (n < sh.preds) && th.pred n then x + 2 ^ i else x) 0
/-- `ppack`: R109, with an `s` destination under R97. -/
def execPpack (grp : BitVec 2) (f : Fields) (s : State) : Host.Outcome State Fault Refusal :=
  issue (.ppack grp f) s fun e s => .go (writeD e s .n32 (e.lanes.map fun l => (l.2, predGroup e.sh grp (e.th l.2))))
/-- `punpack`: R109. -/
def execPunpack (grp : BitVec 2) (f : Fields) (s : State) : Host.Outcome State Fault Refusal :=
  issue (.punpack grp f) s fun e s =>
    .go (s.modCrew e.c.id fun c => e.lanes.foldl (fun c l => c.modThread l.2 fun t =>
      (List.range 32).foldl (fun t i =>
        let n := 32 * grp.toNat + i
        if n < e.sh.preds then t.setPred n ((srcBits e.w (e.th l.2) .n32 e.f.a).testBit i) else t) t) c)

end Sys2Proof.Machine
end

