-- ==== Sys2Proof/Machine/Dispatch.lean ====
section
/-! DEFINITION. One arm per instruction: a direct call of its meaning. -/
namespace Sys2Proof.Machine

/-- R81, R385 and the events: the meaning of an instruction in a state. -/
def exec (i : Instr) (s : State) : Host.Outcome State Fault Refusal :=
  match i with
  | .nopN f => Sys2Proof.Machine.execNopN f s
  | .nopI f => Sys2Proof.Machine.execNopI f s
  | .nopW f => Sys2Proof.Machine.execNopW f s
  | .pairWord x y => Sys2Proof.Machine.execPairWord x y s
  | .bra f => Sys2Proof.Machine.execBra f s
  | .bri f => Sys2Proof.Machine.execBri f s
  | .call f => Sys2Proof.Machine.execCall f s
  | .calli f => Sys2Proof.Machine.execCalli f s
  | .ret f => Sys2Proof.Machine.execRet f s
  | .exit f => Sys2Proof.Machine.execExit f s
  | .park f => Sys2Proof.Machine.execPark f s
  | .jset j f => Sys2Proof.Machine.execJset j f s
  | .jwait j f => Sys2Proof.Machine.execJwait j f s
  | .mig f => Sys2Proof.Machine.execMig f s
  | .migCommit crew warp => Sys2Proof.Machine.execMigCommit crew warp s
  | .add t sat f => Sys2Proof.Machine.execAdd t sat f s
  | .sub t sat f => Sys2Proof.Machine.execSub t sat f s
  | .min t sat f => Sys2Proof.Machine.execMin t sat f s
  | .max t sat f => Sys2Proof.Machine.execMax t sat f s
  | .abs t sat f => Sys2Proof.Machine.execAbs t sat f s
  | .neg t sat f => Sys2Proof.Machine.execNeg t sat f s
  | .and t sat f => Sys2Proof.Machine.execAnd t sat f s
  | .or t sat f => Sys2Proof.Machine.execOr t sat f s
  | .xor t sat f => Sys2Proof.Machine.execXor t sat f s
  | .andn t sat f => Sys2Proof.Machine.execAndn t sat f s
  | .not t sat f => Sys2Proof.Machine.execNot t sat f s
  | .shl t sat f => Sys2Proof.Machine.execShl t sat f s
  | .shr t sat f => Sys2Proof.Machine.execShr t sat f s
  | .sar t sat f => Sys2Proof.Machine.execSar t sat f s
  | .rot t sat f => Sys2Proof.Machine.execRot t sat f s
  | .mov t sat f => Sys2Proof.Machine.execMov t sat f s
  | .mul t sat f => Sys2Proof.Machine.execMul t sat f s
  | .mulh t sat f => Sys2Proof.Machine.execMulh t sat f s
  | .mad t sat f => Sys2Proof.Machine.execMad t sat f s
  | .bfx t sat f => Sys2Proof.Machine.execBfx t sat f s
  | .bfi t sat f => Sys2Proof.Machine.execBfi t sat f s
  | .popc t sat f => Sys2Proof.Machine.execPopc t sat f s
  | .clz t sat f => Sys2Proof.Machine.execClz t sat f s
  | .ctz t sat f => Sys2Proof.Machine.execCtz t sat f s
  | .fnth t sat f => Sys2Proof.Machine.execFnth t sat f s
  | .brev t sat f => Sys2Proof.Machine.execBrev t sat f s
  | .cmp t c f => Sys2Proof.Machine.execCmp t c f s
  | .sel t f => Sys2Proof.Machine.execSel t f s
  | .moviB32 f => Sys2Proof.Machine.execMoviB32 f s
  | .moviB64I f => Sys2Proof.Machine.execMoviB64I f s
  | .moviB64W x f => Sys2Proof.Machine.execMoviB64W x f s
  | .pand na nb f => Sys2Proof.Machine.execPand na nb f s
  | .por na nb f => Sys2Proof.Machine.execPor na nb f s
  | .pxor na nb f => Sys2Proof.Machine.execPxor na nb f s
  | .pnot f => Sys2Proof.Machine.execPnot f s
  | .pmov f => Sys2Proof.Machine.execPmov f s
  | .ppack grp f => Sys2Proof.Machine.execPpack grp f s
  | .punpack grp f => Sys2Proof.Machine.execPunpack grp f s
  | .voteAll f => Sys2Proof.Machine.execVoteAll f s
  | .voteAny f => Sys2Proof.Machine.execVoteAny f s
  | .voteUni f => Sys2Proof.Machine.execVoteUni f s
  | .ballot f => Sys2Proof.Machine.execBallot f s
  | .shfl t mode f => Sys2Proof.Machine.execShfl t mode f s
  | .redux t rop f => Sys2Proof.Machine.execRedux t rop f s
  | .elect f => Sys2Proof.Machine.execElect f s
  | .lmov t f => Sys2Proof.Machine.execLmov t f s
  | .zip2 t f => Sys2Proof.Machine.execZip2 t f s
  | .zip3 t f => Sys2Proof.Machine.execZip3 t f s
  | .zip4 t f => Sys2Proof.Machine.execZip4 t f s
  | .unzip2 t f => Sys2Proof.Machine.execUnzip2 t f s
  | .unzip3 t f => Sys2Proof.Machine.execUnzip3 t f s
  | .unzip4 t f => Sys2Proof.Machine.execUnzip4 t f s
  | .fadd t rm f => Sys2Proof.Machine.execFadd t rm f s
  | .fsub t rm f => Sys2Proof.Machine.execFsub t rm f s
  | .fmul t rm f => Sys2Proof.Machine.execFmul t rm f s
  | .fma t rm f => Sys2Proof.Machine.execFma t rm f s
  | .fmin t f => Sys2Proof.Machine.execFmin t f s
  | .fmax t f => Sys2Proof.Machine.execFmax t f s
  | .fdiv t rm f => Sys2Proof.Machine.execFdiv t rm f s
  | .fsqrt t rm f => Sys2Proof.Machine.execFsqrt t rm f s
  | .fcmp t c f => Sys2Proof.Machine.execFcmp t c f s
  | .fsel t f => Sys2Proof.Machine.execFsel t f s
  | .fclass t f => Sys2Proof.Machine.execFclass t f s
  | .frcp t rm f => Sys2Proof.Machine.execFrcp t rm f s
  | .frsq t rm f => Sys2Proof.Machine.execFrsq t rm f s
  | .fexp2 t rm f => Sys2Proof.Machine.execFexp2 t rm f s
  | .flog2 t rm f => Sys2Proof.Machine.execFlog2 t rm f s
  | .fscale t rm f => Sys2Proof.Machine.execFscale t rm f s
  | .frnd t rm f => Sys2Proof.Machine.execFrnd t rm f s
  | .fsin t rm f => Sys2Proof.Machine.execFsin t rm f s
  | .fcos t rm f => Sys2Proof.Machine.execFcos t rm f s
  | .cvt td ts sat f => Sys2Proof.Machine.execCvt td ts sat f s
  | .fcvt td ts rm f => Sys2Proof.Machine.execFcvt td ts rm f s
  | .linkDigitDelivery crew tid link => Sys2Proof.Machine.execLinkDigitDelivery crew tid link s
  | .ldp t vec m f => Sys2Proof.Machine.execLdp t vec m f s
  | .stp t vec m f => Sys2Proof.Machine.execStp t vec m f s
  | .lds t vec m f => Sys2Proof.Machine.execLds t vec m f s
  | .sts t vec m f => Sys2Proof.Machine.execSts t vec m f s
  | .ldv t vec m f => Sys2Proof.Machine.execLdv t vec m f s
  | .stv t vec m f => Sys2Proof.Machine.execStv t vec m f s
  | .ldg t vec m f => Sys2Proof.Machine.execLdg t vec m f s
  | .stg t vec m f => Sys2Proof.Machine.execStg t vec m f s
  | .ldf t vec m f => Sys2Proof.Machine.execLdf t vec m f s
  | .stf t vec m f => Sys2Proof.Machine.execStf t vec m f s
  | .ldd t m f => Sys2Proof.Machine.execLdd t m f s
  | .std t m f => Sys2Proof.Machine.execStd t m f s
  | .pfg m f => Sys2Proof.Machine.execPfg m f s
  | .pfgLlc m f => Sys2Proof.Machine.execPfgLlc m f s
  | .fenceAcq f => Sys2Proof.Machine.execFenceAcq f s
  | .fenceRel f => Sys2Proof.Machine.execFenceRel f s
  | .fenceAr f => Sys2Proof.Machine.execFenceAr f s
  | .bar f => Sys2Proof.Machine.execBar f s
  | .memoryReturn id => Sys2Proof.Machine.execMemoryReturn id s
  | .atms t op m f => Sys2Proof.Machine.execAtms t op m f s
  | .atmv t op m f => Sys2Proof.Machine.execAtmv t op m f s
  | .atmg t op m f => Sys2Proof.Machine.execAtmg t op m f s
  | .atmf t op m f => Sys2Proof.Machine.execAtmf t op m f s
  | .swinit m f => Sys2Proof.Machine.execSwinit m f s
  | .swarrive m f => Sys2Proof.Machine.execSwarrive m f s
  | .swait m f => Sys2Proof.Machine.execSwait m f s
  | .cpy qpri f => Sys2Proof.Machine.execCpy qpri f s
  | .copyGranule crew entry => Sys2Proof.Machine.execCopyGranule crew entry s
  | .cpyq f => Sys2Proof.Machine.execCpyq f s
  | .tld space stride disp f => Sys2Proof.Machine.execTld space stride disp f s
  | .tileLoadComplete crew id => Sys2Proof.Machine.execTileLoadComplete crew id s
  | .tst space stride disp f => Sys2Proof.Machine.execTst space stride disp f s
  | .tileStoreReadDone crew id => Sys2Proof.Machine.execTileStoreReadDone crew id s
  | .tzero f => Sys2Proof.Machine.execTzero f s
  | .mmx mpri f => Sys2Proof.Machine.execMmx mpri f s
  | .matrixPassGrant quad => Sys2Proof.Machine.execMatrixPassGrant quad s
  | .matrixPassEnd quad => Sys2Proof.Machine.execMatrixPassEnd quad s
  | .mmq f => Sys2Proof.Machine.execMmq f s
  | .csrr num f => Sys2Proof.Machine.execCsrr num f s
  | .csrw num f => Sys2Proof.Machine.execCsrw num f s
  | .trap code f => Sys2Proof.Machine.execTrap code f s
  | .assert msg f => Sys2Proof.Machine.execAssert msg f s
  | .brk code f => Sys2Proof.Machine.execBrk code f s
  | .rte f => Sys2Proof.Machine.execRte f s
  | .lrd kind f => Sys2Proof.Machine.execLrd kind f s
  | .lwr kind f => Sys2Proof.Machine.execLwr kind f s
  | .time f => Sys2Proof.Machine.execTime f s
  | .timeOrd f => Sys2Proof.Machine.execTimeOrd f s
  | .cstep f => Sys2Proof.Machine.execCstep f s
  | .vgat f => Sys2Proof.Machine.execVgat f s
  | .dmov f => Sys2Proof.Machine.execDmov f s
  | .lcpy n f => Sys2Proof.Machine.execLcpy n f s
  | .microStep crew warp => Sys2Proof.Machine.execMicroStep crew warp s
  | .illegalInstruction cause tval => Sys2Proof.Machine.execIllegalInstruction cause tval s
  | .poolCycle crew => Sys2Proof.Machine.execPoolCycle crew s
  | .laneRefill crew warp lane => Sys2Proof.Machine.execLaneRefill crew warp lane s
  | .idleHandoff crew warp entry => Sys2Proof.Machine.execIdleHandoff crew warp entry s
  | .pageWalk die ctx va kind => Sys2Proof.Machine.execPageWalk die ctx va kind s
  | .pageRequest die ctx vpage => Sys2Proof.Machine.execPageRequest die ctx vpage s
  | .prgResponse prgi code => Sys2Proof.Machine.execPrgResponse prgi code s
  | .atsInvalidateRequest pasid addr pages => Sys2Proof.Machine.execAtsInvalidateRequest pasid addr pages s
  | .invalidateRange ctx addr count => Sys2Proof.Machine.execInvalidateRange ctx addr count s
  | .invalidateContext ctx => Sys2Proof.Machine.execInvalidateContext ctx s
  | .invalidateAll => Sys2Proof.Machine.execInvalidateAll s
  | .invalidationComplete => Sys2Proof.Machine.execInvalidationComplete s
  | .migrationGo slot => Sys2Proof.Machine.execMigrationGo slot s
  | .migrationLineCopy slot => Sys2Proof.Machine.execMigrationLineCopy slot s
  | .migrationEnd slot => Sys2Proof.Machine.execMigrationEnd slot s
  | .mcCommit stack ch => Sys2Proof.Machine.execMcCommit stack ch s
  | .channelSlot stack ch => Sys2Proof.Machine.execChannelSlot stack ch s
  | .stopSaveContext ctx reason => Sys2Proof.Machine.execStopSaveContext ctx reason s
  | .stopSaveCrew ctx pos reason => Sys2Proof.Machine.execStopSaveCrew ctx pos reason s
  | .stopInPlace ctx reason => Sys2Proof.Machine.execStopInPlace ctx reason s
  | .resumeInPlace ctx => Sys2Proof.Machine.execResumeInPlace ctx s
  | .stopComplete ctx => Sys2Proof.Machine.execStopComplete ctx s
  | .debugHalt ctx => Sys2Proof.Machine.execDebugHalt ctx s
  | .debugResume ctx => Sys2Proof.Machine.execDebugResume ctx s
  | .discardPendingTraps ctx => Sys2Proof.Machine.execDiscardPendingTraps ctx s
  | .dumpRequest ctx => Sys2Proof.Machine.execDumpRequest ctx s
  | .ckptEnable ctx => Sys2Proof.Machine.execCkptEnable ctx s
  | .ckptCut ctx => Sys2Proof.Machine.execCkptCut ctx s
  | .ckptFull ctx => Sys2Proof.Machine.execCkptFull ctx s
  | .timerTrigger ctx => Sys2Proof.Machine.execTimerTrigger ctx s
  | .intervalCut ctx => Sys2Proof.Machine.execIntervalCut ctx s
  | .protectedUnitWrite ctx unit => Sys2Proof.Machine.execProtectedUnitWrite ctx unit s
  | .shardStream ctx => Sys2Proof.Machine.execShardStream ctx s
  | .indexWaitTimeout ctx => Sys2Proof.Machine.execIndexWaitTimeout ctx s
  | .intervalSeal ctx => Sys2Proof.Machine.execIntervalSeal ctx s
  | .costUpdate => Sys2Proof.Machine.execCostUpdate s
  | .restore ctx => Sys2Proof.Machine.execRestore ctx s
  | .gangSwitchOut => Sys2Proof.Machine.execGangSwitchOut s
  | .gangInstant => Sys2Proof.Machine.execGangInstant s
  | .sweepSealed => Sys2Proof.Machine.execSweepSealed s
  | .gangClose => Sys2Proof.Machine.execGangClose s
  | .gangSwitchIn => Sys2Proof.Machine.execGangSwitchIn s
  | .fabricLoadRequest port vl => Sys2Proof.Machine.execFabricLoadRequest port vl s
  | .fabricStoreRequest port vl => Sys2Proof.Machine.execFabricStoreRequest port vl s
  | .fabricAtomicRequest port vl => Sys2Proof.Machine.execFabricAtomicRequest port vl s
  | .fabricReply port vl => Sys2Proof.Machine.execFabricReply port vl s
  | .fabricNegativeReply port vl => Sys2Proof.Machine.execFabricNegativeReply port vl s
  | .ready job peer => Sys2Proof.Machine.execReady job peer s
  | .notready job peer => Sys2Proof.Machine.execNotready job peer s
  | .timeExchange => Sys2Proof.Machine.execTimeExchange s
  | .fabDomainWrite v num => Sys2Proof.Machine.execFabDomainWrite v num s
  | .portTraining port ok => Sys2Proof.Machine.execPortTraining port ok s
  | .ueDirtyLlcLine line set way det => Sys2Proof.Machine.execUeDirtyLlcLine line set way det s
  | .ueCleanLlcLine line set way det => Sys2Proof.Machine.execUeCleanLlcLine line set way det s
  | .ueDramGranule addr reader => Sys2Proof.Machine.execUeDramGranule addr reader s
  | .ueVaultLine quad off => Sys2Proof.Machine.execUeVaultLine quad off s
  | .ueCrewState crew part => Sys2Proof.Machine.execUeCrewState crew part s
  | .rollback ctx => Sys2Proof.Machine.execRollback ctx s
  | .scrubGranule stack => Sys2Proof.Machine.execScrubGranule stack s
  | .coreSpareMap die quadrant v core => Sys2Proof.Machine.execCoreSpareMap die quadrant v core s
  | .dieFence dies => Sys2Proof.Machine.execDieFence dies s
  | .stackFenceGo stack => Sys2Proof.Machine.execStackFenceGo stack s
  | .stackFenceEnd => Sys2Proof.Machine.execStackFenceEnd s
  | .doorbell q x => Sys2Proof.Machine.execDoorbell q x s
  | .queueEnable q log2 => Sys2Proof.Machine.execQueueEnable q log2 s
  | .queueExamination => Sys2Proof.Machine.execQueueExamination s
  | .sorrelEnd => Sys2Proof.Machine.execSorrelEnd s
  | .sorrelLi ka imm => Sys2Proof.Machine.execSorrelLi ka imm s
  | .sorrelPkw ka n => Sys2Proof.Machine.execSorrelPkw ka n s
  | .sorrelLdw ka kb w off => Sys2Proof.Machine.execSorrelLdw ka kb w off s
  | .sorrelStw ka kb w off => Sys2Proof.Machine.execSorrelStw ka kb w off s
  | .sorrelAdd ka kb imm => Sys2Proof.Machine.execSorrelAdd ka kb imm s
  | .sorrelAddk ka kb => Sys2Proof.Machine.execSorrelAddk ka kb s
  | .sorrelAndi ka kb imm => Sys2Proof.Machine.execSorrelAndi ka kb imm s
  | .sorrelShr ka kb imm => Sys2Proof.Machine.execSorrelShr ka kb imm s
  | .sorrelBz ka n => Sys2Proof.Machine.execSorrelBz ka n s
  | .sorrelBnz ka n => Sys2Proof.Machine.execSorrelBnz ka n s
  | .sorrelRep n len => Sys2Proof.Machine.execSorrelRep n len s
  | .sorrelCst c ka => Sys2Proof.Machine.execSorrelCst c ka s
  | .sorrelDep ka => Sys2Proof.Machine.execSorrelDep ka s
  | .sorrelCond kb w off => Sys2Proof.Machine.execSorrelCond kb w off s
  | .sorrelEmit w off => Sys2Proof.Machine.execSorrelEmit w off s
  | .nodeResolve node => Sys2Proof.Machine.execNodeResolve node s
  | .bindCommit core slot q0 q1 => Sys2Proof.Machine.execBindCommit core slot q0 q1 s
  | .schedStart launch => Sys2Proof.Machine.execSchedStart launch s
  | .launchComplete launch => Sys2Proof.Machine.execLaunchComplete launch s
  | .boot bad hostOk => Sys2Proof.Machine.execBoot bad hostOk s
  | .firmwareImageUpdate cls image sig => Sys2Proof.Machine.execFirmwareImageUpdate cls image sig s
  | .bankSwitch cls => Sys2Proof.Machine.execBankSwitch cls s
  | .resetContext ctx => Sys2Proof.Machine.execResetContext ctx s
  | .resetCore core => Sys2Proof.Machine.execResetCore core s
  | .resetMatrixEngine quad => Sys2Proof.Machine.execResetMatrixEngine quad s
  | .resetCopyEngine quad => Sys2Proof.Machine.execResetCopyEngine quad s
  | .resetComputeDie die => Sys2Proof.Machine.execResetComputeDie die s
  | .resetMemoryStack stack => Sys2Proof.Machine.execResetMemoryStack stack s
  | .resetFabricPort port => Sys2Proof.Machine.execResetFabricPort port s
  | .resetFabricDie die => Sys2Proof.Machine.execResetFabricDie die s
  | .resetCommandPath => Sys2Proof.Machine.execResetCommandPath s
  | .resetManagementComplex => Sys2Proof.Machine.execResetManagementComplex s
  | .resetHostDieFunctions => Sys2Proof.Machine.execResetHostDieFunctions s
  | .resetPackage => Sys2Proof.Machine.execResetPackage s
  | .watchdogExpiry => Sys2Proof.Machine.execWatchdogExpiry s
  | .hostFlr => Sys2Proof.Machine.execHostFlr s
  | .linkErrorLimit port => Sys2Proof.Machine.execLinkErrorLimit port s
  | .junctionThrottle island => Sys2Proof.Machine.execJunctionThrottle island s
  | .junctionTrip socket => Sys2Proof.Machine.execJunctionTrip socket s
  | .telemetryPeriodic schema => Sys2Proof.Machine.execTelemetryPeriodic schema s
  | .registerWrite addr wide x => Sys2Proof.Machine.execRegisterWrite addr wide x s
  | .stackFenceGranuleCopy => Sys2Proof.Machine.execStackFenceGranuleCopy s
  | .priStoppedClear => Sys2Proof.Machine.execPriStoppedClear s
  | .atsCompletion pasid page host => Sys2Proof.Machine.execAtsCompletion pasid page host s
  | .contextImageRestore ctx addr => Sys2Proof.Machine.execContextImageRestore ctx addr s
  | .standbyEntry => Sys2Proof.Machine.execStandbyEntry s

end Sys2Proof.Machine
end

