-- ==== Sys2Proof/Machine/Run.lean ====
section
/-! DEFINITION. One move of the machine: a warp issues, a Sorrel bytecode runs, an event happens, or the environment acts (log entry 4). -/
namespace Sys2Proof.Machine

/-- R61, R238: the warp issues the instruction it stands at; of a context whose stop is under way, unless a trap of its own is
pending (R300, R319). -/
def issueWith (run : Instr → State → Host.Outcome State Fault Refusal) (s : State) (crew wid : Nat) : Host.Outcome State Fault Refusal :=
  match s.crew? crew with
  | none => .refused .notEnabled
  | some c =>
    match c.warp? wid with
    | none => .refused .notEnabled
    | some w =>
      if !Crew.runs s c && !(Crew.lags s c && w.trap.isNone) then .refused .notEnabled
      else match fetch s c w with
        | none => .refused .notEnabled
        | some (.over t) => .next t
        | some (.run i t) => run i t
/-- R61, R238: the warp issues the instruction it stands at. -/
def issueStep (s : State) (crew wid : Nat) : Host.Outcome State Fault Refusal := issueWith exec s crew wid
/-- R158, R159: the same for a load, store or atomic of memory, which is put on its way and performed lane by lane later; any other
instruction does not issue so (log entry 3). -/
def execLate (i : Instr) (s : State) : Host.Outcome State Fault Refusal :=
  match memOf i with
  | some (o, m) => if o.space = .global ∨ o.space = .priv ∨ o.space = .vault then issue i s (lateBody o m) else .refused .notEnabled
  | none => .refused .notEnabled
/-- A warp outside its handler issues an access that is performed later. -/
def issueLate (s : State) (crew wid : Nat) : Host.Outcome State Fault Refusal :=
  if ((s.crew? crew).bind fun c => c.warp? wid).any fun w => w.handler.isSome then .refused .notEnabled else issueWith execLate s crew wid
/-- R385, R387: the bytecode that the packet in progress stands at. -/
def sorrelMove (s : State) : Host.Outcome State Fault Refusal :=
  match s.sorrel with
  | none => .refused .notEnabled
  | some p => match decodeSorrel (p.prog.getD p.pc 0) with
    | some i => exec i s
    | none => .refused .notEnabled
/-- The instruction is an event: no warp and no packet issues it. -/
def Instr.isEvent (i : Instr) : Bool := i.fields?.isNone && (encodeSorrel i).isNone && (match i with | .pairWord _ _ => false | _ => true)
/-- An event happens. -/
def eventStep (i : Instr) (s : State) : Host.Outcome State Fault Refusal :=
  if Instr.isEvent i then exec i { s with cur := none } else .refused .notEnabled
/-- A move. In standby nothing runs but boot, and what an island without power does not happen (R14, R26). -/
def doMove (s : State) (m : Move) : Host.Outcome State Fault Refusal :=
  let dark := s.plat.standby && !m.outside && (match m with | .event (.boot _ _) => false | _ => true)
  if dark then .fault .standby
  else if !s.powers m then .refused .notEnabled
  else match m with
    | .issue crew wid => issueStep s crew wid
    | .issueLate crew wid => issueLate s crew wid
    | .sorrel => sorrelMove s
    | .event i => eventStep i s
    | m => match moveDo s m with | some t => .next t | none => .refused .notEnabled
/-- Whether an issue goes through now, or waits for something that it has only now asked for. -/
def goes (s : State) (x : Crew × Warp) : Bool :=
  match issueStep s x.1.id x.2.wid with
  | .next t => !t.waited || decide ({ t with cur := s.cur, waited := s.waited } ≠ s)
  | _ => false
/-- The first move of a list that changes the state. -/
def firstMove (s : State) : List Move → Option State
  | [] => none
  | m :: r => match doMove s m with
    | .next t => if t = s then firstMove s r else some t
    | _ => firstMove s r
/-- What an engine does, each in its turn. -/
def engineMove (s : State) : Option State := let l := engineMoves s; firstMove s (l.rotateLeft (s.cycle % (l.length + 1)))
/-- R239: in each cycle a warp that is ready has waited one cycle longer, and one that is not starts anew; an issue puts it back to 0. -/
def countReady (s : State) : State :=
  { s with crews := s.crews.map fun c => { c with warps := c.warps.map fun w =>
      { w with waiting := if Crew.runs s c && goes s (c, w) then w.waiting + 1 else 0 } } }
/-- A cycle begins. -/
def tick (s : State) : State := countReady (clock s)
/-- The first ready warp issues (R239). -/
def warpMove (s : State) : Option State :=
  let ready := (runningWarps s).filter (goes s)
  match firstWarp s ready with
  | some x => match issueStep s x.1.id x.2.wid with | .next t => some t | _ => none
  | none => none
/-- The packet in progress goes on. -/
def packetMove (s : State) : Option State := match doMove s .sorrel with | .next t => if t = s then none else some t | _ => none
/-- What moves when nothing is on the agenda: the packet in progress; else an engine that can, and every 64th time a ready warp
before it; else nobody (log entry 4). -/
def freeMove (s : State) : Host.Outcome State Fault Refusal :=
  if s.plat.standby then .next s
  else
    let a := if s.cycle % 64 = 63 then warpMove s else engineMove s
    let b := if s.cycle % 64 = 63 then engineMove s else warpMove s
    .next (((packetMove s).or (a.or b)).getD s)

end Sys2Proof.Machine
end

