-- ==== Sys2Proof/Machine/Step.lean ====
section
/-! DEFINITION. The step. -/
namespace Sys2Proof.Machine

/-- One step: the clock, then the next move of the agenda, or what the module does of itself. -/
def step (s : State) : Host.Outcome State Fault Refusal :=
  let t := tick s
  match t.agenda with
  | [] => freeMove t
  | m :: r => doMove { t with agenda := r } m
/-- The word stored where `step` fetches next: a Sorrel bytecode of 32 bits in a packet in progress, an Arben word in a started crew
(log entry 5). -/
def State.withFetchWord (s : State) (nbits w : Nat) : State := if nbits ≤ 32 then placeSorrel s w else placeArben s w

end Sys2Proof.Machine
end

