-- ==== Sys2Proof/Safety.lean ====
section
/-! DEFINITION. What the statements speak of: an instruction that is ready to run, the state it leaves, what a step may not touch,
and the invariants. -/
namespace Sys2Proof.Machine

/-! ### An instruction that runs -/

/-- R299: the warp that the cursor names issues `i` in the lanes of `e`, and nothing that R299 puts before the instruction's own
checks traps it or keeps it waiting: no empty source, no busy or wrong link, no unrecoverable access that surfaces, no pending
destination, and, in handler mode, an instruction that R212 allows. -/
def Ready (i : Instr) (s : State) (e : Env) : Prop := envOf i s = some e ∧ preCheck e = .pass
/-- The state after an instruction that left `t`: its frontier entry, or the handler, moves past it (R110). -/
def done (e : Env) (t : State) : State := e.advance { t with waited := false }
/-- The same for an instruction that placed its lanes itself. -/
def placed (e : Env) (t : State) : State := e.noted { t with waited := false }
/-- R27, R97: every executing lane writes the value `g` gives its thread to D, as a result of type `t`. -/
def retires (e : Env) (s : State) (t : Ty) (g : Thread → Nat) : State :=
  done e (writeD e s t (e.lanes.map fun l => (l.2, g (e.th l.2))))
/-- Every executing lane writes the predicate `g` gives its thread to D. -/
def retireP (e : Env) (s : State) (g : Thread → Bool) : State :=
  done e (writeP e s (e.lanes.map fun l => (l.2, g (e.th l.2))))
/-- The state of an instruction that traps. -/
def trapped (e : Env) (s : State) (t : Trap) : State := takeTrap { s with waited := false } e.c.id e.w.wid e.eid e.pc e.len t
/-- Nothing of the crew is under way: no deferred access, tile transfer or fabric request, no fence mark. -/
structure Quiet (s : State) (e : Env) : Prop where
  log : e.c.log = []
  transfers : e.c.transfers = []
  fabric : ∀ x ∈ s.fabOut, x.crew ≠ e.c.id
  fences : ∀ l ∈ e.lanes, (e.th l.2).facq = none ∧ (e.th l.2).frel = none
/-- The warp is in no handler, at home, without a deferred access or tile transfer of its crew; the threads of the entry have no link
instruction in flight. -/
structure Calm (i : Instr) (s : State) (e : Env) : Prop where
  env : envOf i s = some e
  user : e.w.handler = none
  home : e.w.away = none
  log : e.c.log = []
  transfers : e.c.transfers = []
  chain : ∀ l ∈ e.w.lanesIn e.mask, (e.th l.2).chain = []
/-- Such a warp whose threads have every register full. -/
def Settled (i : Instr) (s : State) (e : Env) : Prop := Calm i s e ∧ ∀ l ∈ e.w.lanesIn e.mask, ∀ b ∈ (e.th l.2).full, b = true
/-- No operand of the instruction is a link (R138). -/
abbrev noLinks (f : Fields) : Prop := ∀ o ∈ [f.d, f.a, f.b, f.c], ∀ n, o ≠ .l n
/-- The instruction is one that only a handler may run (R205, R213, R214). -/
def handlerOnly : Instr → Bool
  | .rte _ | .lrd _ _ | .lwr _ _ => true
  | .csrr num _ | .csrw num _ => csrHandler num.toNat
  | _ => false
/-- Whenever the instruction is ready it goes on: every executing lane writes a result of type `t` that stands in `p` to its thread's
operands. -/
def Yields (i : Instr) (s : State) (e : Env) (t : Ty) (p : Thread → Nat → Prop) : Prop :=
  Ready i s e → ∃ g, exec i s = .next (retires e s t g) ∧ ∀ th, p th (g th)
/-- The same for a predicate result. -/
def YieldsP (i : Instr) (s : State) (e : Env) (p : Thread → Prop) : Prop :=
  Ready i s e → ∃ g, exec i s = .next (retireP e s g) ∧ ∀ th, g th = true ↔ p th
/-- Whenever a cross-lane instruction is ready, some lane executes it and every live member of its mask stands in the entry (R123), each
participant gets a predicate. -/
def CrossP (i : Instr) (s : State) (e : Env) (p : Nat × Nat → Prop) : Prop :=
  Ready i s e → e.lanes ≠ [] → e.absent = 0 →
    ∃ g : Nat × Nat → Bool, exec i s = .next (done e (writeP e s (e.participants.map fun l => (l.2, g l)))) ∧ ∀ l ∈ e.participants, g l = true ↔ p l
/-- The same for a result of a type. -/
def CrossV (i : Instr) (s : State) (e : Env) (t : Ty) (p : Nat × Nat → Nat → Prop) : Prop :=
  Ready i s e → e.lanes ≠ [] → e.absent = 0 →
    ∃ g : Nat × Nat → Nat, exec i s = .next (done e (writeD e s t (e.participants.map fun l => (l.2, g l)))) ∧ ∀ l ∈ e.participants, p l (g l)
/-- The same for registers given by number. -/
def CrossR (i : Instr) (s : State) (e : Env) (p : Nat × Nat → List (Nat × Word) → Prop) : Prop :=
  Ready i s e → e.lanes ≠ [] → e.absent = 0 →
    ∃ g : Nat × Nat → List (Nat × Word), exec i s = .next (done e (writeRegs s e.c.id (e.participants.map fun l => (l.2, g l)))) ∧ ∀ l ∈ e.participants, p l (g l)
/-- R125: `r` is what lane `src` supplies: its A, or 0 where it is no participant. -/
def Supplied (t : Ty) (e : Env) (src r : Nat) : Prop :=
  (∀ m ∈ e.participants, m.1 = src → r = bitsA t e (e.th m.2)) ∧ ((∀ m ∈ e.participants, m.1 ≠ src) → r = 0)
/-- R36: sticky flags raised in every executing lane. -/
def raised (e : Env) (s : State) (fl : Thread → Flg) : State :=
  s.modCrew e.c.id fun c => e.lanes.foldl (fun c l => c.modThread l.2 fun t => t.raise (fl (e.th l.2))) c
/-- R37: whenever a floating-point instruction that names no link is ready, it raises its flags, and either writes its results, or, where
a lane raises a flag whose enable is set, traps in those lanes and writes none. -/
def YieldsF (i : Instr) (s : State) (e : Env) (t : Ty) (g : Thread → Nat × Flg) : Prop :=
  Ready i s e → usesLink e.f = false →
    ((∀ l ∈ e.lanes, (e.th l.2).enabled (g (e.th l.2)).2 = 0) →
      exec i s = .next (done e (writeD e (raised e s fun th => (g th).2) t (e.lanes.map fun l => (l.2, (g (e.th l.2)).1))))) ∧
    (∀ bad, bad = e.lanes.filter (fun l => (e.th l.2).enabled (g (e.th l.2)).2 != 0) → bad ≠ [] →
      exec i s = .next (trapped e (raised e s fun th => (g th).2)
        { cls := 3, cause := (bad.foldl (fun a l => a ||| (g (e.th l.2)).2) (0 : Flg)).toNat, tval := 0, lanes := maskOf (bad.map (·.1)) }))

/-! ### Values -/

/-- The number that m * 2^e stands for. -/
def Dy.num (a : Dy) : ℚ := a.m * (2 : ℚ) ^ a.e
/-- The number a finite value stands for. -/
def Fl.num (a : Fl) : ℚ := a.dy.num
def Fl.finite : Fl → Bool
  | .zero _ | .fin _ => true
  | _ => false
/-- R29: a finite number of a format, by its bits. -/
def Fmt.holds (f : Fmt) (n : Nat) : Prop := n < 2 ^ f.width ∧ (Fl.ofBits f n).finite = true
/-- R31 to R36: `r` is the real number `x` rounded once into a format in a mode, with the flags OF, UF and NX. -/
def Rounds (f : Fmt) (m : Rm) (x : ℝ) (r : Nat × Flg) : Prop :=
  let v (n : Nat) : ℝ := ((Fl.ofBits f n).num : ℝ)
  if r.2.getLsbD 2 then (r.1 = overflowBits f m true ∧ x < v (f.maxFin true) ∨ r.1 = overflowBits f m false ∧ v (f.maxFin false) < x) ∧ r.2.getLsbD 0 = true
  else f.holds r.1 ∧ (r.2.getLsbD 0 = true ↔ v r.1 ≠ x) ∧
    (r.2.getLsbD 1 = true ↔ v r.1 ≠ x ∧ |v r.1| < (2 : ℝ) ^ (1 - (f.bias : Int))) ∧
    match m with
    | .rne => ∀ n, f.holds n → |v r.1 - x| ≤ |v n - x| ∧ (v n ≠ v r.1 → |v n - x| = |v r.1 - x| → r.1 % 2 = 0)
    | .rtz => |v r.1| ≤ |x| ∧ 0 ≤ v r.1 * x ∧ ∀ n, f.holds n → |v n| ≤ |x| → |v n| ≤ |v r.1|
    | .rup => x ≤ v r.1 ∧ ∀ n, f.holds n → x ≤ v n → v r.1 ≤ v n
    | .rdn => v r.1 ≤ x ∧ ∀ n, f.holds n → v n ≤ x → v n ≤ v r.1

/-- R28: the bounds of an integer type. -/
def loOf (t : Ty) : Int := if t.signed then -(2 : Int) ^ (t.bits - 1) else 0
def hiOf (t : Ty) : Int := if t.signed then (2 : Int) ^ (t.bits - 1) - 1 else (2 : Int) ^ t.bits - 1
/-- R28, R99: `r` holds the result of the exact value `x`: its low n bits, or `x` clamped to the range of the type. -/
def IsResult (t : Ty) (sat : Bool) (x : Int) (r : Nat) : Prop :=
  r < 2 ^ t.bits ∧ if sat then intOf t r = max (loOf t) (min (hiOf t) x) else (r : Int) % 2 ^ t.bits = x % 2 ^ t.bits
/-- An integer or a bit type, which the integer instructions name. -/
def Ty.whole (t : Ty) : Bool := !t.isFloat && !t.packed
/-- The 1 bits of an element, from the lowest. -/
def onesOf (t : Ty) (x : Nat) : List Nat := (List.range t.bits).filter fun i => x.testBit i
/-- A thread of a crew. -/
def State.thread (s : State) (crew tid : Nat) : Thread := match s.crew? crew with | some c => c.thread tid | none => Thread.blank
/-- A warp of a crew. -/
def State.warp? (s : State) (crew wid : Nat) : Option Warp := (s.crew? crew).bind fun c => c.warp? wid
/-- R110: a lane of a warp stands at an address, in an entry that is not held, or that is held in a given way. -/
def Warp.laneAt (w : Warp) (lane : Nat) (pc : BitVec 56) (h : Hold) : Prop :=
  ∃ x ∈ w.entries, x.hold = h ∧ x.pc = pc ∧ x.mask.getLsbD lane = true
/-- The lane of a warp stands there in the state. -/
def State.laneAt (s : State) (crew wid lane : Nat) (pc : BitVec 56) (h : Hold) : Prop :=
  ∃ w, s.warp? crew wid = some w ∧ w.laneAt lane pc h
/-- R110: there is room in the frontier for `n` groups more than the entry leaves. -/
abbrev Env.room (e : Env) (n : Nat) : Prop := e.w.entries.length + n ≤ 8

/-! ### Memory accesses -/

/-- R63: the address of a lane's access. -/
def Env.addr (e : Env) (m : MemExt) (l : Nat × Nat) : Nat := addrOf e.w (e.th l.2) e.f m
/-- The executing lanes are those of different threads of the crew. -/
abbrev Env.proper (e : Env) : Prop := (e.lanes.map (·.2)).Nodup ∧ ∀ l ∈ e.lanes, l.2 < e.c.threads.length
/-- R151, R158: every executing lane's address is aligned and passes the check of its space. -/
abbrev Env.legal (e : Env) (s : State) (o : MemOp) (m : MemExt) : Prop :=
  ∀ l ∈ e.lanes, e.addr m l % o.bytes = 0 ∧ spaceCheck e.c (s.ctx e.c.ctx) o.space (e.addr m l) o.bytes = none
/-- R151, R271, R274: the access of every executing lane has a physical place, `k`, at once, and no poison lies there: a vault line in service, or a
translation that is held. -/
def Granted (s : State) (e : Env) (o : MemOp) (m : MemExt) (k : Nat × Nat → Nat × Nat) : Prop :=
  ∀ l ∈ e.lanes, (k l).1 % o.bytes = 0 ∧ s.poisoned (k l).1 o.bytes = false ∧
    ∀ u w, { u with crews := s.crews, uid := s.uid } = s →
      laneGo u e.c (e.c.warpCore e.w) (logSpace o.space) o.kind (logAddr e.c o.space l.2 (e.addr m l)) w = (u, .at (k l).1 (k l).2)
/-- Nothing stands between a store and memory: no page migrates (R285), no stack is being fenced (R375), no unit is protected (R328) and no context
logs its writes (R365). -/
structure PlainMemory (s : State) : Prop where
  mig : s.mig = []
  stack : s.ras.stkLive = none ∧ bitsOf (s.host 0x910018).toNat 63 61 ≠ 1 ∧ bitsOf (s.host 0x910018).toNat 63 61 ≠ 2
  ctxs : ∀ x ∈ s.ctxs, x.ckpt.protect = [] ∧ x.logOn = false
/-- Two spans of bytes have none in common. -/
abbrev apart (a b n : Nat) : Prop := a + n ≤ b ∨ b + n ≤ a
/-- R158: data is on its way to the registers of D in a thread, which are empty. -/
def Coming (t : State) (e : Env) (o : MemOp) (l : Nat × Nat) (xs : List Nat) : Prop :=
  ∀ d, e.f.d = .v d → d.toNat < (e.th l.2).full.length →
    (t.thread e.c.id l.2).isFull d.toNat (o.dcount * o.t.regs) = false ∧
    ∃ r ∈ t.rets, r.crew = e.c.id ∧ r.tid = l.2 ∧ r.acc = true ∧ r.writes = loadWords o.t e.f.d xs

/-! ### What stays as it was -/

/-- Nothing of the machine outside crews and contexts has changed; of the contexts only what a checkpoint counts as written. -/
structure SameMachine (s t : State) : Prop where
  rest : { t with crews := s.crews, ctxs := s.ctxs, waited := s.waited } = s
  ctx : ∀ n, { t.ctx n with ckpt := (s.ctx n).ckpt } = s.ctx n
/-- Every byte of memory, of every vault, scratchpad and tile reads as before. -/
structure SameMemory (s t : State) : Prop where
  mem : ∀ a, t.mem.read a = s.mem.read a
  scratch : ∀ id a, ((t.crew? id).map fun c => c.scratch.read a) = (s.crew? id).map fun c => c.scratch.read a
  tiles : ∀ id k a, ((t.crew? id).map fun c => (c.tile k).data.read a) = (s.crew? id).map fun c => (c.tile k).data.read a
/-- A thread but for the registers that `p` picks and the predicates that `q` picks. -/
structure SameThread (t u : Thread) (p q : Nat → Prop) : Prop where
  v : ∀ n, ¬ p n → u.reg n = t.reg n ∧ u.isFull n 1 = t.isFull n 1
  pred : ∀ n, ¬ q n → u.pred n = t.pred n
  links : u.links = t.links
  chain : u.chain = t.chain
  fpctl : u.fpctl = t.fpctl
  ret : u.rsdepth = t.rsdepth ∧ u.rsbase = t.rsbase ∧ u.rstack = t.rstack
  rest : u.exited = t.exited ∧ u.capture = t.capture ∧ u.facq = t.facq ∧ u.frel = t.frel
/-- The registers of D: `k` registers from D on. -/
def Env.destReg (e : Env) (k n : Nat) : Prop := match e.f.d with | .v d => d.toNat ≤ n ∧ n < d.toNat + k | _ => False
/-- The predicate D. -/
def Env.destPred (e : Env) (n : Nat) : Prop := match e.f.d with | .p d => n = d.toNat | _ => False
/-- R27, R97, R104: the frame of an instruction that writes registers only: other crews, other threads, other registers,
predicates, links, control registers, flags, the special registers of the crew and the warp, and all memory are unchanged; the
scalar registers are too, but for D. -/
structure RegisterFrame (e : Env) (s t : State) (k : Nat) : Prop where
  machine : SameMachine s t
  memory : SameMemory s t
  crews : ∀ id, id ≠ e.c.id → t.crew? id = s.crew? id
  idle : ∀ tid, tid ∉ e.lanes.map (·.2) → t.thread e.c.id tid = s.thread e.c.id tid
  threads : ∀ tid, SameThread (s.thread e.c.id tid) (t.thread e.c.id tid) (e.destReg k) e.destPred
  flags : ∀ tid, (t.thread e.c.id tid).fpflags = (s.thread e.c.id tid).fpflags
  crew : ∀ c, t.crew? e.c.id = some c → { c with threads := e.c.threads, warps := e.c.warps } = e.c
  warps : ∀ wid, wid ≠ e.w.wid → t.warp? e.c.id wid = s.warp? e.c.id wid
  warp : ∀ w, t.warp? e.c.id e.w.wid = some w →
    { w with entries := e.w.entries, handler := e.w.handler, waiting := e.w.waiting, s := e.w.s } = e.w
  scalars : ∀ w n, t.warp? e.c.id e.w.wid = some w → e.f.d ≠ .s (BitVec.ofNat 6 n) → w.s.getD n 0 = e.w.s.getD n 0

/-- R110: every executing lane stands at its destination and every other lane of the entry at the next word, and no lane of another entry
has moved. -/
structure Lands (e : Env) (t : State) (dest : Nat × Nat → BitVec 56) : Prop where
  go : ∀ l ∈ e.lanes, t.laneAt e.c.id e.w.wid l.1 (dest l) .none
  stay : ∀ n, e.mask.getLsbD n = true → n ∉ e.lanes.map (·.1) → t.laneAt e.c.id e.w.wid n (e.pc + BitVec.ofNat 56 e.len) .none
  others : ∀ x ∈ e.w.entries, x.eid ≠ e.eid → ∀ n, x.mask.getLsbD n = true → t.laneAt e.c.id e.w.wid n x.pc x.hold
/-- What a branch leaves as it was: all but the frontier of its warp. -/
structure BranchFrame (e : Env) (s t : State) : Prop where
  machine : { t with crews := s.crews, waited := s.waited, uid := s.uid } = s
  memory : SameMemory s t
  crews : ∀ id, id ≠ e.c.id → t.crew? id = s.crew? id
  crew : ∀ c, t.crew? e.c.id = some c → { c with warps := e.c.warps } = e.c
  warp : ∀ w, t.warp? e.c.id e.w.wid = some w → { w with entries := e.w.entries, waiting := e.w.waiting } = e.w
  warps : ∀ wid w, wid ≠ e.w.wid → e.c.warp? wid = some w → w.entries ≠ [] → t.warp? e.c.id wid = some w
/-- The addresses of some lanes' destinations, each once. -/
def destinations (e : Env) (dest : Nat × Nat → BitVec 56) : List (BitVec 56) := (e.lanes.map dest).dedup

/-! ### Invariants -/

/-- Every memory of the machine is in canonical form: physical memory, every scratchpad, every tile, and what waits to be written. -/
abbrev State.Wf (s : State) : Prop :=
  s.mem.wf = true ∧ (∀ h ∈ s.lateWrites, h.data.wf = true) ∧ ∀ c ∈ s.crews, c.scratch.wf = true ∧ ∀ t ∈ c.tiles, t.data.wf = true
/-- R278: no crew has a deferred access, nor one on its way to the memory system. -/
abbrev State.noLog (s : State) : Prop := ∀ c ∈ s.crews, c.log = []
/-- R304: no copy or matrix request is in a table and no data is on its way, so that every crew stands at its restart points. -/
abbrev State.idleUnits (s : State) : Prop := s.rets = [] ∧ ∀ c ∈ s.crews, (∀ x ∈ c.mats, x = none) ∧ ∀ x ∈ c.copies, x = none
/-- R303: `CTX_STOP` of a context shows an operation that has ended with a STATUS. -/
abbrev State.stopEnded (s : State) (ctx status : Nat) : Prop :=
  s.hostF (ctxOff ctx) 63 63 = 0 ∧ s.hostF (ctxOff ctx) 62 62 = 1 ∧ s.hostF (ctxOff ctx) 61 59 = status
/-- R336: the restore register shows a restore that has ended with a STATUS. -/
abbrev State.restoreEnded (s : State) (status : Nat) : Prop := s.hostF 0x700050 63 63 = 0 ∧ s.hostF 0x700050 62 62 = 1 ∧ s.hostF 0x700050 61 58 = status
/-- What the warp waits for outside the operand log. -/
def State.stallOf (s : State) (crew wid : Nat) : Option Stall := (s.warp? crew wid).bind (·.stall)
/-- The outcome is a next state. -/
abbrev completes (o : Host.Outcome State Fault Refusal) : Prop := ∃ t, o = .next t

end Sys2Proof.Machine
end

