-- ==== Sys2Proof/Certificates/Slice0/Obligations.lean ====
section
/-! DEFINITION. The statements about the model, each with the rule of the spec that it formalises. -/
section
open Sys2Proof Sys2Proof.Machine

/-! ### Encodings: R52 to R68, R385 -/

/-- Words that the spec writes out (the worked encodings of chapters 04 to 09 and 11, and R168), field by field under R56, R57, R62
and R63, decode to the instructions they stand for; the variants of the example `add.sat.s32 v4, v5, 17` have the causes given there. -/
def Obligations.SpecWordsDecode : Prop :=
  let n : Fields := ⟨.always, 0, .z, .z, .z, .z, none⟩
  decodeTableWord 64 0x003FFFFFFFFDFC04 = some (.nopN n) ∧
  decodeTableWord 64 0x003FFFFFFFFDFC1C = some (.exit n) ∧
  decodeTableWord 64 0x003FFFFFFFFDFE78 = some (.bar n) ∧
  decodeTableWord 64 0x003FFFFFFFFDFC24 = some (.jset 0 n) ∧
  decodeTableWord 64 0x003FFFFFFFFC0820 = some (.park { n with g := .pred 2 false }) ∧
  decodeTableWord 96 0xFFFFFFF4003FFFFFFFFE0809 = some (.bra { n with g := .pred 2 true, imm := some 0xFFFFFFF4 }) ∧
  decodeTableWord 64 0x283FF9102811FC40 = some (.add .s32 true { n with d := .v 4, a := .v 5, b := .k 17 }) ∧
  decodeTableWord 64 0xC02020502409FD4C = some (.fma .f32 .ctl { n with d := .l 2, a := .v 4, b := .v 5, c := .l 1 }) ∧
  decodeTableWord 64 0xC03FF8080821FD54 = some (.fmax .f32 { n with d := .v 8, a := .l 1, b := .k 0 }) ∧
  decodeTableWord 128 0x0000000000400000603020488FFDFE8A = some (.atmg .n32 .add ⟨0, 2, .plain⟩ { n with a := .s 1, b := .v 4, c := .k 1 }) ∧
  decodeTableWord 128 0x0000000040400000603FE078A00DFE5A = some (.ldg .n32 .one ⟨0x40, 2, .plain⟩ { n with d := .v 3, a := .s 4, b := .v 7 }) ∧
  decodeTableWord 128 0x0000000000000001003FFFF8A809FED6 = some (.mmx 1 { n with d := .v 2, a := .s 5 }) ∧
  decodeTableWord 128 0x0000000000000030003FFFFFF811FF02 = some (.csrr 0x030 { n with d := .v 4 }) ∧
  decodeTableWord 128 0x00000000C000000000301FFFF830029A =
    some (.swait ⟨0xC0, 0, .plain⟩ { n with g := .pred 0 false, d := .v 12, c := .k 0 }) ∧
  decode openShape 0 0x2E3FF9102811FC40 = .error .function ∧ decode openShape 0 0x643FF9102811FC40 = .error .function ∧
  decode openShape 0 0x283FF9102811FC30 = .error .opcode ∧ decode openShape 24 0x283FF9102811FC41 = .error .boundary ∧
  decode openShape 28 0x283FF9102811FC40 = .error .boundary

/-- R52 to R68, R80: every Arben instruction of one header that passes the checks of R68 is read back from its word, whatever
stands behind it, with every operand, type, immediate and extension field it holds, in every kernel and at every place of a fetch
block that holds it whole. -/
def Obligations.ArbenRoundTrip : Prop :=
  ∀ sh off i r, i.raw = some r → check sh i = none → off + i.bytes ≤ 32 → decode sh off r.bits = .ok i

/-- R65 to R67, R385: pair words and Sorrel bytecodes are read back too, with every operand they can hold, and a word that decodes to a bytecode
is that bytecode's word: no two words share a meaning. The words of `end`, `li k1, -1` and `rep 64, 31` are as R385 lays them out. -/
def Obligations.PairAndSorrelRoundTrip : Prop :=
  (∀ sh off x y w, off + 16 ≤ 32 → encode (.pairWord x y) = some w → check sh (.pairWord x y) = none → decode sh off w = .ok (.pairWord x y)) ∧
  (∀ i w, encodeSorrel i = some w → decodeSorrel w = some i) ∧ (∀ w i, decodeSorrel w = some i → encodeSorrel i = some w) ∧
  decodeSorrel 0 = some .sorrelEnd ∧ decodeSorrel 0x091FFFFF = some (.sorrelLi 1 (BitVec.allOnes 21)) ∧
  decodeSorrel 0x58000FC0 = some (.sorrelRep 64 31)

/-! ### The step -/

/-- R52, R238: when the bytes at the place where a warp stands decode to an instruction, the block that holds them is in its core's
instruction cache, and nothing holds the warp back, `step` with that warp's issue next on the agenda is `exec` of that instruction, in
the state whose clock has moved on and whose cursor names the warp.
The model's choices in it: log entry 4. -/
def Obligations.StepRunsDecodedInstruction : Prop :=
  ∀ s crew wid r t c w eid pc mask i,
    s.agenda = .issue crew wid :: r → tick s = t → t.agenda = s.agenda → t.plat.standby = false →
    { t with agenda := r }.crew? crew = some c → c.warp? wid = some w → Crew.runs { t with agenda := r } c = true →
    w.trap = none → (w.handler = none → w.micro = none ∧ w.stall = none) → w.place = some (eid, pc, mask) →
    c.kernel.codeVA ≤ pc.toNat → pc.toNat < c.kernel.codeVA + c.kernel.codeLen →
    blockHeld { t with agenda := r } c (c.warpCore w) pc.toNat = true →
    decode c.kernel.shape (pc.toNat % 32) (codeBits c.kernel pc) = .ok i →
    step s = exec i { t with agenda := r, cur := some ⟨crew, wid, eid, pc, codeBits c.kernel pc⟩ }

/-- R385, R387: the packet in progress runs the bytecode it stands at; an event that the agenda names, of a unit whose island has power (R14), happens (the model's choice: log entry 4);
in standby no event happens but boot (R26, log entry 4). R68, R297: where those bytes are no legal instruction, the step takes the illegal-instruction trap with the cause of the first check that
fails. -/
def Obligations.StepRunsTrapsBytecodesAndEvents : Prop :=
  (∀ s r t i, tick s = t → t.agenda = s.agenda →
      (∀ p, s.agenda = .sorrel :: r → t.plat.standby = false → t.islandOff 62 = false → t.sorrel = some p → decodeSorrel (p.prog.getD p.pc 0) = some i →
        step s = exec i { t with agenda := r }) ∧
      (s.agenda = .event i :: r → t.plat.standby = false → t.powers (.event i) = true → Instr.isEvent i = true → step s = exec i { t with agenda := r, cur := none }) ∧
      (s.agenda = .event i :: r → t.plat.standby = true → (∀ b h, i ≠ .boot b h) → step s = .fault .standby)) ∧
  (∀ s crew wid r t c w eid pc mask x,
      s.agenda = .issue crew wid :: r → tick s = t → t.agenda = s.agenda → t.plat.standby = false →
      { t with agenda := r }.crew? crew = some c → c.warp? wid = some w → Crew.runs { t with agenda := r } c = true →
      w.trap = none → (w.handler = none → w.micro = none ∧ w.stall = none) → w.place = some (eid, pc, mask) →
      c.kernel.codeVA ≤ pc.toNat → pc.toNat < c.kernel.codeVA + c.kernel.codeLen →
      blockHeld { t with agenda := r } c (c.warpCore w) pc.toNat = true →
      decode c.kernel.shape (pc.toNat % 32) (codeBits c.kernel pc) = .error x →
      step s = exec (.illegalInstruction x.code (headerOf pc (codeBits c.kernel pc)))
        { t with agenda := r, cur := some ⟨crew, wid, eid, pc, codeBits c.kernel pc⟩ })

/-! ### Reset: R410 and the reset columns of the register tables -/

/-- After a package reset no context is bound, no launch is known, the launch counter stands at 1 (R393), every port is down (R420), every
page-request index is free (R277), no device register holds another value than its table's reset value, and nothing is in standby.
The model's choices in it: log entries 1, 15. -/
def Obligations.ResetState : Prop :=
  State.reset.crews = [] ∧ (∀ n, (State.reset.ctx n).bound = false) ∧ State.reset.launches = [] ∧ State.reset.nextLaunch = 1 ∧
  (∀ p ∈ State.reset.ports, p.up = false) ∧ State.reset.ports.length = 36 ∧ State.reset.prgFree.length = 512 ∧ State.reset.dev = [] ∧
  State.reset.plat.standby = false ∧ (∀ a, State.reset.mem.read a = 0)

/-- Every step keeps the canonical form of physical memory, of every scratchpad and of every tile, and of what waits to be written to memory (log entries 1, 141).
The model's choices in it: log entries 1, 141. -/
def Obligations.MemoryCanonicalKept : Prop := ∀ s t, s.Wf → step s = .next t → t.Wf

/-- The memories of the machine right after reset are in canonical form. R5: little-endian bytes, written to memory and read back, give the
number again, and no other byte changes.
The model's choices in it: log entry 1. -/
def Obligations.MemoryAtResetAndReadAfterWrite : Prop :=
  State.reset.Wf ∧
  ∀ (m : Mem) a n x, m.wf = true → (m.store a (leBytes n x)).nat a n = x % 256 ^ n ∧
    (∀ b, (b < a ∨ a + n ≤ b) → (m.store a (leBytes n x)).read b = m.read b) ∧ (m.store a (leBytes n x)).wf = true

/-! ### When an instruction is ready: R61, R142, R145, R158, R299 -/

/-- R61, R134, R142, R145, R158, R279, R299: where the warp is in no handler and at home, without a deferred access or tile transfer, and its
threads have every register full and no link instruction in flight, nothing that R299 puts before an instruction's own checks traps
it or keeps it waiting, for every instruction that names no link and is not a handler's. R61: an empty source with its E bit 0 keeps the instruction at issue, and nothing changes but the mark that it waited; with its E
bit 1 the lanes whose source is empty take the empty-source trap of class 2. -/
def Obligations.SettledWarpsAndEmptySources : Prop :=
  (∀ i s e, Settled i s e → (∀ p ∈ e.parts, noLinks p.f) → handlerOnly i = false → Ready i s e) ∧
  (∀ sat f s e n, Calm (.mov .b32 sat f) s e → noLinks f → f.imm = none → f.a = .v n →
      let ls := e.lanes.filter fun l => !(e.th l.2).isFull n.toNat 1
      ls ≠ [] →
      (f.e.getLsbD 0 = false → exec (.mov .b32 sat f) s = .next { s with waited := true }) ∧
      (f.e.getLsbD 0 = true → exec (.mov .b32 sat f) s = .next (trapped e s
        { cls := 2, cause := 1, tval := BitVec.ofNat 64 n.toNat, lanes := maskOf (ls.map (·.1)) })))

/-! ### Integer instructions: R96 to R107 -/

/-- R99: `add`, `sub`, `min`, `max`, `abs`, `neg`, `mul`, `mulh` and `mad` complete, in every lane with the exact result of the sources
read as integers of the type, cut to its low n bits, or clamped to its range for `.sat`. -/
def Obligations.IntegerArithmetic : Prop :=
  ∀ t sat f s e,
    Yields (.add t sat f) s e t (fun th r => IsResult t sat (intA t e th + intB t e th) r) ∧
    Yields (.sub t sat f) s e t (fun th r => IsResult t sat (intA t e th - intB t e th) r) ∧
    Yields (.min t sat f) s e t (fun th r => IsResult t sat (min (intA t e th) (intB t e th)) r) ∧
    Yields (.max t sat f) s e t (fun th r => IsResult t sat (max (intA t e th) (intB t e th)) r) ∧
    Yields (.abs t sat f) s e t (fun th r => IsResult t sat |intOne t e th| r) ∧
    Yields (.neg t sat f) s e t (fun th r => IsResult t sat (-intOne t e th) r) ∧
    Yields (.mul t sat f) s e t (fun th r => IsResult t sat (intA t e th * intB t e th) r) ∧
    Yields (.mulh t sat f) s e t (fun th r => IsResult t false (intA t e th * intB t e th / 2 ^ t.bits) r) ∧
    Yields (.mad t sat f) s e t (fun th r => IsResult t sat (intA t e th * intB t e th + intC t e th) r)

/-- R100, R103 (`brev`), R101 (`rot`): each bit of the result of `and`, `or`, `xor`, `andn`, `not`, `brev` and `rot` is the bit of the
sources that the rule names; `mov` and `sel` give a source unchanged (R105); the shifts take a count of any size, never cut to the width:
`shl` multiplies the exact value, `shr` and `sar` divide it, `sar` towards minus infinity (R101). -/
def Obligations.BitwiseAndShiftResults : Prop :=
  ∀ t sat f s e, Ty.whole t = true →
    Yields (.and t sat f) s e t (fun th r => ∀ i, r.testBit i = ((bitsA t e th).testBit i && (srcB e th t).testBit i)) ∧
    Yields (.or t sat f) s e t (fun th r => ∀ i, r.testBit i = ((bitsA t e th).testBit i || (srcB e th t).testBit i)) ∧
    Yields (.xor t sat f) s e t (fun th r => ∀ i, r.testBit i = ((bitsA t e th).testBit i != (srcB e th t).testBit i)) ∧
    Yields (.andn t sat f) s e t (fun th r => ∀ i, r.testBit i = ((bitsA t e th).testBit i && decide (i < t.bits) && !(srcB e th t).testBit i)) ∧
    Yields (.not t sat f) s e t (fun th r => ∀ i, r.testBit i = (decide (i < t.bits) && !(srcOne e th t).testBit i)) ∧
    Yields (.brev t sat f) s e t (fun th r => ∀ i, r.testBit i = (decide (i < t.bits) && (srcOne e th t).testBit (t.bits - 1 - i))) ∧
    Yields (.rot t sat f) s e t (fun th r => ∀ i, r.testBit i =
      (decide (i < t.bits) && (bitsA t e th).testBit ((i + t.bits - cntB e th % t.bits) % t.bits))) ∧
    Yields (.mov t sat f) s e t (fun th r => r = srcOne e th t) ∧
    Yields (.sel t f) s e t (fun th r => r = if predOf th e.f.c then bitsA t e th else srcB e th t) ∧
    Yields (.shl t sat f) s e t (fun th r => IsResult t sat (intA t e th * 2 ^ cntB e th) r) ∧
    Yields (.shr t sat f) s e t (fun th r => r = bitsA t e th / 2 ^ cntB e th) ∧
    Yields (.sar t sat f) s e t (fun th r => IsResult t false (intA t e th / 2 ^ cntB e th) r)

/-- R102: `bfx` and `bfi` with the field that bits [7:0] and [15:8] of the control word give, cut to the type's width; R103: the counts and
`fnth`, whose results are 32-bit numbers; R106, R107: the immediates, and the conversion between integer types. -/
def Obligations.FieldAndCountResults : Prop :=
  ∀ t td sat x f s e, Ty.whole t = true →
    Yields (.bfx t sat f) s e t (fun th r => ∀ i, i < t.bits →
      let p := fieldPos t (cntB e th)
      let l := fieldLen t (cntB e th)
      r.testBit i = if i < l then (bitsA t e th).testBit (p + i) else t.signed && decide (0 < l) && (bitsA t e th).testBit (p + l - 1)) ∧
    Yields (.bfi t sat f) s e t (fun th r => ∀ i,
      let p := fieldPos t (cntB e th)
      let l := fieldLen t (cntB e th)
      r.testBit i = if p ≤ i ∧ i < p + l then (bitsC t e th).testBit (i - p) else (bitsA t e th).testBit i) ∧
    Yields (.popc t sat f) s e .n32 (fun th r => r = (onesOf t (srcOne e th t)).length) ∧
    Yields (.clz t sat f) s e .n32 (fun th r => r = match (onesOf t (srcOne e th t)).getLast? with | some i => t.bits - 1 - i | none => t.bits) ∧
    Yields (.ctz t sat f) s e .n32 (fun th r => r = ((onesOf t (srcOne e th t)).head?).getD t.bits) ∧
    Yields (.fnth t sat f) s e .n32 (fun th r => r = ((onesOf t (bitsA t e th))[cntB e th]?).getD 0xFFFFFFFF) ∧
    Yields (.moviB32 f) s e .b32 (fun _ r => r = (e.f.imm.getD 0).toNat) ∧
    Yields (.moviB64I f) s e .b64 (fun _ r => r = ((e.f.imm.getD 0).signExtend 64).toNat) ∧
    Yields (.moviB64W x f) s e .b64 (fun _ r => r = x.toNat) ∧
    Yields (.cvt td t sat f) s e td (fun th r => IsResult td sat (intA t e th) r)

/-- R104, R108, R109: `cmp` compares the sources as integers of the type; `pand`, `por`, `pxor`, `pnot` and `pmov` combine their sources,
inverted where FN says so; `ppack` gives bit i the predicate 32g + i, 0 past the kernel's last; `punpack` gives each executing lane the
predicates of the group, as far as the kernel has them, from the bits of A, and changes no other. -/
def Obligations.PredicateResults : Prop :=
  ∀ t c f s e na nb grp,
    YieldsP (.cmp t c f) s e (fun th => match c with
      | .eq => intA t e th = intB t e th
      | .ne => intA t e th ≠ intB t e th
      | .lt => intA t e th < intB t e th
      | .le => intA t e th ≤ intB t e th
      | .gt => intB t e th < intA t e th
      | _ => intB t e th ≤ intA t e th) ∧
    YieldsP (.pand na nb f) s e (fun th => predOf th e.f.a ≠ na ∧ predOf th e.f.b ≠ nb) ∧
    YieldsP (.por na nb f) s e (fun th => predOf th e.f.a ≠ na ∨ predOf th e.f.b ≠ nb) ∧
    YieldsP (.pxor na nb f) s e (fun th => ¬(predOf th e.f.a ≠ na ↔ predOf th e.f.b ≠ nb)) ∧
    YieldsP (.pnot f) s e (fun th => predOf th e.f.a = false) ∧
    YieldsP (.pmov f) s e (fun th => predOf th e.f.a = true) ∧
    Yields (.ppack grp f) s e .n32 (fun th r => ∀ i, r.testBit i =
      (decide (i < 32) && decide (32 * grp.toNat + i < e.sh.preds) && th.pred (32 * grp.toNat + i))) ∧
    (Ready (.punpack grp f) s e → e.sh.preds ≤ 96 → ∃ u, exec (.punpack grp f) s = .next u ∧
      ∀ l ∈ e.lanes, l.2 < e.c.threads.length → ∀ n, (u.thread e.c.id l.2).pred n =
        if 32 * grp.toNat ≤ n ∧ n < 32 * grp.toNat + 32 ∧ n < e.sh.preds then (srcBits e.w (e.th l.2) .n32 e.f.a).testBit (n - 32 * grp.toNat)
        else (e.th l.2).pred n)

/-! ### Where results go: R27, R97, R104, R110 -/

/-- R27, R97: a result narrower than 32 bits is extended to the register by its type's sign; one of 64 bits fills a pair, the low
half in the named register; the registers become full. An `s` destination takes the lowest executing lane's result, extended to 64
bits. R110: an instruction that is not a control instruction leaves every lane of its entry, executing or not, at the next word. -/
def Obligations.ResultsAndNextWord : Prop :=
  (∀ e s t g, s.crew? e.c.id = some e.c → (e.lanes.map (·.2)).Nodup → ∀ l ∈ e.lanes, l.2 < e.c.threads.length →
      (∀ d : BitVec 8, e.f.d = .v d → d.toNat + 1 < (e.th l.2).v.length →
        (t.bits = 64 → ((retires e s t g).thread e.c.id l.2).pair d.toNat = BitVec.ofNat 64 (g (e.th l.2))) ∧
        (t.bits < 64 → ((retires e s t g).thread e.c.id l.2).reg d.toNat =
          if t.signed then (BitVec.ofNat t.bits (g (e.th l.2))).signExtend 32 else (BitVec.ofNat t.bits (g (e.th l.2))).setWidth 32) ∧
        ((retires e s t g).thread e.c.id l.2).isFull d.toNat t.regs = true) ∧
      (∀ d : BitVec 6, e.f.d = .s d → e.lanes.head? = some l → e.c.warp? e.w.wid = some e.w → d.toNat < e.w.s.length →
        ((retires e s t g).warp? e.c.id e.w.wid).map (fun w => w.s.getD d.toNat 0) = some
          (if t.signed then (BitVec.ofNat t.bits (g (e.th l.2))).signExtend 64 else (BitVec.ofNat t.bits (g (e.th l.2))).setWidth 64))) ∧
  (∀ i s e x, envOf i s = some e → e.w.handler = none → e.w.entries.find? (fun y => y.eid == e.eid) = some x → x.pc = e.pc → x.hold = .none →
      ∀ n, n < 128 → e.mask.getLsbD n = true → ∀ t : State, (t.crew? e.c.id = some e.c) →
        (done e t).laneAt e.c.id e.w.wid n (e.pc + BitVec.ofNat 56 e.len) .none)

/-- R27, R36, R60, R97, R104: the frame of every instruction that only writes registers and raises flags: a lane that does not execute, every register
and predicate but the destination, links, return stacks, control registers, fence marks, the other warps and crews, the module and every byte of memory are as
they were; raising flags changes nothing but `fpflags` of the executing lanes. -/
def Obligations.RegisterWritesFrame : Prop :=
  ∀ i s e t fl k (ls : List (Nat × Nat)) (g : Nat × Nat → Nat) (h : Nat × Nat → Bool) (r : Nat × Nat → List (Nat × Word)), envOf i s = some e →
    (∀ l ∈ ls, l ∈ e.lanes) → (∀ l ∈ ls, ∀ x ∈ r l, e.destReg k x.1) →
    let u := raised e s fl
    RegisterFrame e s (done e (writeD e s t (ls.map fun l => (l.2, g l)))) t.regs ∧
    RegisterFrame e u (done e (writeD e u t (ls.map fun l => (l.2, g l)))) t.regs ∧
    RegisterFrame e s (done e (writeP e s (ls.map fun l => (l.2, h l)))) 0 ∧
    RegisterFrame e u (done e (writeP e u (ls.map fun l => (l.2, h l)))) 0 ∧
    RegisterFrame e s (done e (writeRegs s e.c.id (ls.map fun l => (l.2, r l)))) k ∧
    { u with crews := s.crews } = s ∧ ∀ crew tid, { u.thread crew tid with fpflags := (s.thread crew tid).fpflags } = s.thread crew tid ∧
      (crew ≠ e.c.id ∨ tid ∉ e.lanes.map (·.2) → u.thread crew tid = s.thread crew tid)

/-! ### Cross-lane instructions: R51, R89, R121 to R126 -/

/-- R124: votes, the election, the ballot and lane moves among the participants. R123: a cross-lane instruction with a live member of its mask in another entry traps with class 4, cause 8, TVAL the program counter and the
missing members, and writes nothing; with no executing lane it only moves on (R121).
The model's choices in it: log entries 127, 151. -/
def Obligations.VotesMovesAndAbsentMembers : Prop :=
  (∀ t mode f s e, t = .b32 ∨ t = .b64 →
      CrossP (.voteAll f) s e (fun _ => ∀ m ∈ e.participants, predOf (e.th m.2) e.f.a = true) ∧
      CrossP (.voteAny f) s e (fun _ => ∃ m ∈ e.participants, predOf (e.th m.2) e.f.a = true) ∧
      CrossP (.voteUni f) s e (fun _ => ∀ m ∈ e.participants, ∀ n ∈ e.participants, predOf (e.th m.2) e.f.a = predOf (e.th n.2) e.f.a) ∧
      CrossP (.elect f) s e (fun l => ∀ m ∈ e.participants, l.1 ≤ m.1) ∧
      CrossR (.ballot f) s e (fun _ ws => ∀ n x, (n, x) ∈ ws ↔ ∃ i, i < (e.sh.width + 31) / 32 ∧ n = vNum e.f.d + i ∧
        ∀ b, b < 32 → (x.getLsbD b = true ↔ ∃ m ∈ e.participants, m.1 = 32 * i + b ∧ predOf (e.th m.2) e.f.a = true)) ∧
      CrossV (.lmov t f) s e t (fun l r => Supplied t e (cntB e (e.th l.2) % e.sh.width) r) ∧
      CrossV (.shfl t mode f) s e t (fun l r =>
        let b := cntB e (e.th l.2)
        match mode with
        | .idx => if b < e.sh.width then Supplied t e b r else r = bitsA t e (e.th l.2)
        | .up => if b ≤ l.1 then Supplied t e (l.1 - b) r else r = bitsA t e (e.th l.2)
        | .down => if l.1 + b < e.sh.width then Supplied t e (l.1 + b) r else r = bitsA t e (e.th l.2)
        | .xor => if l.1 ^^^ b < e.sh.width then Supplied t e (l.1 ^^^ b) r else r = bitsA t e (e.th l.2))) ∧
  (∀ i s e, isCrossLane i = true → Ready i s e →
      (e.lanes = [] → exec i s = .next (done e s)) ∧
      (e.lanes ≠ [] → e.absent ≠ 0 → exec i s = .next (trapped e s (controlTrap 8 (e.pc.setWidth 64) e.absent (.absent e.absent)))))

/-- R89, R124: an integer reduction gives every participant the sum, least, greatest, and, or or exclusive or of all participants' A. R126: `zipK` spreads structures of K elements over the lanes: element i of the whole, which lane i / K holds in its register A + i mod K,
goes to register D + i / W of lane i mod W; `unzipK` takes them back. A lane that is no participant supplies 0. -/
def Obligations.ReductionsAndPermutations : Prop :=
  (∀ t f s e, Ty.whole t = true →
      let vs := e.participants.map fun l => bitsA t e (e.th l.2)
      CrossV (.redux t 0 f) s e t (fun _ r => r < 2 ^ t.bits ∧ r % 2 ^ t.bits = vs.sum % 2 ^ t.bits) ∧
      CrossV (.redux t 1 f) s e t (fun _ r => r ∈ vs ∧ ∀ x ∈ vs, intOf t r ≤ intOf t x) ∧
      CrossV (.redux t 2 f) s e t (fun _ r => r ∈ vs ∧ ∀ x ∈ vs, intOf t x ≤ intOf t r) ∧
      CrossV (.redux t 3 f) s e t (fun _ r => ∀ i, r.testBit i = vs.all fun x => x.testBit i) ∧
      CrossV (.redux t 4 f) s e t (fun _ r => ∀ i, r.testBit i = vs.any fun x => x.testBit i) ∧
      CrossV (.redux t 5 f) s e t (fun _ r => ∀ i, r.testBit i = decide ((vs.countP fun x => x.testBit i) % 2 = 1))) ∧
  (∀ t f s e, t = .b32 ∨ t = .b64 →
      let zips (k : Nat) (l : Nat × Nat) (ws : List (Nat × Word)) : Prop :=
        ws = (List.range k).flatMap fun r => resultWords t (vNum e.f.d + r * t.regs)
          (laneElem t e e.participants ((r * e.sh.width + l.1) / k) ((r * e.sh.width + l.1) % k))
      let unzips (k : Nat) (l : Nat × Nat) (ws : List (Nat × Word)) : Prop :=
        ws = (List.range k).flatMap fun r => resultWords t (vNum e.f.d + r * t.regs)
          (laneElem t e e.participants ((k * l.1 + r) % e.sh.width) ((k * l.1 + r) / e.sh.width))
      CrossR (.zip2 t f) s e (zips 2) ∧ CrossR (.zip3 t f) s e (zips 3) ∧ CrossR (.zip4 t f) s e (zips 4) ∧
      CrossR (.unzip2 t f) s e (unzips 2) ∧ CrossR (.unzip3 t f) s e (unzips 3) ∧ CrossR (.unzip4 t f) s e (unzips 4))

/-! ### Floating point: R29 to R38, R130 to R137 -/

/-- R31 to R36: rounding gives the format's number that the mode picks, with overflow, underflow and inexact raised exactly where the
rules say, in every format and mode. -/
def Obligations.RoundingIsCorrect : Prop :=
  ∀ f m d, f ∈ [fmtF16, fmtBf16, fmtF32, fmtF64] → d.m ≠ 0 → Rounds f m (d.num : ℝ) (roundDy f m d)

/-- R130: the sum, difference, product and fused product of finite numbers are exact before they are rounded; a quotient and a square root are
rounded as the exact real number is. -/
def Obligations.ArithmeticIsExactBeforeRounding : Prop :=
  ∀ f m a b c, f ∈ [fmtF16, fmtBf16, fmtF32, fmtF64] → f.holds a → f.holds b → f.holds c →
    let x := Fl.ofBits f a
    let y := Fl.ofBits f b
    let z := Fl.ofBits f c
    (addFl m x y).x.num = x.num + y.num ∧ (addFl m x y).fl = 0 ∧ (addFl m x y.flip).x.num = x.num - y.num ∧
    (mulFl x y).x.num = x.num * y.num ∧ (mulFl x y).fl = 0 ∧ (fmaFl m x y z).x.num = x.num * y.num + z.num ∧
    (x.num ≠ 0 → y.num ≠ 0 → Rounds f m ((x.num : ℝ) / (y.num : ℝ)) ((divFl x y).round f m)) ∧
    (0 < x.num → Rounds f m (Real.sqrt (x.num : ℝ)) ((sqrtFl x).round f m))

/-- R30, R33, R130: a NaN source gives the canonical quiet NaN, with NV where some source is signalling; the invalid operations give it with NV; a
finite number divided by zero gives an infinity with DZ. R38, R137: a floating-point number converted to an integer is rounded in the mode to a whole number, exact or with NX, or clamped to the
type's range with NV; a NaN gives 0 with NV. -/
def Obligations.SpecialValuesAndIntegers : Prop :=
  (∀ f m a b, f ∈ [fmtF16, fmtBf16, fmtF32, fmtF64] → a < 2 ^ f.width → b < 2 ^ f.width →
      let x := Fl.ofBits f a
      let y := Fl.ofBits f b
      ((x.isNan = true ∨ y.isNan = true) → ∀ r ∈ [addFl m x y, mulFl x y, divFl x y],
        r.round f m = (f.nan, flIf (x.isSnan || y.isSnan) flNV)) ∧
      (∀ n, x = .inf n → y = .inf (!n) → (addFl m x y).round f m = (f.nan, flNV)) ∧
      (x.isInf = true → y.isZero = true → (mulFl x y).round f m = (f.nan, flNV)) ∧
      (x.isZero = true → y.isZero = true → (divFl x y).round f m = (f.nan, flNV)) ∧
      (x.num ≠ 0 → x.finite = true → y.isZero = true → (divFl x y).round f m = (f.inf (x.neg != y.neg), flDZ)) ∧
      (x.finite = true → x.num < 0 → (sqrtFl x).round f m = (f.nan, flNV)) ∧
      (∀ n, x = .zero n → (sqrtFl x).round f m = (f.signBit n, 0))) ∧
  (∀ n signed m, n ∈ [8, 16, 32, 64] →
      (∀ q, toIntFl n signed m (.nan q) = (0, flNV)) ∧
      ∀ d : Dy, d.m ≠ 0 → ∃ k : Int,
        (match m with
          | .rne => |(k : ℚ) - d.num| ≤ 1 / 2 ∧ (|(k : ℚ) - d.num| = 1 / 2 → k % 2 = 0)
          | .rtz => |(k : ℚ)| ≤ |d.num| ∧ |d.num| < |(k : ℚ)| + 1 ∧ 0 ≤ k * d.num
          | .rup => d.num ≤ k ∧ (k : ℚ) < d.num + 1
          | .rdn => (k : ℚ) ≤ d.num ∧ d.num < k + 1) ∧
        toIntFl n signed m (.fin d) =
          if satInt n signed k = k then (k, flIf (decide ((k : ℚ) ≠ d.num)) flNX) else (satInt n signed k, flNV))

/-- R37, R128, R130 to R137: every floating-point instruction that names no link completes: each executing lane raises its flags and writes its
result, or takes the flag trap where an enable is set. R65 to R67: a pair word with no flag enabled for its lanes completes: both halves read before either writes, each in the lanes of its own
guard.
The model's choices in it: log entry 44. -/
def Obligations.FloatAndPairInstructionsComplete : Prop :=
  (∀ t td rm f s e,
      YieldsF (.fadd t rm f) s e t (evalFadd t rm e) ∧ YieldsF (.fsub t rm f) s e t (evalFsub t rm e) ∧
      YieldsF (.fmul t rm f) s e t (evalFmul t rm e) ∧ YieldsF (.fma t rm f) s e t (evalFma t rm e) ∧
      YieldsF (.fdiv t rm f) s e t (evalFdiv t rm e) ∧ YieldsF (.fsqrt t rm f) s e t (evalFsqrt t rm e) ∧
      YieldsF (.fmin t f) s e t (evalFmin t e) ∧ YieldsF (.fmax t f) s e t (evalFmax t e) ∧ YieldsF (.fsel t f) s e t (evalFsel t e) ∧
      YieldsF (.fclass t f) s e .n32 (evalFclass t e) ∧ YieldsF (.frcp t rm f) s e t (evalFrcp t rm e) ∧
      YieldsF (.frsq t rm f) s e t (evalFrsq t rm e) ∧ YieldsF (.fexp2 t rm f) s e t (evalFexp2 t rm e) ∧
      YieldsF (.flog2 t rm f) s e t (evalFlog2 t rm e) ∧ YieldsF (.fscale t rm f) s e t (evalFscale t rm e) ∧
      YieldsF (.frnd t rm f) s e t (evalFrnd t rm e) ∧ YieldsF (.fsin t rm f) s e t (evalFsin t rm e) ∧
      YieldsF (.fcos t rm f) s e t (evalFcos t rm e) ∧ YieldsF (.fcvt td t rm f) s e td (evalFcvt td t rm e)) ∧
  (∀ x y s e, Ready (.pairWord x y) s e → (∀ l ∈ e.lanes, (e.th l.2).anyEnable = false) →
      ∃ fl : Nat → Flg, exec (.pairWord x y) s = .next (done e
        ((e.parts.flatMap fun p => p.lanes.map fun l => (p, l, halfEval p (p.th l.2))).foldl (fun u r => writeD r.1 u r.2.2.1 [(r.2.1.2, r.2.2.2.1)])
          (s.modCrew e.c.id fun c => e.lanes.foldl (fun c l => c.modThread l.2 fun th => th.raise (fl l.1)) c))))

/-- R37, R51, R89, R134: `fcmp` completes with the truth of its comparison in every executing lane, and the floating-point `redux` with the value at the
root of its tree, alike in every participant, where no flag that they raise is enabled; where one is, they write nothing and take the flag trap. A comparison with a NaN is true
for `ne` and `un` alone, one of numbers is that of the numbers; only a signalling NaN, or any NaN in an ordered comparison, raises NV. R51: the tree's first level holds the participants' sources; a node of two children is their sum, or lesser or
greater, rounded; a node with one child is that child; the flags are those of all rounded nodes.
The model's choices in it: log entries 19, 149. -/
def Obligations.FloatCompareAndReduce : Prop :=
  ∀ t c rop f s e,
    (Ready (.fcmp t c f) s e → usesLink e.f = false →
      let g (th : Thread) : Bool × Flg := evalFcmp t c e th
      ((∀ l ∈ e.lanes, (e.th l.2).enabled (g (e.th l.2)).2 = 0) →
        exec (.fcmp t c f) s = .next (done e (writeP e (raised e s fun th => (g th).2) (e.lanes.map fun l => (l.2, (g (e.th l.2)).1))))) ∧
      (∀ bad, bad = e.lanes.filter (fun l => (e.th l.2).enabled (g (e.th l.2)).2 != 0) → bad ≠ [] →
        exec (.fcmp t c f) s = .next (trapped e (raised e s fun th => (g th).2)
          { cls := 3, cause := (bad.foldl (fun a l => a ||| (g (e.th l.2)).2) (0 : Flg)).toNat, tval := 0, lanes := maskOf (bad.map (·.1)) }))) ∧
    (∀ x y, t ∈ [.f16, .bf16, .f32, .f64] → x < 2 ^ (fmtOf t).width → y < 2 ^ (fmtOf t).width →
      let a := Fl.ofBits (fmtOf t) x
      let b := Fl.ofBits (fmtOf t) y
      ((a.isNan = true ∨ b.isNan = true) → ((cmpFl c a b).1 = true ↔ c = .ne ∨ c = .un) ∧
        ((cmpFl c a b).2 = if a.isSnan = true ∨ b.isSnan = true ∨ c ∈ [.lt, .le, .gt, .ge] then flNV else 0)) ∧
      (a.finite = true → b.finite = true → cmpFl .lt a b = (decide (a.num < b.num), 0) ∧ cmpFl .le a b = (decide (a.num ≤ b.num), 0) ∧
        cmpFl .gt a b = (decide (b.num < a.num), 0) ∧ cmpFl .ge a b = (decide (b.num ≤ a.num), 0) ∧ cmpFl .eq a b = (decide (a.num = b.num), 0) ∧
        cmpFl .ne a b = (decide (a.num ≠ b.num), 0) ∧ cmpFl .un a b = (false, 0) ∧ cmpFl .ord a b = (true, 0))) ∧
    (Ready (.redux t rop f) s e → t.isFloat = true → e.lanes ≠ [] → e.absent = 0 → ∀ r,
      r = flRedux t rop.toNat (match e.participants with | l :: _ => (e.th l.2).fpctl.setWidth 2 | [] => 0)
        ((List.range e.sh.width).map fun i => (e.participants.find? fun l => l.1 == i).map fun l => bitsA t e (e.th l.2)) →
      let u := s.modCrew e.c.id fun d => e.participants.foldl (fun d l => d.modThread l.2 fun th => th.raise r.2) d
      ((∀ l ∈ e.participants, (e.th l.2).enabled r.2 = 0) → exec (.redux t rop f) s = .next (done e (writeD e u t (e.participants.map fun l => (l.2, r.1))))) ∧
      (∀ bad, bad = e.participants.filter (fun l => (e.th l.2).enabled r.2 != 0) → bad ≠ [] →
        exec (.redux t rop f) s = .next (trapped e u { cls := 3, cause := r.2.toNat, tval := 0, lanes := maskOf (bad.map (·.1)) }))) ∧
    (∀ ctl (xs : List (Option Nat)) n, xs.length = 2 ^ n → ∃ (lv : Nat → Nat → Option Nat) (fl : Nat → Nat → Flg),
      let m := if rop.toNat < 4 then Rm.ofCode ctl.toNat else Rm.ofCode (rop.toNat - 4)
      let op (a b : Nat) : Ex := let x := Fl.ofBits (fmtOf t) a; let y := Fl.ofBits (fmtOf t) b
        if rop = 1 then minmaxFl false x y else if rop = 2 then minmaxFl true x y else addFl m x y
      let r := flRedux t rop.toNat ctl xs
      (∀ i, i < 2 ^ n → lv 0 i = xs.getD i none) ∧
      (∀ k i, k < n → i < 2 ^ (n - (k + 1)) → match lv k (2 * i), lv k (2 * i + 1) with
        | some a, some b => (some ((op a b).round (fmtOf t) m).1, ((op a b).round (fmtOf t) m).2) = (lv (k + 1) i, fl k i)
        | some a, none => lv (k + 1) i = some a ∧ fl k i = 0
        | none, y => lv (k + 1) i = y ∧ fl k i = 0) ∧
      (let x := (lv n 0).getD 0; r.1 = if (Fl.ofBits (fmtOf t) x).isNan then (fmtOf t).nan else x) ∧
      ∀ b, r.2.getLsbD b = true ↔ ∃ k i, k < n ∧ i < 2 ^ (n - (k + 1)) ∧ (fl k i).getLsbD b = true)

/-! ### Links: R43 to R47, R138 to R145 -/

/-- R138, R142: a link producer completes where no executing lane has eight producers in flight: the link is empty, without digits, in the format
of the type, and its record, with the sources captured, stands last among the thread's records; with eight it waits.
The model's choices in it: log entries 45, 147. -/
def Obligations.LinkProducers : Prop :=
  ∀ i t rm f n s e k,
    ((i = .fadd t rm f ∧ k = 2) ∨ (i = .fsub t rm f ∧ k = 2) ∨ (i = .fmul t rm f ∧ k = 2) ∨ (i = .fma t rm f ∧ k = 3) ∨
      (i = .fdiv t rm f ∧ k = 2) ∨ (i = .fsqrt t rm f ∧ k = 1)) →
    f.d = .l n → Ready i s e →
    ((∃ l ∈ e.lanes, 8 ≤ (e.th l.2).producers) → exec i s = .next { s with waited := true }) ∧
    ((∀ l ∈ e.lanes, (e.th l.2).producers < 8) → ∃ u, exec i s = .next (done e u) ∧
      ((e.lanes.map (·.2)).Nodup → ∀ l ∈ e.lanes, l.2 < e.c.threads.length → n.toNat < (e.th l.2).links.length →
        (∃ x, (u.thread e.c.id l.2).link n.toNat = ⟨t == .f64, .empty, .finite, 0, x, []⟩) ∧
        (u.thread e.c.id l.2).chain = (e.th l.2).chain ++ [chainRecOf e t k (e.th l.2)]))

/-- R138, R140, R141: LINK_DIGIT_DELIVERY of a link whose producer has values for sources settles it, partial or full, or delivers its next digit, -1, 0 or 1, behind those that
are there; with digit 48, or 106 of the wide format, the link is full and the producer done. R140 to R145: it happens whenever a running crew's producer can settle or deliver, and where its thread has no trap enabled that
thread alone changes, as the delivery leaves it. R137, R143: `fcvt` of a full link whose thread has nothing else in flight and no enable set writes the rounded value, raises the flags of the
rounding and the pending ones, and consumes the link. R43, R141: a delivery that links feed keeps the digits that are there and adds one. Premise: no producer of a full link is still in flight.
The model's choices in it: log entries 17, 20, 135, 148. -/
def Obligations.LinksDeliverAndConvert : Prop :=
  (∀ crew tid n s c r, s.crew? crew = some c → Crew.runs s c = true → tid < c.threads.length → (c.thread tid).chain = [r] → n < 16 →
      r.d = BitVec.ofNat 9 (0x100 + n) → r.linkNums = [] → n < (c.thread tid).links.length → let l := (c.thread tid).link n
      (l.st = .empty → ∃ t m, exec (.linkDigitDelivery crew tid n) s = .next t ∧ SameMachine s t ∧ (t.thread crew tid).link n = m ∧
        m.e = l.e ∧ m.digits = l.digits ∧ m.wide = l.wide ∧ ((m.st = .part ∧ m.cls = .finite ∧ (t.thread crew tid).chain = [r]) ∨ (m.st = .full ∧ (t.thread crew tid).chain = []))) ∧
      (l.st = .part → l.digits.length < linkN l.wide → ∃ t d, exec (.linkDigitDelivery crew tid n) s = .next t ∧ SameMachine s t ∧ (d = -1 ∨ d = 0 ∨ d = 1) ∧
        ((t.thread crew tid).link n).digits = l.digits ++ [d] ∧ ((t.thread crew tid).link n).st = (if l.digits.length + 1 = linkN l.wide then .full else .part) ∧
        (t.thread crew tid).chain = if l.digits.length + 1 = linkN l.wide then [] else [r])) ∧
  ((∀ crew tid n s c u, s.crew? crew = some c → Crew.runs s c = true → deliverLink n (c.thread tid) = some u → (c.thread tid).anyEnable = false →
        ∃ t, exec (.linkDigitDelivery crew tid n) s = .next t ∧ SameMachine s t ∧
          (tid < c.threads.length → t.thread crew tid = u) ∧ (∀ k, k ≠ tid → t.thread crew k = c.thread k) ∧
          (∀ k, k ≠ crew → t.crew? k = s.crew? k)) ∧
    (∀ td rm f s e n d, Ready (.fcvt td .f32 rm f) s e → f.a = .l n → f.d = .v d → f.imm = none → td ∈ [.f16, .bf16, .f64] →
        (e.lanes.map (·.2)).Nodup → (∀ l ∈ e.lanes, l.2 < e.c.threads.length ∧ (e.th l.2).chain = [] ∧ (e.th l.2).anyEnable = false ∧
          n.toNat < (e.th l.2).links.length ∧ ((e.th l.2).link n.toNat).st = .full ∧ d.toNat + 1 < (e.th l.2).v.length) →
        ∃ u, exec (.fcvt td .f32 rm f) s = .next (done e u) ∧ ∀ l ∈ e.lanes,
          let x := roundFl (fmtOf td) (modeIn rm (e.th l.2)) ((e.th l.2).link n.toNat).value
          ((u.thread e.c.id l.2).link n.toNat) = LinkReg.clear ∧ (u.thread e.c.id l.2).chain = [] ∧
          (u.thread e.c.id l.2).reg d.toNat = BitVec.ofNat 32 x.1 ∧
          (u.thread e.c.id l.2).fpflags = ((e.th l.2).raise (x.2 ||| pendFlags ((e.th l.2).link n.toNat).pf)).fpflags)) ∧
  (∀ r n t, (t.link n).st = .part → (t.link n).digits.length < linkN (t.link n).wide → n < t.links.length →
      (∀ m, .link m ∈ [r.a, r.b, r.c] → m ≠ n ∧ ((t.link m).st = .full → ∀ x ∈ t.chain, x.d ≠ BitVec.ofNat 9 (0x100 + m))) →
      ∀ u, deliverDigits 1 r n t = (u, true) →
        ∃ d, (u.link n).digits = (t.link n).digits ++ [d] ∧ (d = -1 ∨ d = 0 ∨ d = 1) ∧
          ((u.link n).st = .full ↔ (u.link n).digits.length = linkN (t.link n).wide))

/-! ### Control: R110 to R120 -/

/-- R110, R112: `bra` and `bri` complete while the frontier has room: each executing lane goes to its destination, four times the immediate from
the branch on or the address in A, the others go to the next word, and nothing but the warp's frontier changes. R112: `nop`, in its three formats, moves its
entry on and changes nothing else. R112, R127, R297: a destination, computed in 64 bits, that is not a multiple of 4, or lies at 2^56 or above, traps with
class 4, cause 2, in its lanes, with the lowest such lane's address; the record holds each of those lanes with its own. R212: in a handler `bra` moves the
handler's own program counter.
The model's choices in it: log entry 127. -/
def Obligations.BranchesAndNop : Prop :=
  ((∀ f s e, e.w.handler = none →
        (Ready (.bra f) s e → badTarget (branchTo e) = false → e.room 1 → ∃ t, exec (.bra f) s = .next t ∧
          Lands e t (fun _ => e.pc + (((e.f.imm.getD 0).signExtend 56) <<< 2)) ∧ BranchFrame e s t) ∧
        (Ready (.bri f) s e → (∀ l ∈ e.lanes, srcBits e.w (e.th l.2) .b64 e.f.a % 4 = 0 ∧ srcBits e.w (e.th l.2) .b64 e.f.a < 2 ^ 56) →
          e.room (destinations e fun l => BitVec.ofNat 56 (srcBits e.w (e.th l.2) .b64 e.f.a)).length → ∃ t, exec (.bri f) s = .next t ∧
          Lands e t (fun l => BitVec.ofNat 56 (srcBits e.w (e.th l.2) .b64 e.f.a)) ∧ BranchFrame e s t)) ∧
    (∀ f s e, (Ready (.nopN f) s e → exec (.nopN f) s = .next (done e s)) ∧ (Ready (.nopI f) s e → exec (.nopI f) s = .next (done e s)) ∧
        (Ready (.nopW f) s e → exec (.nopW f) s = .next (done e s)))) ∧
  (∀ f s e, (∀ bad l r, Ready (.bri f) s e →
        bad = (e.lanes.map fun l => (l.1, srcBits e.w (e.th l.2) .b64 e.f.a)).filter (fun x => x.2 % 4 != 0 || decide (2 ^ 56 ≤ x.2)) → bad = l :: r →
        exec (.bri f) s = .next (trapped e s (controlTrap 2 (BitVec.ofNat 64 l.2) (maskOf (bad.map (·.1))) (.values bad)))) ∧
      (Ready (.bra f) s e → e.lanes ≠ [] → ∀ x, x = ((e.pc.toNat : Int) + 4 * (e.f.imm.getD 0).toInt) % 2 ^ 64 → (x % 4 ≠ 0 ∨ 2 ^ 56 ≤ x) →
        exec (.bra f) s = .next (trapped e s (controlTrap 2 (BitVec.ofInt 64 x) e.execMask (.values (e.lanes.map fun l => (l.1, x.toNat)))))) ∧
      (∀ h, Ready (.bra f) s e → badTarget (branchTo e) = false → e.w.handler = some h → e.lanes ≠ [] → e.w.entries ≠ [] → ∃ t w, exec (.bra f) s = .next t ∧
        t.warp? e.c.id e.w.wid = some w ∧ w.handler = some { h with pc := e.pc + (((e.f.imm.getD 0).signExtend 56) <<< 2) } ∧ SameMemory s t))

/-- R113, R114: `call` and `calli` with fewer than 8 entries on the return stacks complete: DEPTH rises by one, the address after the call is on
top of what was there, and the lanes go to their destinations. At DEPTH 512 they trap with class 4, cause 3, whatever their destinations are; the record
holds those lanes with their depths (R127). R113, R116: a `call` at DEPTH 8 or more first writes the oldest on-chip entry to its place in memory, at the address that the context's
translation gives, as the plain 64-bit global store of R249.
The model's choices in it: log entry 127. -/
def Obligations.CallsPush : Prop :=
  (∀ (i : Instr) (f : Fields) (s : State) (e : Env) (dest : Nat × Nat → BitVec 56), (i = .call f ∧ ∀ l, dest l = e.pc + (((e.f.imm.getD 0).signExtend 56) <<< 2)) ∨
        (i = .calli f ∧ ∀ l, dest l = BitVec.ofNat 56 (srcBits e.w (e.th l.2) .b64 e.f.a)) →
      Ready i s e → e.w.handler = none →
      ((i = .call f → badTarget (branchTo e) = false) → (i = .calli f → ∀ l ∈ e.lanes, srcBits e.w (e.th l.2) .b64 e.f.a % 4 = 0 ∧
          srcBits e.w (e.th l.2) .b64 e.f.a < 2 ^ 56) → e.room (destinations e dest).length → (∀ l ∈ e.lanes, (e.th l.2).rsdepth < 8 ∧ l.2 < e.c.threads.length) → (e.lanes.map (·.2)).Nodup →
        ∃ t, exec i s = .next t ∧ Lands e t dest ∧ SameMemory s t ∧ ∀ l ∈ e.lanes,
          t.thread e.c.id l.2 = { e.th l.2 with rsdepth := (e.th l.2).rsdepth + 1
                                                rstack := (e.pc + BitVec.ofNat 56 e.len).setWidth 64 :: (e.th l.2).rstack.take 7 }) ∧
      (∀ deep l r, deep = e.lanes.filter (fun l => decide (512 ≤ (e.th l.2).rsdepth)) → deep = l :: r →
        exec i s = .next (trapped e s (controlTrap 3 (BitVec.ofNat 64 (e.th l.2).rsdepth) (maskOf (deep.map (·.1)))
          (.values (deep.map fun x => (x.1, (e.th x.2).rsdepth))))))) ∧
  (∀ f s e l key vp, Ready (.call f) s e → badTarget (branchTo e) = false → e.w.handler = none → e.lanes = [l] → e.room 1 → l.2 < e.c.threads.length →
      8 ≤ (e.th l.2).rsdepth → (e.th l.2).rsdepth < 512 → Quiet s e → e.w.stall = none →
      xlate s (dieOf (e.c.warpCore e.w)) (some (e.c.warpCore e.w)) e.c.ctx (((e.th l.2).rsbase.toNat / 8 * 8 + 8 * ((e.th l.2).rsdepth - 8)) % 2 ^ 56) .write = (s, .ok key vp) →
      s.poisoned key 8 = false → s.writesBlocked [key] = false →
      ∃ t, exec (.call f) s = .next t ∧
        t.mem = (accessKey s e.c.ctx (e.c.warpCore e.w) ⟨.global, .write, .b64, 1, .plain, .add⟩ key vp [((e.th l.2).rstack.getD 7 0).toNat]).1.mem ∧
        (t.thread e.c.id l.2).rsdepth = (e.th l.2).rsdepth + 1 ∧
        (t.thread e.c.id l.2).rstack = (e.pc + BitVec.ofNat 56 e.len).setWidth 64 :: (e.th l.2).rstack.take 7 ∧
        Lands e t fun _ => e.pc + (((e.f.imm.getD 0).signExtend 56) <<< 2))

/-- R115: `ret` with 1 to 8 entries on the return stacks completes: each lane goes to the address on top of its stack, which loses it. With an
empty stack it traps with class 4, cause 4.
The model's choices in it: log entry 59. -/
def Obligations.ReturnsPop : Prop :=
  ∀ f s e, Ready (.ret f) s e → e.w.handler = none →
    (e.room (destinations e fun l => ((e.th l.2).rstack.headD 0).setWidth 56).length → (e.lanes.map (·.2)).Nodup →
      (∀ l ∈ e.lanes, 1 ≤ (e.th l.2).rsdepth ∧ (e.th l.2).rsdepth ≤ 8 ∧ l.2 < e.c.threads.length ∧
        ((e.th l.2).rstack.headD 0).toNat % 4 = 0 ∧ ((e.th l.2).rstack.headD 0).toNat < 2 ^ 56) →
      ∃ t, exec (.ret f) s = .next t ∧ Lands e t (fun l => ((e.th l.2).rstack.headD 0).setWidth 56) ∧ SameMemory s t ∧
        ∀ l ∈ e.lanes, t.thread e.c.id l.2 = { e.th l.2 with rsdepth := (e.th l.2).rsdepth - 1, rstack := (e.th l.2).rstack.drop 1 }) ∧
    (∀ bad, bad = e.lanes.filter (fun l => (e.th l.2).rsdepth == 0) → bad ≠ [] →
      exec (.ret f) s = .next (trapped e s (controlTrap 4 0 (maskOf (bad.map (·.1))) (.values (bad.map fun l => (l.1, 0))))))

/-- R117: `exit` completes: its threads have ended, with no link, chain record or fence mark left and no lane of the warp any more; the barrier
expects that many fewer. R118: `park` completes. In a width-declared kernel its lanes go on at the next word and yield to every other entry that is not held; in a
width-free one they leave the warp as records of the pool at the next word. -/
def Obligations.ExitsAndParks : Prop :=
  (∀ f s e, Ready (.exit f) s e → e.w.handler = none → e.w.entries.length ≤ 8 → ∃ t, exec (.exit f) s = .next t ∧
      (∀ l ∈ e.lanes, l.2 < e.c.threads.length → (t.thread e.c.id l.2).exited = true ∧ (t.thread e.c.id l.2).chain = [] ∧
        (∀ x ∈ (t.thread e.c.id l.2).links, x = LinkReg.clear) ∧ (t.thread e.c.id l.2).v = (e.th l.2).v ∧ (t.thread e.c.id l.2).facq = none ∧
        (t.thread e.c.id l.2).frel = none) ∧
      (∀ w, t.warp? e.c.id e.w.wid = some w → ∀ l ∈ e.lanes, w.lanes.getD l.1 none = none ∧ ∀ x ∈ w.entries, x.mask.getLsbD l.1 = false) ∧
      (∀ c, t.crew? e.c.id = some c → c.barrier.expect = e.c.barrier.expect - e.lanes.length) ∧ SameMemory s t) ∧
  (∀ f s e, Ready (.park f) s e → e.w.handler = none → e.w.entries.length ≤ 8 → ∃ t, exec (.park f) s = .next t ∧ SameMemory s t ∧
      (e.sh.width ≠ 0 → Lands e t (fun _ => e.pc + 8) ∧ ∀ w x y, t.warp? e.c.id e.w.wid = some w → x ∈ w.entries → y ∈ w.entries →
        x.hold = .none → y.hold = .none → y.eid ≠ x.eid → y.eid ≠ e.eid → (∃ l ∈ e.lanes, x.mask.getLsbD l.1 = true) → y.eid ∈ x.yield) ∧
      (e.sh.width = 0 → ∀ l ∈ e.lanes, ∃ c r, t.crew? e.c.id = some c ∧ r.tid = l.2 ∧ r.pc = e.pc + 8 ∧
        (r ∈ c.queue ∨ ∃ b, some b ∈ c.bins ∧ r ∈ b.recs)))

/-- R119: `jset` names its lanes the members of join N, none of them arrived; while a lane waits at the join it traps with class 4, cause 5. R119: `jwait` completes: the members among its lanes have arrived; they go on at the next word once every member has, and are held at the
`jwait` until then. Lanes that are no members go on.
The model's choices in it: log entries 56, 150. -/
def Obligations.Joins : Prop :=
  (∀ j f s e, Ready (.jset j f) s e → e.w.handler = none → e.w.joins.length = 8 →
      ((∀ x ∈ e.w.entries, x.hold ≠ .jwait j.toNat) → e.w.entries.length ≤ 8 → ∃ t, exec (.jset j f) s = .next t ∧ Lands e t (fun _ => e.pc + 8) ∧
        (e.mask ≠ 0 → ∃ w, t.warp? e.c.id e.w.wid = some w ∧ w.joins = e.w.joins.set j.toNat ⟨e.execMask, 0⟩)) ∧
      ((∃ x ∈ e.w.entries, x.hold = .jwait j.toNat) → exec (.jset j f) s = .next (trapped e s (controlTrap 5 (j.setWidth 64) e.execMask)))) ∧
  (∀ j f s e n, Ready (.jwait j f) s e → e.w.handler = none → Quiet s e → e.w.joins.length = 8 → e.room 1 →
      (∀ x ∈ e.w.entries, x.hold = .jwait j.toNat → x.pc = e.pc) →
      ∃ t, exec (.jwait j f) s = .next t ∧ SameMemory s t ∧
        let q := e.w.joins.getD j.toNat ⟨0, 0⟩
        let come := maskOf ((e.lanes.filter fun l => q.members.getLsbD l.1).map (·.1))
        (come.getLsbD n = true → t.laneAt e.c.id e.w.wid n
          (if q.members &&& ~~~(q.arrived ||| come) = 0 then e.pc + 8 else e.pc)
          (if q.members &&& ~~~(q.arrived ||| come) = 0 then .none else .jwait j.toNat)) ∧
        (e.mask.getLsbD n = true → come.getLsbD n = false → t.laneAt e.c.id e.w.wid n (e.pc + 8) .none) ∧
        (come ≠ 0 → q.members &&& ~~~(q.arrived ||| come) ≠ 0 → ∀ w, t.warp? e.c.id e.w.wid = some w →
          w.joins.getD j.toNat ⟨0, 0⟩ = ⟨q.members, q.arrived ||| come⟩))

/-- R120, R241: `mig` of a whole settled warp whose address translates, with a place free on the die of its home slice, commits: the warp is there, or
home, and stands at the next word; a warp that is split, or shares its slot, traps with class 4, cause 6. R120, R241: MIG_COMMIT: a waiting `mig` commits as soon as a place is free for it.
The model's choices in it: log entries 60, 131, 137. -/
def Obligations.Migration : Prop :=
  (∀ f s e l r key vp, Ready (.mig f) s e → e.w.handler = none → e.lanes = l :: r →
      (e.w.live = e.execMask → partnerLive e.c e.w = false → e.w.stall = none → settled e.c e.w = true →
        srcBits e.w (e.th l.2) .b64 e.f.a < 2 ^ 56 →
        xlate s (dieOf (e.c.warpCore e.w)) (some (e.c.warpCore e.w)) e.c.ctx (srcBits e.w (e.th l.2) .b64 e.f.a) .read = (s, .ok key vp) →
        ∀ x y, e.w.entries = [y] → y.pc = e.pc → y.hold = .none →
          migPlace s e.c e.w key ((e.w.migWait.map (·.1)).getD s.cycle) = some x → ∃ t w, exec (.mig f) s = .next t ∧
          t.warp? e.c.id e.w.wid = some w ∧ w.away = x ∧ w.migWait = none ∧ (∀ n, e.mask.getLsbD n = true → w.laneAt n (e.pc + 8) .none) ∧
          SameMemory s t) ∧
      ((1 < e.w.entries.length ∨ e.w.live ≠ e.execMask ∨ partnerLive e.c e.w = true) →
        exec (.mig f) s = .next (trapped e (s.modCrew e.c.id fun c => c.modWarp e.w.wid fun w => { w with migWait := none })
          (controlTrap 6 (BitVec.ofNat 64 e.w.entries.length) e.execMask)))) ∧
  (∀ crew wid s c w wt x f l r key vp y, s.crew? crew = some c → c.warp? wid = some w → w.migWait = some wt → w.entries = [x] →
      decode c.kernel.shape (x.pc.toNat % 32) (codeBits c.kernel x.pc) = .ok (.mig f) → w.lanesIn x.mask = l :: r → settled c w = true →
      xlate s (dieOf (c.warpCore w)) (some (c.warpCore w)) c.ctx (srcBits w (c.thread l.2) .b64 f.a % 2 ^ 56) .read = (s, .ok key vp) →
      migPlace s c w key wt.1 = some y → ∃ t v, exec (.migCommit crew wid) s = .next t ∧ t.warp? crew wid = some v ∧ v.away = y ∧ v.migWait = none ∧
        (∀ z ∈ v.entries, z.pc = x.pc + 8) ∧ SameMemory s t)

/-! ### Memory: R151 to R169 -/

/-- R151, R157, R158, R164: `lds`, `sts` and `atms` of lanes with nothing under way complete: a load's data, the bytes of the scratchpad, is on its way
to D; a store leaves C there, an atomic the result of its operation while the old value is on its way; every byte that no lane's access covers is as it
was, and so is all other memory.
The model's choices in it: log entry 3. -/
def Obligations.ScratchpadAccesses : Prop :=
  ∀ i o m s e, memOf i = some (o, m) → o.space = .scratch → Ready i s e → Quiet s e → e.lanes ≠ [] → e.proper → e.legal s o m → e.c.scratch.wf = true →
    ∃ t c, exec i s = .next (done e t) ∧ t.mem = s.mem ∧ t.crew? e.c.id = some c ∧
      (∀ a, (o.kind = .read ∨ ∀ l ∈ e.lanes, a < e.addr m l ∨ e.addr m l + o.bytes ≤ a) → c.scratch.read a = e.c.scratch.read a) ∧
      ∀ l ∈ e.lanes, (∀ k ∈ e.lanes, k ≠ l → apart (e.addr m k) (e.addr m l) o.bytes) →
        let old (j : Nat) : Nat := e.c.scratch.nat (e.addr m l + j * o.w) o.w
        let ops := captured e o (e.th l.2)
        (o.kind = .read → Coming t e o l ((List.range o.count).map old)) ∧
        (o.kind = .write → ∀ j, j < o.count → c.scratch.nat (e.addr m l + j * o.w) o.w = ops.getD j 0) ∧
        (o.kind = .atomic → c.scratch.nat (e.addr m l) o.w = atomicNew o.t o.aop (old 0) ops ∧ Coming t e o l [old 0])

/-- R151, R158, R249, R252: `ldg`, `ldv` and `ldp` of lanes with nothing under way, whose accesses have a place, complete and change no byte; the data on its
way to D is what the point of service holds, where the access is an ordered one or the core holds no line of its own (R249 lets a plain load see an
older copy of its core). MEMORY_RETURN then fills the registers (R158).
The model's choices in it: log entries 3, 7. -/
def Obligations.LoadsBringMemory : Prop :=
  (∀ i o m s e k, memOf i = some (o, m) → o.kind = .read → o.space ∈ [.priv, .vault, .global] → Ready i s e → Quiet s e → e.lanes ≠ [] → e.proper →
    e.legal s o m → Granted s e o m k →
    ∃ t, exec i s = .next (done e t) ∧ t.mem = s.mem ∧ (∀ c, t.crew? e.c.id = some c → c.log = []) ∧
      ((o.ord ≠ .plain ∨ ∀ x ∈ s.l1, x.core ≠ e.c.warpCore e.w) → ∀ l ∈ e.lanes,
        Coming t e o l ((List.range o.count).map fun j => s.physNat ((k l).1 + j * o.w) o.w))) ∧
  (∀ id s r, s.rets.find? (fun x => x.id == id) = some r → ∃ t, exec (.memoryReturn id) s = .next t ∧ t.rets = s.rets.filter (fun x => x.id != id) ∧
    t.mem = s.mem ∧ ∀ c, s.crew? r.crew = some c → r.tid < c.threads.length → (r.writes.map (·.1)).Nodup → ∀ x ∈ r.writes, x.1 < (c.thread r.tid).v.length →
      (t.thread r.crew r.tid).reg x.1 = x.2 ∧ (t.thread r.crew r.tid).isFull x.1 1 = true)

/-- R151, R157, R162: `stg`, `stv` and `stp` of lanes with nothing under way, whose accesses have a place, complete: the elements of C stand at the
physical place of the lane's address, every byte of memory that no lane's access covers is as it was, and so is every register.
The model's choices in it: log entries 3, 7, 130. -/
def Obligations.StoresReachMemory : Prop :=
  ∀ i o m s e k, memOf i = some (o, m) → o.kind = .write → o.space ∈ [.priv, .vault, .global] → Ready i s e → Quiet s e → e.lanes ≠ [] → e.proper →
    e.legal s o m → Granted s e o m k → PlainMemory s → s.mem.wf = true →
    ∃ t, exec i s = .next (done e t) ∧ (∀ tid, t.thread e.c.id tid = s.thread e.c.id tid) ∧
      (∀ a, (∀ l ∈ e.lanes, a < (k l).1 ∨ (k l).1 + o.bytes ≤ a) → t.mem.read a = s.mem.read a) ∧
      ∀ l ∈ e.lanes, (∀ n ∈ e.lanes, n ≠ l → apart (k n).1 (k l).1 o.bytes) → ∀ j, j < o.count →
        t.mem.nat ((k l).1 + j * o.w) o.w = (captured e o (e.th l.2)).getD j 0

/-- R163 to R165: `atmg` and `atmv` of lanes with nothing under way, whose accesses have a place, complete: memory holds the result of the operation on what
was there, which is on its way to D; every byte no lane covers is as it was. The operations are those of R164: sums and exchanges, the lesser and the greater
in the type, the bitwise ones, compare and swap, and the wrapping counters.
The model's choices in it: log entries 3, 7. -/
def Obligations.AtomicsUpdateMemory : Prop :=
  (∀ i o m s e k, memOf i = some (o, m) → o.kind = .atomic → o.space ∈ [.vault, .global] → Ready i s e → Quiet s e → e.lanes ≠ [] → e.proper →
    e.legal s o m → Granted s e o m k → PlainMemory s → s.mem.wf = true →
    ∃ t, exec i s = .next (done e t) ∧ (∀ a, (∀ l ∈ e.lanes, a < (k l).1 ∨ (k l).1 + o.bytes ≤ a) → t.mem.read a = s.mem.read a) ∧
      ∀ l ∈ e.lanes, (∀ n ∈ e.lanes, n ≠ l → apart (k n).1 (k l).1 o.bytes) →
        t.mem.nat (k l).1 o.w = atomicNew o.t o.aop (s.mem.nat (k l).1 o.w) (captured e o (e.th l.2)) ∧ Coming t e o l [s.mem.nat (k l).1 o.w]) ∧
  (∀ t old x y, old < 2 ^ t.bits → x < 2 ^ t.bits → y < 2 ^ t.bits →
    atomicNew t .add old [x] = (old + x) % 2 ^ t.bits ∧ atomicNew t .xchg old [x] = x ∧
    (atomicNew t .min old [x] ∈ [old, x] ∧ ∀ z ∈ [old, x], intOf t (atomicNew t .min old [x]) ≤ intOf t z) ∧
    (atomicNew t .max old [x] ∈ [old, x] ∧ ∀ z ∈ [old, x], intOf t z ≤ intOf t (atomicNew t .max old [x])) ∧
    (∀ b, (atomicNew t .and old [x]).testBit b = (old.testBit b && x.testBit b) ∧ (atomicNew t .or old [x]).testBit b = (old.testBit b || x.testBit b) ∧
      (atomicNew t .xor old [x]).testBit b = (old.testBit b != x.testBit b)) ∧
    atomicNew t .cas old [x, y] = (if old = x then y else old) ∧
    atomicNew t .incw old [x] = (if x ≤ old then 0 else old + 1) ∧ atomicNew t .decw old [x] = (if old = 0 ∨ x < old then x else old - 1))

/-- R155, R156, R161, R342: `ldf`, `stf` and `atmf` of lanes with nothing under way complete: each element of each lane becomes a request that awaits its
reply, or, where there is no route to the peer, the access is unrecoverable with cause 9. `ldd` and `std` of one lane at a register of a die in service
complete with the register's value on its way, or with the register written. Memory does not change but by a register's own effect.
The model's choices in it: log entries 3, 113, 114. -/
def Obligations.FabricAndDeviceAccesses : Prop :=
  (∀ i o m s e, memOf i = some (o, m) → o.space = .fabric → Ready i s e → Quiet s e → e.lanes ≠ [] → e.proper → e.legal s o m →
    ((s.ctx e.c.ctx).jobV = true → s.gangHolds (s.ctx e.c.ctx).jobId = false ∧ s.roomFor (e.lanes.flatMap fun l => (List.range o.elems).map fun j =>
      (fabPeer (e.addr m l), (fabPacket s (s.ctx e.c.ctx) o (e.addr m l) j (captured e o (e.th l.2))).size)) = true) →
    ∃ t, exec i s = .next (done e t) ∧ t.mem = s.mem ∧
      ((s.ctx e.c.ctx).jobV = true → (∀ l ∈ e.lanes, (s.route (fabPeer (e.addr m l))).isSome) →
        t.fabOut.length = s.fabOut.length + e.lanes.length * o.elems ∧ ∀ l ∈ e.lanes, ∀ j, j < o.elems → ∃ y ∈ t.fabOut,
          y.crew = e.c.id ∧ y.tid = l.2 ∧ y.lane = l.1 ∧ y.elem = j ∧ y.addr = BitVec.ofNat 64 (e.addr m l + j * o.w)) ∧
      (((s.ctx e.c.ctx).jobV = false ∨ ∀ l ∈ e.lanes, s.route (fabPeer (e.addr m l)) = none) → t.fabOut = s.fabOut ∧ ∀ c, t.crew? e.c.id = some c →
        ∃ x, c.log = [x] ∧ x.wid = e.w.wid ∧ x.lanes.length = e.lanes.length ∧ ∀ y ∈ x.lanes, y.cause = 9 ∧ y.wait = .dead)) ∧
  (∀ t m f s e l u, u = { clearFences s e with uid := s.uid + 1 } → e.lanes = [l] → Quiet s e →
    (Ready (.ldd t m f) s e → e.legal s ⟨.device, .read, t, 1, m.ord, .add⟩ m → s.dieFenced (e.addr m l) = false ∨ dieReserved (e.addr m l) = true →
      ∃ v, exec (.ldd t m f) s = .next (done e v) ∧
        v.mem = (devLoad u (e.addr m l) (t.bits / 8)).1.mem ∧ v.dev = (devLoad u (e.addr m l) (t.bits / 8)).1.dev ∧
        (∀ d, f.d = .v d → ∃ r ∈ v.rets, r.crew = e.c.id ∧ r.tid = l.2 ∧ r.writes = loadWords t f.d [(devLoad u (e.addr m l) (t.bits / 8)).2])) ∧
    (Ready (.std t m f) s e → e.legal s ⟨.device, .write, t, 1, m.ord, .add⟩ m → s.dieFenced (e.addr m l) = false ∨ dieReserved (e.addr m l) = true →
      exec (.std t m f) s = .next (done e (devStore u (e.addr m l) (t.bits / 8) (srcBits e.w (e.th l.2) t f.c)))))

/-- R166: prefetches change nothing that a program sees but its core's L1, and outside a handler none of them traps, whatever its operands and addresses
are: it waits at issue, or it is done. R167: `fence.acq` marks the loads and atomics of each lane's thread that have not returned, `fence.rel` its accesses not
yet performed, `fence.ar` both.
The model's choices in it: log entries 124, 154. -/
def Obligations.PrefetchesAndFences : Prop :=
  ∀ m f s e,
    (Ready (.pfg m f) s e → ∃ t, exec (.pfg m f) s = .next (done e t) ∧ { t with l1 := s.l1 } = s) ∧
    (Ready (.pfgLlc m f) s e → exec (.pfgLlc m f) s = .next (done e s)) ∧
    (∀ i, i ∈ [.pfg m f, .pfgLlc m f] → envOf i s = some e → e.w.handler = none → noLinks f →
      exec i s = .next { s with waited := true } ∨ ∃ t, exec i s = .next (done e t) ∧ { t with l1 := s.l1 } = s) ∧
    (∀ i acq rel, (i = .fenceAcq f ∧ acq = true ∧ rel = false) ∨ (i = .fenceRel f ∧ acq = false ∧ rel = true) ∨ (i = .fenceAr f ∧ acq = true ∧ rel = true) →
      Ready i s e → e.proper → ∃ t, exec i s = .next (done e t) ∧ SameMemory s t ∧ ∀ l ∈ e.lanes,
        t.thread e.c.id l.2 = { e.th l.2 with facq := if acq then some (((e.th l.2).facq.getD []) ++ acqPending s e l.2) else (e.th l.2).facq
                                              finv := (e.th l.2).finv || acq
                                              frel := if rel then some (((e.th l.2).frel.getD []) ++ relPending s e l.2) else (e.th l.2).frel })

/-- R168: `bar` of a width-declared kernel completes: its threads have arrived; with the last thread expected every held lane goes on at the next word and the
count starts at 0; until then the lanes are held at the `bar`. R170 to R173: `swinit` sets TARGET and clears the rest but GEN; `swarrive` adds its count modulo TARGET and moves GEN on by the times TARGET was reached, and
brings GEN to D; `swait` goes on at once where GEN is not the expected one, with the status in D, and holds its lane at the instruction where it is.
The model's choices in it: log entries 3, 57, 58, 61. -/
def Obligations.BarriersAndSyncWords : Prop :=
  (∀ f s e, Ready (.bar f) s e → e.w.handler = none → Quiet s e → e.lanes ≠ [] → e.sh.width ≠ 0 →
      ∃ t c, exec (.bar f) s = .next t ∧ t.crew? e.c.id = some c ∧ SameMemory s t ∧
        if e.c.barrier.arrived + e.lanes.length = e.c.barrier.expect then
          c.barrier.arrived = 0 ∧ c.barrier.mask = 0 ∧ (∀ l ∈ e.lanes, t.laneAt e.c.id e.w.wid l.1 (e.pc + 8) .none) ∧ ∀ w ∈ c.warps, ∀ x ∈ w.entries, x.hold ≠ .bar
        else
          c.barrier.arrived = e.c.barrier.arrived + e.lanes.length ∧ c.barrier.expect = e.c.barrier.expect ∧
            ∀ l ∈ e.lanes, t.laneAt e.c.id e.w.wid l.1 e.pc .bar ∧ c.barrier.mask.getLsbD l.2 = decide (l.2 < 2048)) ∧
  (∀ m f s e l, e.lanes = [l] → e.proper → Quiet s e → e.w.away = none → e.w.handler = none → swCheck e.c (s.ctx e.c.ctx) (e.addr m l) = none →
      swLost s e.c (e.addr m l) = false → s.mem.wf = true → e.c.scratch.wf = true → PlainMemory s →
      let a := e.addr m l
      let old := swRead s e.c.id a
      let n := e.countC (e.th l.2)
      (Ready (.swinit m f) s e → n ≠ 0 → ∃ t, exec (.swinit m f) s = .next (done e t) ∧ swRead t e.c.id a = ⟨n, 0, old.gen, false, false⟩) ∧
      (Ready (.swinit m f) s e → n = 0 → exec (.swinit m f) s = .next (trapped e s (accessTrap 7 [(l.1, a)]))) ∧
      (Ready (.swarrive m f) s e → old.target ≠ 0 → ∃ t, exec (.swarrive m f) s = .next (done e t) ∧
        swRead t e.c.id a = ⟨old.target, if n = 0 then old.arrived else (old.arrived + n) % old.target,
          if n = 0 then old.gen else (old.gen + (old.arrived + n) / old.target) % 2 ^ 32, old.faulted,
          if n = 0 then old.overrun else old.overrun || decide (1 < (old.arrived + n) / old.target)⟩ ∧
        (∀ d, f.d = .v d → d.toNat < (e.th l.2).v.length → (t.thread e.c.id l.2).reg d.toNat = BitVec.ofNat 32 (swRead t e.c.id a).gen)) ∧
      (Ready (.swarrive m f) s e → old.target = 0 → exec (.swarrive m f) s = .next (trapped e s (accessTrap 7 [(l.1, a)]))) ∧
      (Ready (.swait m f) s e → old.faulted = false → e.sh.width ≠ 0 → (∀ x ∈ e.w.entries, x.eid = e.eid → x.pc = e.pc ∧ x.hold = .none) → ∃ t, exec (.swait m f) s = .next t ∧
        (old.gen = n → t.laneAt e.c.id e.w.wid l.1 e.pc .swait ∧ ∀ c, t.crew? e.c.id = some c → ∃ x ∈ c.waits, x.tid = l.2 ∧ x.expect = BitVec.ofNat 32 n ∧ x.off = swOff a) ∧
        (old.gen ≠ n → t.laneAt e.c.id e.w.wid l.1 (e.pc + 16) .none ∧ ∀ d, f.d = .v d → d.toNat + 1 < (e.th l.2).v.length →
          (∀ x ∈ e.c.copies, x = none) → (t.thread e.c.id l.2).pair d.toNat = BitVec.ofNat 64 old.gen)))

/-! ### Engines: R174 to R203 -/

/-- R174, R178, R182: `cpy` of one lane with a legal descriptor and a free entry takes the lowest free entry with the next serial number, and brings its handle to
D; COPY_GRANULE happens whenever the engine can move, and of a copy without conversion within the scratchpad moves 32 bytes in row order; `cpyq` brings the
state of the handle, 4 for one that names no entry. R297: the first `cpyq` of a faulted copy writes its status and takes the engine trap, to restart after it.
The model's choices in it: log entries 62, 65, 132, 133. -/
def Obligations.CopiesRun : Prop :=
  (∀ q f s e l i, Ready (.cpy q f) s e → Quiet s e → e.w.cpy = none → e.lanes = [l] → e.proper → e.c.copies.length = 16 →
    let a := srcBits e.w (e.th l.2) .n32 f.a
    a % 64 = 0 → a + 64 ≤ e.sh.scratch → descFault e.sh.qgroup (e.c.scratch.bytes a 64) = none →
    rowFault e.c (s.ctx e.c.ctx) (copyDesc (e.c.scratch.bytes a 64)) = none → freeCopy e.c = some i →
    ∃ t c, exec (.cpy q f) s = .next (done e t) ∧ t.crew? e.c.id = some c ∧ c.copySerial = (e.c.copySerial + 1) % 2 ^ 28 ∧
      c.copies = e.c.copies.set i (some ⟨BitVec.ofNat 32 (e.c.copySerial % 2 ^ 28 * 16 + i), q, .running, 0, 0, 0, 0, e.c.scratch.bytes a 64, false, none⟩) ∧
      ∀ d, f.d = .v d → d.toNat < (e.th l.2).v.length →
        (t.thread e.c.id l.2).reg d.toNat = BitVec.ofNat 32 (e.c.copySerial % 2 ^ 28 * 16 + i)) ∧
  (∀ crew i s c t, s.crew? crew = some c → Crew.runs s c = true → copyStep s crew i = some t → exec (.copyGranule crew i) s = .next t) ∧
  (∀ crew i s c x d, s.crew? crew = some c → Crew.runs s c = true → c.copies.getD i none = some x → d = copyDesc x.desc → x.st = .running → x.wait = none →
    d.sfmt = 0 → d.dfmt = 0 → d.ssp = 2 → d.dsp = 2 → d.swz = 0 → d.mcast = 0 → d.swa = 2 ^ 64 - 1 → x.pmask = 0 → 0 < d.perRow → d.elems = 32 * d.perRow →
    c.scratch.wf = true →
    let src := (d.srcRow (x.prog / d.perRow) + 32 * (x.prog % d.perRow)) % 2 ^ 64
    let dst := (d.dstRow (x.prog / d.perRow) + 32 * (x.prog % d.perRow)) % 2 ^ 64
    src + 32 ≤ c.kernel.shape.scratch → dst + 32 ≤ c.kernel.shape.scratch → dst + 32 ≤ 2 ^ 64 →
    ∃ t k y, exec (.copyGranule crew i) s = .next t ∧ t.crew? crew = some k ∧ (∀ j, j < 32 → k.scratch.read (dst + j) = c.scratch.read (src + j)) ∧
      (∀ a, a < dst ∨ dst + 32 ≤ a → k.scratch.read a = c.scratch.read a) ∧ k.copies.getD i none = some y ∧ y.prog = x.prog + 1 ∧
      (y.st = .done ↔ d.total ≤ x.prog + 1) ∧ t.mem = s.mem) ∧
  (∀ f s e l d, Ready (.cpyq f) s e → e.lanes = [l] → e.proper → f.d = .v d →
    let h := srcBits e.w (e.th l.2) .n32 f.a
    let st := match e.c.copies.getD (h % 16) none with
      | none => 4
      | some x => if x.handle.toNat = h then x.prog * 32 % 2 ^ 32 * 2 ^ 32 + (if x.st = .part then x.pmask.toNat * 16 else 0) + x.st.code else 4
    ((∀ x, e.c.copies.getD (h % 16) none = some x → x.handle.toNat = h → x.st ≠ .faulted ∨ x.reported = true) →
      ∃ t, exec (.cpyq f) s = .next (done e t) ∧ ∃ r ∈ t.rets, r.crew = e.c.id ∧ r.tid = l.2 ∧ r.writes = resultWords .b64 d.toNat st) ∧
    (∀ x, e.c.copies.getD (h % 16) none = some x → x.handle.toNat = h → x.st = .faulted → x.reported = false → d.toNat + 1 < (e.th l.2).v.length →
      ∃ u, exec (.cpyq f) s = .next (trapped e u { cls := 9, cause := 1, tval := BitVec.ofNat 64 (h + x.cause.toNat * 2 ^ 32), lanes := maskOf [l.1], after := true }) ∧
        (u.thread e.c.id l.2).pair d.toNat = BitVec.ofNat 64 st ∧ u.mem = s.mem))

/-- R189 to R195: `tzero` fills its tile with zeros; `tld` and `tst` of a configured tile that nothing else holds issue with the tile marked; a load from the
scratchpad that comes first among its tile's writers completes with the rows in the tile, and a store to it leaves the tile there.
The model's choices in it: log entry 64. -/
def Obligations.TilesMove : Prop :=
  (∀ f s e l r n, Ready (.tzero f) s e → e.lanes = l :: r → f.d = .t n → n.toNat < e.c.tiles.length → tileRL (e.c.tile n.toNat).cfg ≠ 0 →
    (e.c.tile n.toNat).idle = true → (e.c.tile n.toNat).data.wf = true →
    ∃ t c, exec (.tzero f) s = .next (done e t) ∧ t.crew? e.c.id = some c ∧ t.mem = s.mem ∧
      ∀ a, a < 16 * tileRL (e.c.tile n.toNat).cfg * tileRows (e.c.tile n.toNat).cfg → (c.tile n.toNat).data.read a = 0) ∧
  (∀ spc st d f s e l r n, Ready (.tld spc st d f) s e → Quiet s e → e.lanes = l :: r → f.d = .t n → n.toNat < e.c.tiles.length →
    tileRL (e.c.tile n.toNat).cfg ≠ 0 → (e.c.tile n.toNat).idle = true →
    rowsCheck e.c (s.ctx e.c.ctx) spc l.1 (tileSpans (tileBase e (e.th l.2) f.a d) st.toNat (e.c.tile n.toNat).cfg) = .pass →
    ∃ t c x, exec (.tld spc st d f) s = .next (done e t) ∧ t.crew? e.c.id = some c ∧ c.transfers = [x] ∧ x.tile = n.toNat ∧
      x.base = BitVec.ofNat 64 (tileBase e (e.th l.2) f.a d) ∧ (c.tile n.toNat).writers = [x.id] ∧ (c.tile n.toNat).data = (e.c.tile n.toNat).data) ∧
  (∀ spc st d f s e l r n, Ready (.tst spc st d f) s e → Quiet s e → e.lanes = l :: r → f.a = .t n → n.toNat < e.c.tiles.length →
    tileRL (e.c.tile n.toNat).cfg ≠ 0 → (e.c.tile n.toNat).writers = [] → (e.c.tile n.toNat).lends < 63 →
    rowsCheck e.c (s.ctx e.c.ctx) spc l.1 (tileSpans (tileBase e (e.th l.2) f.b d) st.toNat (e.c.tile n.toNat).cfg) = .pass →
    ∃ t c x, exec (.tst spc st d f) s = .next (done e t) ∧ t.crew? e.c.id = some c ∧ c.transfers = [x] ∧ x.tile = n.toNat ∧
      x.base = BitVec.ofNat 64 (tileBase e (e.th l.2) f.b d) ∧ (c.tile n.toNat).lends = (e.c.tile n.toNat).lends + 1) ∧
  (∀ crew s c x st d f, s.crew? crew = some c → Crew.runs s c = true → c.transfers = [x] → x.dead = false → x.wait = none → x.tile < c.tiles.length →
    x.base.toNat + 16 * tileRL x.cfg * tileRows x.cfg ≤ 2 ^ 64 →
    (x.instr = .tld .sp st d f → (c.tile x.tile).writers.head? = some x.id → (c.tile x.tile).data.wf = true →
      ∃ t k, exec (.tileLoadComplete crew x.id) s = .next t ∧ t.crew? crew = some k ∧ k.transfers = [] ∧
        (∀ p ∈ transferPieces x, ∀ j, j < 16 → (k.tile x.tile).data.read (p.2 + j) = c.scratch.read (p.1 + j)) ∧
        (k.tile x.tile).writers = (c.tile x.tile).writers.filter (· != x.id) ∧ k.scratch = c.scratch ∧ t.mem = s.mem) ∧
    (x.instr = .tst .sp st d f → c.scratch.wf = true →
      ∃ t k, exec (.tileStoreReadDone crew x.id) s = .next t ∧ t.crew? crew = some k ∧ k.transfers = [] ∧
        (∀ a, (∀ p ∈ transferPieces x, a < p.1 ∨ p.1 + 16 ≤ a) → k.scratch.read a = c.scratch.read a) ∧
        (st = 0 → ∀ p ∈ transferPieces x, ∀ j, j < 16 → k.scratch.read (p.1 + j) = (c.tile x.tile).data.read (p.2 + j)) ∧
        (k.tile x.tile).data = (c.tile x.tile).data ∧ (k.tile x.tile).lends = (c.tile x.tile).lends - 1 ∧ t.mem = s.mem))

/-- R196 to R203: `mmx` with a legal parameter block and room in its quad's table queues a request, whose handle is in D; a pass is granted to a request that is
ready and runs when none does; the pass that has run its beats ends with each element of its accumulator rounded once from the wide partial, and the request goes
on to its next pass or is done; `mmq` brings the state of the handle to every executing lane.
The model's choices in it: log entries 63, 65. -/
def Obligations.MatrixRequestsRun : Prop :=
  (∀ q f s e l r i, Ready (.mmx q f) s e → Quiet s e → e.lanes = l :: r → e.proper → e.c.mats.length = 32 →
    let a := srcBits e.w (e.th l.2) .n32 f.a
    let b := readBlock e.c a
    a % 16 = 0 → blockFault e.c a b = none → tableUsed s (quadOf e.c.core) < 32 → (∀ t ∈ readTiles b.passes, (e.c.tile t).lends < 63) → freeMat e.c = some i →
    ∃ t c m, exec (.mmx q f) s = .next (done e t) ∧ t.crew? e.c.id = some c ∧ c.mats.getD i none = some m ∧ m.st = .queued ∧ m.cur = 0 ∧ m.passes = b.passes ∧
      m.mpri = q ∧ m.handle = BitVec.ofNat 32 (e.c.matSerial % 2 ^ 27 * 32 + i) ∧ t.mem = s.mem ∧
      (∀ k ∈ e.lanes, ∀ d, f.d = .v d → d.toNat < (e.th k.2).v.length → (t.thread e.c.id k.2).reg d.toNat = m.handle)) ∧
  (∀ quad s c m, (∀ x ∈ quadMats s quad, x.2.st ≠ .running) → grantPick s quad = some (c, m) → s.crew? c.id = some c → c.mats.getD m.num none = some m →
    ∃ t k n, exec (.matrixPassGrant quad) s = .next t ∧ t.crew? c.id = some k ∧ k.mats.getD m.num none = some n ∧ n.st = .running ∧ n.start = s.cycle ∧ n.cur = m.cur ∧
      Crew.runs s c = true ∧ passReady c m = true) ∧
  (∀ quad s c m, (quadMats s quad).find? (fun x => x.2.st == .running) = some (c, m) → passBeats m.pass ≤ m.beat + (s.cycle - m.start) → s.crew? c.id = some c →
    c.mats.getD m.num none = some m → passCT m.pass < c.tiles.length → (c.tile (passCT m.pass)).data.wf = true → m.w.length = 256 →
    accShape (shapeOf m (passCT m.pass)) = true → tcfgFault (shapeOf m (passCT m.pass)) = none →
    ∃ t k n, exec (.matrixPassEnd quad) s = .next t ∧ t.crew? c.id = some k ∧ k.mats.getD m.num none = some n ∧ n.cur = m.cur + 1 ∧ n.beat = 0 ∧
      (n.st = if m.cur + 1 = m.passes.length then .done else .queued) ∧ t.mem = s.mem ∧ k.scratch = c.scratch ∧
      ∀ x y, x < 16 → y < 16 → tileNat k (passCT m.pass) (shapeOf m (passCT m.pass)) x y =
        (roundFl fmtF32 .rne (wpDecode ((passBeatsDo c m m.w m.beat (passBeats m.pass)).getD (16 * x + y) 0))).1) ∧
  (∀ f s e l r d, Ready (.mmq f) s e → e.lanes = l :: r → f.d = .v d →
    let h := srcBits e.w (e.th l.2) .n32 f.a
    let st := match e.c.mats.getD (h % 32) none with
      | none => 4
      | some m => if m.handle.toNat = h then (if m.st = .running then beatsDone s m else m.beat) * 2 ^ 16 + m.cur * 2 ^ 8 + m.st.code else 4
    ∃ t, exec (.mmq f) s = .next (done e t) ∧ t.mem = s.mem ∧ ∀ k ∈ e.lanes, ∃ x ∈ t.rets, x.crew = e.c.id ∧ x.tid = k.2 ∧ x.writes = resultWords .b64 d.toNat st)

/-! ### Control registers, time and traps: R204 to R214, R296 to R302, R317 -/

/-- R204, R205: `csrr` completes and brings, in the register's width, the value of the register its number names, each lane its own thread's where the register
is a thread's; the register of each number is the one of R205. A number that only a handler may name raises the handler-state trap in every executing lane
outside a handler. R207: `time` completes with the timebase at issue. `time.ord` completes with it where no executing thread has an access, a transfer, a link
instruction or data under way, and is held at issue, with nothing changed but the mark that it waited, while one has and none of these is unrecoverable.
The model's choices in it: log entry 2. -/
def Obligations.ControlRegisterReads : Prop :=
  (∀ num f s e, Ready (.csrr num f) s e → exec (.csrr num f) s = .next (done e
    (writeD e s (csrTy num.toNat) (e.lanes.map fun l => (l.2, csrValue s e.c e.w (e.th l.2) l.2 num.toNat))))) ∧
  (∀ num f s e, envOf (.csrr num f) s = some e → e.w.handler = none → issueHeld e = false → surfaced e = .pass → e.lanes ≠ [] →
    num ∈ [0x040, 0x041, 0x042, 0x043, 0x044] →
    exec (.csrr num f) s = .next (trapped e s { cls := 12, cause := 0, tval := e.pc.setWidth 64, lanes := e.execMask })) ∧
  (∀ n, csrTy n = if n ∈ [0x019, 0x020, 0x030, 0x031, 0x041, 0x042, 0x043, 0x044] then .n64 else .n32) ∧
  (∀ s (c : Crew) w (th : Thread) tid h r, w.handler = some h → h.record = r →
    let v (n : Nat) : Nat := csrValue s c w th tid n
    v 0 = tid ∧ v 1 = c.pos % c.kernel.shape.qgroup ∧ v 2 = c.pos / c.kernel.shape.qgroup % c.kernel.shape.dgroup ∧
    v 3 = c.pos / (c.kernel.shape.qgroup * c.kernel.shape.dgroup) ∧ v 4 = s.hostF 0x800030 11 0 ∧ v 0x10 = th.fpctl.toNat ∧ v 0x11 = th.fpflags.toNat ∧
    v 0x18 = th.rsdepth ∧ v 0x19 = th.rsbase.toNat ∧ v 0x20 = c.kernel.dataVA.toNat ∧ v 0x30 = s.timebase.toNat ∧ v 0x31 = (s.ctx c.ctx).stepcount.toNat ∧
    v 0x40 = r.tcause.toNat ∧ v 0x41 = r.tpc.toNat ∧ v 0x42 = r.tval.toNat ∧ v 0x43 + v 0x44 * 2 ^ 64 = r.tmask.toNat ∧
    ∀ t, t < 32 → v (0x100 + t) = (tcfgRead (c.tile t)).toNat) ∧
  (∀ f s e, Ready (.time f) s e → exec (.time f) s = .next (done e (writeD e s .n64 (e.lanes.map fun l => (l.2, s.timebase.toNat))))) ∧
  (∀ f s e, Ready (.timeOrd f) s e →
    let busy (l : Nat × Nat) : Prop := (e.th l.2).chain ≠ [] ∨ (∃ r ∈ s.rets, r.crew = e.c.id ∧ r.tid = l.2) ∨ (∃ x ∈ e.c.log, ∃ y ∈ x.lanes, y.tid = l.2) ∨
      (∃ x ∈ e.c.transfers, x.tid = l.2) ∨ ∃ x ∈ s.fabOut, x.crew = e.c.id ∧ x.tid = l.2
    ((∀ l ∈ e.lanes, ¬ busy l) → exec (.timeOrd f) s = .next (done e (writeD e (clearFences s e) .n64 (e.lanes.map fun l => (l.2, s.timebase.toNat))))) ∧
    ((∃ l ∈ e.lanes, busy l) → (∀ x ∈ e.c.log, x.dead = false) → (∀ x ∈ e.c.transfers, x.dead = false) →
      exec (.timeOrd f) s = .next { s with waited := true }))

/-- R35, R36, R113, R186, R188, R205, R206, R208: `csrw` gives every executing thread its own A in the bits that a register of a thread has; a shape register of a
tile that nothing holds takes a legal shape, and an illegal one traps; a handler sets its `tpc` to the leader's A; `cstep` adds the leader's A to the context's `stepcount`.
The model's choices in it: log entry 69. -/
def Obligations.ControlRegisterWrites : Prop :=
  (∀ num f s e l r, Ready (.csrw num f) s e → e.lanes = l :: r → e.proper →
    let x := srcBits e.w (e.th l.2) (csrTy num.toNat) f.a
    let own (k : Nat × Nat) : Nat := srcBits e.w (e.th k.2) (csrTy num.toNat) f.a
    let ready := ∀ k ∈ e.lanes, (e.th k.2).consuming = false
    (num = 0x010 → ready → ∃ t, exec (.csrw num f) s = .next (done e t) ∧ SameMemory s t ∧
      ∀ k ∈ e.lanes, t.thread e.c.id k.2 = { e.th k.2 with fpctl := BitVec.ofNat 32 (own k) &&& 0x1F03 }) ∧
    (num = 0x011 → ready → ∃ t, exec (.csrw num f) s = .next (done e t) ∧ SameMemory s t ∧
      ∀ k ∈ e.lanes, t.thread e.c.id k.2 = { e.th k.2 with fpflags := BitVec.ofNat 32 (own k) &&& 0x1F }) ∧
    (num = 0x010 ∨ num = 0x011 → ¬ ready → exec (.csrw num f) s = .next { s with waited := true }) ∧
    (num = 0x019 → ∃ t, exec (.csrw num f) s = .next (done e t) ∧ SameMemory s t ∧
      ∀ k ∈ e.lanes, t.thread e.c.id k.2 = { e.th k.2 with rsbase := BitVec.ofNat 64 (own k) &&& 0x00FFFFFFFFFFFFF8 }) ∧
    (num = 0x041 → ∀ h, e.w.handler = some h → ∃ t w, exec (.csrw num f) s = .next (done e t) ∧ t.warp? e.c.id e.w.wid = some w ∧
      w.handler = some { h with record := { h.record with tpc := BitVec.ofNat 64 x } }) ∧
    (∀ t, num.toNat = 0x100 + t → t < e.c.tiles.length →
      let y := BitVec.ofNat 32 x &&& 0x0007FFE0
      (∀ code, tcfgFault y = some code → exec (.csrw num f) s = .next (trapped e s (shapeTrap t code (maskOf [l.1])))) ∧
      (tcfgFault y = none → (e.c.tile t).idle = false → exec (.csrw num f) s = .next { s with waited := true }) ∧
      (tcfgFault y = none → (e.c.tile t).idle = true → ∃ u c, exec (.csrw num f) s = .next (done e u) ∧ u.crew? e.c.id = some c ∧
        c.tile t = { e.c.tile t with cfg := y } ∧ ∀ n, n ≠ t → c.tile n = e.c.tile n))) ∧
  (∀ f s e l r, Ready (.cstep f) s e → Quiet s e → e.lanes = l :: r → ckEn s e.c.ctx = false → ∃ t, exec (.cstep f) s = .next (done e t) ∧
    t.ctx e.c.ctx = { s.ctx e.c.ctx with stepcount := (s.ctx e.c.ctx).stepcount + BitVec.ofNat 64 (srcBits e.w (e.th l.2) .n32 f.a) } ∧
    (∀ n, n ≠ e.c.ctx → t.ctx n = s.ctx n) ∧ SameMemory s t)

/-- R209 to R211, R68: `trap` takes the software trap, to return after it; `assert` goes on where its predicate is 1 in every executing lane and takes the
assertion trap in the others; `brk` is a `nop` unless the debugger asked for it, and then begins a halt of the context that reports its address (R303); an illegal word traps in every lane of
its entry.
The model's choices in it: log entry 70. -/
def Obligations.SoftwareTraps : Prop :=
  ∀ code msg f s e,
    (Ready (.trap code f) s e → (e.lanes = [] → exec (.trap code f) s = .next (done e s)) ∧ (e.lanes ≠ [] → exec (.trap code f) s =
      .next (trapped e s { cls := 10, cause := 0, tval := code.setWidth 64, lanes := e.execMask, after := true }))) ∧
    (Ready (.assert msg f) s e → ((∀ l ∈ e.lanes, predOf (e.th l.2) f.a = true) → exec (.assert msg f) s = .next (done e s)) ∧
      (∀ bad, bad = e.lanes.filter (fun l => !predOf (e.th l.2) f.a) → bad ≠ [] → exec (.assert msg f) s =
        .next (trapped e s { cls := 11, cause := 0, tval := e.c.kernel.dataVA + msg.setWidth 64, lanes := maskOf (bad.map (·.1)), note := .values bad }))) ∧
    (Ready (.brk code f) s e → (e.lanes = [] ∨ s.haltEn e.c.ctx = false → exec (.brk code f) s = .next (done e s)) ∧
      (e.lanes ≠ [] → s.haltEn e.c.ctx = true → ∃ t, exec (.brk code f) s = .next (done e t) ∧ SameMemory s t ∧
        t.ctx e.c.ctx = { s.ctx e.c.ctx with stop := some ⟨5, 4, 0⟩, halting := true, brkAt := some (e.c.pos, e.w.wid, e.pc.setWidth 64) } ∧ t.hostF (ctxOff e.c.ctx + 0x18) 6 5 = 1)) ∧
    (∀ cause v, envOf (.illegalInstruction cause v) s = some e → exec (.illegalInstruction cause v) s =
      .next (trapped e s { cls := 1, cause := cause.toNat, tval := v, lanes := e.mask }))

/-- R212, R298, R300 to R302, R317: what taking a trap does. A kernel's handler is entered at its address with the record of the trap, which names class and cause, the
place to return to, the value, the lanes and the time; a trap that no handler takes stops the context with reason 5, or 6 for an assertion; one under a stop stays
with its warp, whose entry then stands at the restart point; one more in a trap stop is counted. No register of a thread and no byte of memory changes.
The model's choices in it: log entry 127. -/
def Obligations.TakingATrap : Prop :=
  ∀ s crew wid eid pc len t c w, s.crew? crew = some c → c.warp? wid = some w → w.handler = none →
    let x := s.ctx c.ctx
    let r : TrapRec := ⟨BitVec.ofNat 32 (t.cls * 2 ^ 24 + t.cause % 256 * 2 ^ 16 + t.mstep % 32 * 2 ^ 8), ((if t.after then pc + BitVec.ofNat 56 len else pc)).setWidth 64,
      t.tval, ((t.tinst.getD pc)).setWidth 64, t.lanes, s.timebase, t.note⟩
    let kept : Warp := { w with trap := some r, trapEid := eid, entries := w.entries.map fun y => if y.eid = eid then { y with pc := r.tpc.setWidth 56 } else y }
    let u := takeTrap s crew wid eid pc len t
    let user := c.kernel.trapVA ≠ 0 ∧ c.kernel.shape.width ≠ 0 ∧ 1 ≤ t.cls ∧ t.cls ≤ 10 ∧ ¬(t.cls = 9 ∧ (t.cause = 2 ∨ t.cause = 3))
    SameMemory s u ∧ (∀ id tid, u.thread id tid = s.thread id tid) ∧ (∀ n, n ≠ c.ctx → u.ctx n = s.ctx n) ∧
    (x.trapStop = false → x.holds c.pos = false → user →
      u.warp? crew wid = some { w with handler := some ⟨BitVec.ofNat 56 c.kernel.trapVA, r, eid⟩, trap := none } ∧ u.ctx c.ctx = x) ∧
    (x.trapStop = false → x.holds c.pos = false → ¬user →
      u.warp? crew wid = some kept ∧ (u.ctx c.ctx).trapStop = true ∧ (u.ctx c.ctx).primary = some (r, c.pos, wid) ∧
      (u.ctx c.ctx).stop = some ⟨if s.haltEn c.ctx then 5 else 4, if t.cls = 11 then 6 else 5, 0⟩) ∧
    (x.trapStop = false → x.holds c.pos = true → u.warp? crew wid = some kept ∧ u.ctx c.ctx = x) ∧
    (x.trapStop = true → u.warp? crew wid = some kept ∧ (u.ctx c.ctx).nsecond = x.nsecond + 1 ∧
      (u.ctx c.ctx).seconds = if x.seconds.length < 4 then x.seconds ++ [(c.pos, r)] else x.seconds)

/-- R213, R214: `rte` leaves the handler, and the lanes of the trapping entry go on at `tpc`; `lrd` brings a register of the lane that B names, a predicate or a full
link's snapshot to scalar registers; `lwr` puts one into a register, which is then full, a predicate, or a link whose snapshot is legal, and which no link
instruction of the thread waits for.
The model's choices in it: log entries 14, 16, 21, 129. -/
def Obligations.HandlerInstructions : Prop :=
  (∀ f s e h x, Ready (.rte f) s e → e.w.handler = some h → e.w.entries.find? (fun y => y.eid == h.eid) = some x → x.hold = .none →
    ∃ t w, exec (.rte f) s = .next t ∧ t.warp? e.c.id e.w.wid = some w ∧ w.handler = none ∧ SameMemory s t ∧
      ∀ n, x.mask.getLsbD n = true → w.laneAt n (h.record.tpc.setWidth 56 &&& ~~~3) .none) ∧
  (∀ kind f s e tid d, Ready (.lrd kind f) s e → e.w.handler.isSome = true → laneThread e = some tid → f.d = .s d → d.toNat + 3 < e.w.s.length →
    ∃ t w, exec (.lrd kind f) s = .next (done e t) ∧ t.warp? e.c.id e.w.wid = some w ∧ SameMemory s t ∧
      (∀ n, f.a = .v n → kind = 1 → w.s.getD d.toNat 0 = (e.th tid).pair n.toNat) ∧
      (∀ n, f.a = .v n → kind ≠ 1 →
        w.s.getD d.toNat 0 = ((e.th tid).reg n.toNat).setWidth 64 ||| (if (e.th tid).isFull n.toNat 1 then 0 else 0x100000000)) ∧
      (∀ n, f.a = .p n → w.s.getD d.toNat 0 = if (e.th tid).pred n.toNat then 1 else 0) ∧
      (∀ n i, f.a = .l n → i < (if kind = 3 then 4 else 2) → ((e.th tid).link n.toNat).wide = (kind == 3) →
        w.s.getD (d.toNat + i) 0 = BitVec.ofNat 64 (((e.th tid).link n.toNat).snapshot / 2 ^ (64 * i)))) ∧
  (∀ kind f s e tid a, Ready (.lwr kind f) s e → e.w.handler.isSome = true → laneThread e = some tid → tid < e.c.threads.length → f.a = .s a →
    (∀ n, f.d = .v n → n.toNat + 1 < (e.th tid).v.length → ∃ t, exec (.lwr kind f) s = .next (done e t) ∧ t.mem = s.mem ∧
      (t.thread e.c.id tid).isFull n.toNat (if kind = 1 then 2 else 1) = true ∧
      (if kind = 1 then (t.thread e.c.id tid).pair n.toNat = e.w.s.getD a.toNat 0 else (t.thread e.c.id tid).reg n.toNat = (e.w.s.getD a.toNat 0).setWidth 32)) ∧
    (∀ n, f.d = .p n → n.toNat < 96 → ∃ t, exec (.lwr kind f) s = .next (done e t) ∧ t.mem = s.mem ∧
      ∀ k, (t.thread e.c.id tid).pred k = if k = n.toNat then (e.w.s.getD a.toNat 0).getLsbD 0 else (e.th tid).pred k) ∧
    (∀ n x, f.d = .l n → n.toNat < (e.th tid).links.length →
      LinkReg.ofSnapshot (kind == 3) ((List.range (if kind = 3 then 4 else 2)).foldl (fun x i => x + (e.w.s.getD (a.toNat + i) 0).toNat * 2 ^ (64 * i)) 0) = x →
      (∀ y, x = some y → y.legal = true → (y.st = .full ∨ y.st = .consumed) → (e.th tid).chain = [] → ∃ t, exec (.lwr kind f) s = .next (done e t) ∧ t.mem = s.mem ∧
        (t.thread e.c.id tid).link n.toNat = y) ∧
      ((x = none ∨ ∃ y, x = some y ∧ (y.legal = false ∨ (y.st ≠ .full ∧ y.st ≠ .consumed))) →
        exec (.lwr kind f) s = .next (trapped e s { cls := 5, cause := 4, tval := n.setWidth 64, lanes := e.execMask }))))

/-! ### Deprecated instructions and width-free warps: R93, R94, R215 to R217, R229 to R236 -/

/-- R93, R94, R215 to R217: the first step of `vgat`, `dmov` and `lcpy` captures their operands and holds the entry; MICRO_STEP m of `lcpy` gives every lane the source
lane's register, the last step lets the lanes go on after the instruction. -/
def Obligations.MicrocodedInstructions : Prop :=
  (∀ i n f s e, (i = .vgat f ∨ i = .dmov f ∨ i = .lcpy n f) → Ready i s e → e.lanes ≠ [] → e.proper → ∃ t w, exec i s = .next t ∧ SameMemory s t ∧
    t.warp? e.c.id e.w.wid = some w ∧ (∃ m, w.micro = some m ∧ m.instr = i ∧ m.eid = e.eid ∧ m.mask = e.execMask ∧ m.all = e.mask ∧ m.mstep = 1 ∧
      (∀ src l a k, i = .lcpy n f → f.b = .k src → l ∈ e.lanes → l.1 = src.toNat → f.a = .v a → k < n.toNat → m.vals.getD k 0 = (e.th l.2).reg (a.toNat + k))) ∧
    ∀ l ∈ e.lanes, (t.thread e.c.id l.2).v = (e.th l.2).v ∧
      (i = .dmov f → sliceNat (t.thread e.c.id l.2).capture 0 8 = srcBits e.w (e.th l.2) .b64 f.a ∧ sliceNat (t.thread e.c.id l.2).capture 8 8 = srcBits e.w (e.th l.2) .b64 f.b) ∧
      (∀ b k, i = .vgat f → f.b = .v b → k < 4 → sliceNat (t.thread e.c.id l.2).capture (8 + 4 * k) 4 = ((e.th l.2).reg (b.toNat + k)).toNat)) ∧
  (∀ crew wid s c w m e x, s.crew? crew = some c → c.warp? wid = some w → w.micro = some m → microEnv c w m = some e → Crew.runs s c = true → w.handler = none →
    w.trap = none → w.entries.find? (fun y => y.eid == m.eid) = some x → w.entries.length ≤ 7 →
    (retireStep m.instr ≤ m.mstep → ∃ t v, exec (.microStep crew wid) s = .next t ∧ t.warp? crew wid = some v ∧ v.micro = none ∧
      ∀ n, m.all.getLsbD n = true → v.laneAt n (x.pc + 16) .none) ∧
    (∀ n f d y, m.instr = .lcpy n f → f.d = .v d → m.mstep < 17 → m.vals[m.mstep - 1]? = some y → (e.lanes.map (·.2)).Nodup →
      (∀ l ∈ e.lanes, l.2 < c.threads.length ∧ d.toNat + (m.mstep - 1) < (c.thread l.2).v.length) → ∃ t v, exec (.microStep crew wid) s = .next t ∧
      t.warp? crew wid = some v ∧ v.micro = some { m with mstep := m.mstep + 1 } ∧ ∀ l ∈ e.lanes, (t.thread crew l.2).reg (d.toNat + (m.mstep - 1)) = y))

/-- R229, R234 to R236: POOL_CYCLE forms a warp in the lowest free slot from the bin with the oldest record, each lane the oldest record of its position; LANE_REFILL puts the
oldest fitting record into a free lane of an entry at its address; IDLE_HANDOFF sends the lanes of an entry that issued nothing for 256 issues back to the pool.
The model's choices in it: log entry 57. -/
def Obligations.WidthFreeWarps : Prop :=
  (∀ crew s c wid i b, s.crew? crew = some c → c.kernel.shape.width = 0 → Crew.runs s c = true → freeSlot c = some wid → pickBin s.cycle c = some (i, b) →
    ∃ t w x, exec (.poolCycle crew) s = .next t ∧ t.warp? crew wid = some w ∧ w.entries = [x] ∧ x.pc = b.key ∧ x.hold = .none ∧ SameMemory s t ∧ w.s = c.consts ∧
      ∀ n, n < 32 → w.lanes.getD n none = (oldest (b.recs.filter fun r => homeLane r.tid == n)).map (·.tid)) ∧
  (∀ crew wid lane s c w r, s.crew? crew = some c → c.warp? wid = some w → c.kernel.shape.width = 0 → Crew.runs s c = true → w.away = none → lane < 32 →
    w.lanes.getD lane none = none → oldest ((refillOf c w lane).map (·.2)) = some r → lane < w.lanes.length →
    ∃ t v, exec (.laneRefill crew wid lane) s = .next t ∧ t.warp? crew wid = some v ∧ v.lanes.getD lane none = some r.tid ∧ v.laneAt lane r.pc .none ∧
      homeLane r.tid = lane ∧ SameMemory s t) ∧
  (∀ crew wid entry s c w x, s.crew? crew = some c → c.warp? wid = some w → w.entries.find? (fun y => y.eid == entry) = some x → c.kernel.shape.width = 0 →
    Crew.runs s c = true → w.away = none → x.hold = .none → 256 ≤ x.idle → none ∈ c.bins → w.joined x.mask = false →
    ∃ t k, exec (.idleHandoff crew wid entry) s = .next t ∧ t.crew? crew = some k ∧ SameMemory s t ∧
      (∀ l ∈ w.lanesIn x.mask, ∃ r, r.tid = l.2 ∧ r.pc = x.pc ∧ (r ∈ k.queue ∨ ∃ b, some b ∈ k.bins ∧ r ∈ b.recs)) ∧
      ∀ v, k.warp? wid = some v → ∀ l ∈ w.lanesIn x.mask, v.lanes.getD l.1 none = none)

/-! ### Translation: R268 to R289 -/

/-- R269 to R271, R274, R276, R277, R270: PAGE_WALK reads one entry of each of the four levels, at the place that the address's bits name in the table that
the entry above points to, and a page it finds enters the die's second-level TLB; a walk that finds none changes nothing. PAGE_REQUEST gives the first entry without an index
the first free one and asks the host. PRG_RESPONSE frees the entry and its index: with success the waiting warp may walk again, with a failure it has the cause 4 or
5, and a response failure stops all requests until PRI_STOPPED_CLEAR. ATS_COMPLETION ends the wait of its PASID's warps, and the translation stands in their die's TLB.
The model's choices in it: log entries 7, 8, 81. -/
def Obligations.TranslationAndPageRequests : Prop :=
  (∀ s die ctx va kind, (∀ p : Nat × Nat, (xlate s die none ctx (va % 2 ^ 56) kind).2 ≠ .ok p.1 p.2) → exec (.pageWalk die ctx va kind) s = .next s) ∧
  (∀ s die ctx va kind x1 x2 x3 x4, va < 2 ^ 56 → (s.ctx ctx).inWindow va = false → (∀ t ∈ s.tlb, t.covers die none ctx va = false) →
    let a1 := bitsOf ((s.ctx ctx).xl 0) 51 8 * 2 ^ 8 + 8 * bitsOf va 55 51
    let a2 := entAddr x1 + 8 * bitsOf va 50 39
    let a3 := entAddr x2 + 8 * bitsOf va 38 27
    let a4 := entAddr x3 + 8 * bitsOf va 26 15
    let key := entAddr x4 + va % 2 ^ 15
    (∀ a ∈ [a1, a2, a3, a4], s.busError a = false ∧ s.poisoned a 8 = false) →
    s.physNat a1 8 = x1 → s.physNat a2 8 = x2 → s.physNat a3 8 = x3 → s.physNat a4 8 = x4 →
    (∀ p ∈ ([(x1, 1), (x2, 2), (x3, 3)] : List (Nat × Nat)), p.1 % 4 = 1 ∧ entMalformed p.1 p.2 = false) → x4 % 4 = 3 → entMalformed x4 4 = false →
    bitsOf x4 57 56 = 0 → permits x4 kind = true → s.busError key = false →
    ∃ t, exec (.pageWalk die ctx va kind) s = .next t ∧ t.tlb = ⟨die, none, ctx, va / 2 ^ 15, 4, BitVec.ofNat 64 x4, none⟩ :: s.tlb ∧
      { t with tlb := s.tlb } = s ∧ (xlate s die none ctx va kind).2 = .ok key (va / 2 ^ 15)) ∧
  (∀ s ctx m i r, s.merge.find? (fun y => y.prgi.isNone) = some m → s.prgFree = i :: r → 512 - s.prgFree.length < s.priAlloc → s.priStopped = false →
    m.pasid = (s.ctx ctx).pasid → exec (.pageRequest m.die ctx m.vpage) s = .next
      { s with prgFree := r, merge := s.merge.map fun y => if y = m then { y with prgi := some i } else y
               hostOut := s.hostOut ++ [.pageRequest m.pasid i m.vpage m.rd m.wr m.ex] }) ∧
  (∀ s i m crew wid x, s.noLog → s.merge.find? (fun y => y.prgi == some i) = some m → m.waiters = [.warp crew wid] → s.stallOf crew wid = some x →
    (∃ t, exec (.prgResponse i .success) s = .next t ∧ t.merge = s.merge.filter (fun y => y != m) ∧ t.prgFree = s.prgFree ++ [i] ∧ t.priStopped = s.priStopped ∧
      t.stallOf crew wid = some { x with waiting := false } ∧ SameMemory s t) ∧
    (∃ t, exec (.prgResponse i .invalidRequest) s = .next t ∧ t.merge = s.merge.filter (fun y => y != m) ∧ t.prgFree = s.prgFree ++ [i] ∧
      t.priStopped = s.priStopped ∧ t.stallOf crew wid = some { x with waiting := false, cause := 4 } ∧ SameMemory s t) ∧
    (s.merge = [m] → ∃ t, exec (.prgResponse i .responseFailure) s = .next t ∧ t.merge = [] ∧ t.prgFree = s.prgFree ++ [i] ∧ t.priStopped = true ∧
      t.stallOf crew wid = some { x with waiting := false, cause := 5 } ∧ SameMemory s t)) ∧
  (∀ s, exec .priStoppedClear s = .next { s with priStopped := false }) ∧
  (∀ s (pasid : BitVec 20) page host, s.noLog → HostMsg.atsRequest pasid.toNat page ∈ s.hostOut →
    ∃ t, exec (.atsCompletion pasid page host) s = .next t ∧ t.hostOut = s.hostOut.filter (· != .atsRequest pasid.toNat page) ∧ SameMemory s t ∧
      ∀ crew wid c w x leaf, s.crew? crew = some c → c.warp? wid = some w → w.stall = some x → (s.ctx c.ctx).pasid = pasid.toNat → x.cause = 0 →
        t.stallOf crew wid = some { x with waiting := false } ∧
        (x.waiting = true → x.va < 2 ^ 56 → walk s x.va 4 1 (bitsOf ((s.ctx c.ctx).xl 0) 51 8 * 2 ^ 8) = .ok (leaf, 4) → entTgt leaf = 2 → entAddr leaf / 2 ^ 15 = page →
          ∃ y ∈ t.tlb, y.covers (dieOf (c.warpCore w)) none c.ctx x.va = true ∧ y.host = some (host * 2 ^ 15)))

/-- R281, R282, R268: each invalidation command sets BUSY and queues its invalidation, or queues none while one is busy; a request of the host's ATS always
queues its own. When the oldest completes, the translations in its scope and no others have left the TLBs, a leaf of 128 MiB where it overlaps the range; the
instruction caches have lost the lines of the range, or all; with the wider scopes the bound contexts in scope have taken up their registers; BUSY is 0 and DONE 1, or
the host has its completion. R284: MIGRATION_GO of an idle slot starts it where both frames are legal and in no slot, else it is rejected; in any other state nothing
happens (log entry 24). R285: each MIGRATION_LINE_COPY copies the next 128 bytes, the slot mirrored with the last, or failed at an uncorrectable line. R286: MIGRATION_END
of a mirrored slot frees it and drops the old frame's L1 lines; of another it does nothing. R287, R288: COMMIT takes effect at a channel's next slot 0; a slot serves its
owner's oldest request or two; a slot whose owner has none is donated to the next waiting partition, or left idle, as the channel's mode says.
The model's choices in it: log entries 24, 122. -/
def Obligations.InvalidationsMigrationsAndChannels : Prop :=
  (∀ s (pasid : BitVec 20) (addr : Quad) pages, exec (.atsInvalidateRequest pasid addr pages) s =
    .next { s with inval := s.inval ++ [⟨0, 0, addr.toNat / 2 ^ 15, pages, some pasid.toNat⟩] }) ∧
  (∀ i s v, ((∃ (ctx : BitVec 8) (a : Quad) (n : BitVec 20), i = .invalidateRange ctx a n ∧ n ≠ 0 ∧ v = ⟨0, ctx.toNat, bitsOf a.toNat 55 15, n.toNat, none⟩) ∨
      (∃ ctx : BitVec 8, i = .invalidateContext ctx ∧ v = ⟨1, ctx.toNat, s.hostF 0x300000 55 15, s.hostF 0x300008 51 32, none⟩) ∨
      (i = .invalidateAll ∧ v = ⟨2, s.hostF 0x300008 59 52, s.hostF 0x300000 55 15, s.hostF 0x300008 51 32, none⟩)) →
    ∃ t, exec i s = .next t ∧ { t with dev := s.dev, inval := s.inval } = s ∧ t.hostF 0x300008 63 63 = 1 ∧
      t.inval = if s.hostF 0x300008 63 63 = 1 then s.inval else s.inval ++ [v]) ∧
  (∀ s v r, s.inval = v :: r → ∃ t, exec .invalidationComplete s = .next t ∧ t.inval = r ∧ SameMemory s t ∧
    (v.ats = none → t.hostF 0x300008 63 63 = 0 ∧ t.hostF 0x300008 62 62 = 1 ∧ t.hostOut = s.hostOut ∧
      (v.scope = 0 → t.ctxs = s.ctxs ∧ (∀ y ∈ s.tlb, let lo := if y.level = 3 then y.vpage / 4096 * 4096 else y.vpage
        (y ∈ t.tlb ↔ ¬(y.ctx = v.ctx ∧ v.page < lo + (if y.level = 3 then 4096 else 1) ∧ lo < v.page + v.count))) ∧ (∀ y ∈ t.tlb, y ∈ s.tlb) ∧
        ∀ x, x ∈ t.icache ↔ x ∈ s.icache ∧ ¬(x.2.1 = v.ctx ∧ v.page ≤ x.2.2 / 1024 ∧ x.2.2 / 1024 < v.page + v.count)) ∧
      (v.scope = 1 → (∀ y, y ∈ t.tlb ↔ y ∈ s.tlb ∧ y.ctx ≠ v.ctx) ∧ t.icache = [] ∧
        ((s.ctx v.ctx).bound = true → (t.ctx v.ctx).xlat = (List.range 13).map fun i => s.host (xlatOff v.ctx + 8 * i))) ∧
      (v.scope = 2 → t.tlb = [] ∧ t.icache = [] ∧
        ∀ n, (s.ctx n).bound = true → (t.ctx n).xlat = (List.range 13).map fun i => s.host (xlatOff n + 8 * i))) ∧
    (∀ p, v.ats = some p → t.hostOut = s.hostOut ++ [.invalidateCompletion p] ∧ t.icache = s.icache ∧
      ∀ y, y ∈ t.tlb ↔ y ∈ s.tlb ∧ ¬(y.host.isSome ∧ (s.ctx y.ctx).pasid = p ∧ v.page ≤ entAddr y.leaf.toNat / 2 ^ 15 ∧
        entAddr y.leaf.toNat / 2 ^ 15 < v.page + v.count))) ∧
  (∀ s slot, slot < 16 →
    (migState s slot ≠ 0 → exec (.migrationGo slot) s = .next s) ∧
    (migState s slot = 0 → ∃ t, exec (.migrationGo slot) s = .next t ∧ { t with dev := s.dev, mig := s.mig } = s ∧
      (∀ a b, migFrame s (s.host (migOff slot)) = some a → migFrame s (s.host (migOff slot + 8)) = some b → a ≠ b →
        (∀ m ∈ s.mig, m.src ≠ a ∧ m.dst ≠ a ∧ m.src ≠ b ∧ m.dst ≠ b) → t.mig = s.mig ++ [⟨slot, a, b, 0⟩] ∧ migState t slot = 1) ∧
      ((migFrame s (s.host (migOff slot)) = none ∨ migFrame s (s.host (migOff slot + 8)) = none ∨
        migFrame s (s.host (migOff slot)) = migFrame s (s.host (migOff slot + 8)) ∨
        ∃ m ∈ s.mig, ∃ a, (some a = migFrame s (s.host (migOff slot)) ∨ some a = migFrame s (s.host (migOff slot + 8))) ∧ (m.src = a ∨ m.dst = a)) →
        t.mig = s.mig ∧ migState t slot = 4))) ∧
  (∀ s slot m, s.mig.find? (fun x => x.slot == slot) = some m → m.copied < 256 → s.mem.wf = true → s.ras.stkLive = none →
    let a := m.src + 128 * m.copied
    let b := m.dst + 128 * m.copied
    (s.poisoned a 128 = true → ∃ t, exec (.migrationLineCopy slot) s = .next t ∧ t.mem = s.mem ∧ t.mig = s.mig.filter (fun x => x.slot != slot) ∧
      migState t slot = 3) ∧
    (s.poisoned a 128 = false → ∃ t, exec (.migrationLineCopy slot) s = .next t ∧ (∀ i, i < 128 → t.mem.read (b + i) = s.mem.read (a + i)) ∧
      (∀ x, x < b ∨ b + 128 ≤ x → t.mem.read x = s.mem.read x) ∧ t.mig.find? (fun x => x.slot == slot) = some { m with copied := m.copied + 1 } ∧
      migState t slot = if m.copied + 1 = 256 then 2 else migState s slot)) ∧
  (∀ s slot m, slot < 16 → s.mig.find? (fun x => x.slot == slot) = some m → migState s slot = 2 → ∃ t, exec (.migrationEnd slot) s = .next t ∧ t.mem = s.mem ∧
    t.mig = s.mig.filter (fun x => x.slot != slot) ∧ migState t slot = 0 ∧ ∀ x ∈ t.l1, x.line < m.src ∨ m.src + 32768 ≤ x.line) ∧
  (∀ s slot, slot < 16 → migState s slot ≠ 2 → exec (.migrationEnd slot) s = .next s) ∧
  (∀ s stack ch, stack < 12 → ch < 32 → exec (.mcCommit stack ch) s = .next (s.setDev (mcBase stack ch) (s.reg (mcBase stack ch) ||| 0x100))) ∧
  (∀ s stack ch c ctl, stack < 12 → ch < 32 → s.chan stack ch = c → s.reg (mcBase stack ch) = ctl → ∃ t live, exec (.channelSlot stack ch) s = .next t ∧
    (t.chan stack ch).slot = (c.slot + 1) % 64 ∧ (t.chan stack ch).live = live ∧ t.mem = s.mem ∧
    (c.slot = 0 ∧ ctl.getLsbD 8 = true → live = mcShadow s stack ch) ∧ (¬(c.slot = 0 ∧ ctl.getLsbD 8 = true) → live = c.live ∧ t.dev = s.dev) ∧
    (∀ p a, slotOwner live c.slot = some p → (c.queue.filter fun r => r.part == p).head? = some a →
      (∃ k, (k = 1 ∨ k = 2) ∧ (t.chan stack ch).queue.filter (fun r => r.part == p) = (c.queue.filter fun r => r.part == p).drop k) ∧ ∀ q, q ≠ p → (t.chan stack ch).queue.filter (fun r => r.part == q) = c.queue.filter fun r => r.part == q) ∧
    (ctl.getLsbD 0 = true → (∀ p, slotOwner live c.slot = some p → ∀ r ∈ c.queue, r.part ≠ p) → (t.chan stack ch).queue = c.queue) ∧
    (ctl.getLsbD 0 = false → (∀ p, slotOwner live c.slot = some p → ∀ r ∈ c.queue, r.part ≠ p) →
      ∀ i, i < 16 → (∃ r ∈ c.queue, r.part = (c.lastDon + 1 + i) % 16) → (∀ j, j < i → ∀ r ∈ c.queue, r.part ≠ (c.lastDon + 1 + j) % 16) →
        (t.chan stack ch).lastDon = (c.lastDon + 1 + i) % 16 ∧ (t.chan stack ch).queue.length < c.queue.length))

/-! ### Stops, halts, checkpoints and restores: R300 to R339 -/

/-- R303, R304: the stop commands begin a stop with their KIND, REASON and CREW where the context is bound and nothing else holds it, end with STATUS 3 where it is not bound or
in a trap stop, and do nothing while CTX_STOP is busy; RESUME_IN_PLACE lets a context that is held in place go on. With no unit of a crew at work and no access deferred, STOP_COMPLETE ends
the stop as its kind says: the context leaves the device where its image is written, and stays in place with STATUS 1 or 2 where the area is short or not writable; one crew leaves and its
context stays; the context stays in place; a halt is reached; or a trapped context without a dump or an error stop ends. R300, R303: DEBUG_HALT, DEBUG_RESUME, DISCARD_PENDING_TRAPS and
DUMP_REQUEST act where their registers let them, and else do nothing; a discarded trap of a warp outside its handler leaves its lanes at the restart point. R315, R336: CONTEXT_IMAGE_RESTORE
binds the image that it reads, and then ends with STATUS 0, or changes nothing but its status: 6 where the image cannot be read, 7 where it is no image.
The model's choices in it: log entries 26, 33, 92, 93, 136. -/
def Obligations.StopsHaltsAndImages : Prop :=
  (∀ i s ctx j, ctx < 256 → ((∃ r : BitVec 4, i = .stopSaveContext ctx r ∧ j = ⟨0, r.toNat, 0⟩) ∨ (∃ r : BitVec 4, i = .stopInPlace ctx r ∧ j = ⟨2, r.toNat, 0⟩) ∨
      ∃ (r : BitVec 4) (p : BitVec 23), i = .stopSaveCrew ctx p r ∧ j = ⟨1, r.toNat, p.toNat⟩ ∧ ∃ c ∈ s.crews, c.ctx = ctx ∧ c.pos = p.toNat) →
    s.hostF (ctxOff ctx) 63 63 = 0 → (s.ctx ctx).stop = none → (s.ctx ctx).halted = false → (s.ctx ctx).halting = false →
    ((s.ctx ctx).bound = true → (s.ctx ctx).trapStop = false → ∃ t, exec i s = .next t ∧ t.ctx ctx = { s.ctx ctx with stop := some j } ∧
      t.hostF (ctxOff ctx) 63 63 = 1 ∧ t.hostF (ctxOff ctx) 62 62 = 0 ∧ { t with dev := s.dev, ctxs := s.ctxs, crews := s.crews } = s ∧
      t.crews = s.crews.map fun c => if j.kind = 1 ∧ c.ctx = ctx ∧ c.pos = j.pos then { c with stopped := true } else c) ∧
    ((s.ctx ctx).bound = false ∨ (s.ctx ctx).trapStop = true → ∃ t, exec i s = .next t ∧ t.stopEnded ctx 3 ∧ { t with dev := s.dev } = s)) ∧
  (∀ i s ctx, ctx < 256 → ((∃ r : BitVec 4, i = .stopSaveContext ctx r ∨ i = .stopInPlace ctx r ∨ ∃ p : BitVec 23, i = .stopSaveCrew ctx p r) ∨ i = .resumeInPlace ctx) →
    s.hostF (ctxOff ctx) 63 63 = 1 → exec i s = .next s) ∧
  (∀ s ctx, ctx < 256 → s.hostF (ctxOff ctx) 63 63 = 0 → (s.ctx ctx).bound = true → (s.ctx ctx).trapStop = false → (s.ctx ctx).stop = none → (s.ctx ctx).inPlace = true → s.noLog →
    ∃ t, exec (.resumeInPlace ctx) s = .next t ∧ t.ctx ctx = { s.ctx ctx with inPlace := false } ∧ t.stopEnded ctx 0 ∧ SameMemory s t ∧
      t.crews = s.crews.map fun c => if c.ctx = ctx then { c with stopped := false } else c) ∧
  (∀ s ctx j, (s.ctx ctx).stop = some j → ckPhase s ctx ≠ 1 → (s.ctx ctx).halting = false ∨ j.kind = 5 → s.idleUnits → s.noLog → ∃ t, exec (.stopComplete ctx) s = .next t ∧
    (j.kind = 0 → let n := imageSize (contextSects s ctx true (awaitedSect s ctx true))
      let st := if (s.host (ctxOff ctx + 0x10)).toNat < n then 1 else if s.writeBad (s.host (ctxOff ctx + 8)).toNat n then 2 else 0
      t.stopEnded ctx st ∧ if st = 0 then (t.ctx ctx).bound = false ∧ ∀ c ∈ t.crews, c.ctx ≠ ctx else (t.ctx ctx).inPlace = true ∧ (t.ctx ctx).stop = none ∧ t.crews = s.crews) ∧
    (j.kind = 1 → ∀ c, (s.crewsOf ctx).find? (fun c => c.pos == j.pos) = some c → (t.ctx ctx).stop = none ∧ ∃ st, t.stopEnded ctx st ∧
      (st = 0 → (t.ctx ctx).bound = true ∧ ∀ d ∈ t.crews, d.id ≠ c.id)) ∧
    (j.kind = 2 → t.stopEnded ctx 0 ∧ t.ctx ctx = { s.ctx ctx with stop := none, inPlace := true } ∧ { t with dev := s.dev, ctxs := s.ctxs } = s) ∧
    (j.kind = 5 → (t.ctx ctx).stop = none ∧ (t.ctx ctx).halted = true ∧ (t.ctx ctx).halting = false ∧ t.hostF (ctxOff ctx + 0x18) 6 5 = 2 ∧ SameMemory s t) ∧
    (j.kind = 4 → s.hostF (ctxOff ctx + 0x20) 1 1 = 0 → (s.ctx ctx).errStop = false → (t.ctx ctx).bound = false ∧ (∀ c ∈ t.crews, c.ctx ≠ ctx) ∧
      ∀ l ∈ t.launches, l.ctx = ctx → l.st ≠ 2)) ∧
  (∀ s ctx, ctx < 256 →
    (s.haltEn ctx = true → (s.ctx ctx).bound = true → (s.ctx ctx).halted = false → (s.ctx ctx).stop = none → ∃ t, exec (.debugHalt ctx) s = .next t ∧
      t.ctx ctx = { s.ctx ctx with stop := some ⟨5, 4, 0⟩, halting := true } ∧ t.hostF (ctxOff ctx + 0x18) 6 5 = 1 ∧ { t with dev := s.dev, ctxs := s.ctxs } = s) ∧
    (s.haltEn ctx = false ∨ (s.ctx ctx).bound = false ∨ (s.ctx ctx).halted = true ∨ (s.ctx ctx).stop ≠ none → exec (.debugHalt ctx) s = .next s) ∧
    ((s.ctx ctx).halted = true → s.noLog → ∃ t, exec (.debugResume ctx) s = .next t ∧ t.hostF (ctxOff ctx + 0x18) 6 4 = 0 ∧ SameMemory s t ∧
      (t.ctx ctx).halted = false ∧ (t.ctx ctx).stop = match (s.ctx ctx).defer with | some j => some j | none => (s.ctx ctx).stop) ∧
    ((s.ctx ctx).halted = true → ∃ t, exec (.discardPendingTraps ctx) s = .next t ∧ { t with crews := s.crews } = s ∧
      t.crews = (s.crews.map fun c => if c.ctx = ctx then { c with warps := c.warps.map (dropTrap c.kernel) } else c) ∧
      ∀ (k : Kernel) w, (dropTrap k w).trap = none ∧ { dropTrap k w with trap := w.trap, entries := w.entries } = w ∧
        (w.handler.isSome = true ∨ w.trap = none → (dropTrap k w).entries = w.entries) ∧
        ∀ r e, w.trap = some r → w.handler = none → w.entries = [e] → w.trapEid = e.eid → ∃ d, (dropTrap k w).entries = [d] ∧ d.mask = e.mask ∧ d.pc = r.tpc.setWidth 56) ∧
    ((s.ctx ctx).halted = false → exec (.debugResume ctx) s = .next s ∧ exec (.discardPendingTraps ctx) s = .next s) ∧
    ((s.ctx ctx).bound = true → (s.ctx ctx).halted = true ∨ (s.ctx ctx).inPlace = true → (s.ctx ctx).stop = none → ∃ t, exec (.dumpRequest ctx) s = .next t ∧
      t.hostF (ctxOff ctx + 0x28) 63 63 = 0 ∧ t.hostF (ctxOff ctx + 0x28) 62 62 = 1 ∧
      (t.hostF (ctxOff ctx + 0x28) 61 60 = 2 ↔ s.hostF (ctxOff ctx + 0x28) 47 12 * 4096 < 256 ∨
        s.writeBad ((s.host (ctxOff ctx + 0x20)).toNat / 4096 * 4096 % 2 ^ 52) 256 = true)) ∧
    ((s.ctx ctx).bound = false ∨ (s.ctx ctx).stop ≠ none ∨ ((s.ctx ctx).halted = false ∧ (s.ctx ctx).inPlace = false) → exec (.dumpRequest ctx) s = .next s)) ∧
  (∀ s ctx a, ctx < 256 → ∃ t st, exec (.contextImageRestore ctx a) s = .next t ∧ t.restoreEnded st ∧ st ∈ [0, 4, 6, 7] ∧ (st = 0 → (t.ctx ctx).bound = true) ∧
    (st ≠ 0 → { t with dev := s.dev } = s) ∧ (s.spanBad a 128 = true → st = 6) ∧
    let size := s.physNat (a + 0x10) 8
    (s.spanBad a size = true ∨ s.spanPoison a size = true → st = 6) ∧
    (s.spanBad a 128 = false → size < 2 ^ 52 → s.spanBad a size = false → s.spanPoison a size = false →
      (parseImage (s.section a size) = none → st = 7) ∧
      ∀ h xs u, parseImage (s.section a size) = some (h, xs) → (if h.kind = 0 then bindImage s ctx h xs false else bindCrewImage s ctx h xs) = .ok u →
        st = 0 ∧ { t with dev := u.dev } = u))

/-- R320, R322: the first CKPT_ENABLE starts interval 0, a full one, and arms both triggers, a later one only clears SKIPPED; CKPT_FULL sets FULL; a trigger pauses the context for its cut,
waits for the interval in progress, or is counted as skipped, and does nothing to a context that takes none; R325: with no unit of a crew at work and staged bytes that fit the reserves, the
cut protects what changed and opens the next interval; R328: PROTECTED_UNIT_WRITE keeps the unit's old image, in a free page of the pool or in the reserve; R329, R331, R321: the next shard's
object goes to the tail of the store when no index is kept or the wait for its slot has timed out, and an object that the index holds is referenced where it stands; R332: the seal writes the
manifest at the tail; R339: the costs of every bound context and of its selected crew; R336, R337: RESTORE ends with STATUS 0 and the context bound where the chain can be read and bound, and
else changes nothing but its status.
The model's choices in it: log entries 13, 42, 84, 85, 87, 88, 142. -/
def Obligations.CheckpointsAndRestores : Prop :=
  (∀ s n, n < 256 → ∃ t, exec (.ckptEnable n) s = .next t ∧ t.hostF (ckptOff n) 0 0 = 1 ∧ t.hostF (ckptOff n + 0x18) 15 0 = 0 ∧ { t with dev := s.dev, ctxs := s.ctxs } = s ∧
    if ckEn s n = true then t.ctxs = s.ctxs ∧ ckFull t n = ckFull s n
    else ckFull t n = true ∧ (t.ctx n).ckpt = { (s.ctx n).ckpt with next := 0, timerMark := s.timebase.toNat + (s.host (ckptOff n + 8)).toNat
                                                                    stepMark := (s.ctx n).stepcount.toNat + (s.host (ckptOff n + 0x10)).toNat }) ∧
  (∀ s n, n < 256 → exec (.ckptFull n) s = .next (s.setHostF (ckptOff n) 4 4 1)) ∧
  (∀ i s n, n < 256 → i = .ckptCut n ∨ (i = .timerTrigger n ∧ timerDue s n = true) → ckEn s n = true → (s.ctx n).bound = true → (s.ctx n).trapStop = false →
    ∃ t, exec i s = .next t ∧ { t with dev := s.dev, ctxs := s.ctxs } = s ∧
      (t.ctx n).ckpt.timerMark = (s.ctx n).ckpt.timerMark + (if i = .ckptCut n then 0 else (s.host (ckptOff n + 8)).toNat) ∧
      if ckPhase s n = 0 then (t.ctx n).cutPause = true ∧ ckPhase t n = 1 ∧ t.hostF (ckptOff n) 63 63 = 1
      else ckPhase t n = ckPhase s n ∧ t.hostF (ckptOff n) 62 62 = 1 ∧ t.hostF (ckptOff n + 0x18) 15 0 =
        if s.hostF (ckptOff n) 62 62 = 0 then s.hostF (ckptOff n + 0x18) 15 0 else min 0xFFFF (s.hostF (ckptOff n + 0x18) 15 0 + 1)) ∧
  (∀ s n, ckEn s n = false ∨ (s.ctx n).bound = false ∨ (s.ctx n).trapStop = true → n < 256 → exec (.ckptCut n) s = .next s) ∧
  (∀ s n, n < 256 → ckPhase s n = 1 → s.idleUnits → s.noLog →
    (∀ q, (((s.crewsOf n).filter fun c => quadOf c.core == q).map fun c => (crewObject s (ckFull s n) (s.ctx n).ckpt.dirty c).length).sum ≤ 65536 * (s.ctx n).vres) →
    ∃ t, exec (.intervalCut n) s = .next t ∧ { t with dev := s.dev, ctxs := s.ctxs } = s ∧ ckPhase t n = (if (t.ctx n).ckpt.shards = [] then 4 else 3) ∧ ckFull t n = false ∧
    (t.ctx n).cutPause = false ∧ let k := (s.ctx n).ckpt; let u := (t.ctx n).ckpt
      u.closing = some k.next ∧ u.next = k.next + 1 ∧ u.base = (if ckFull s n then k.next else k.base) ∧ u.fullNow = ckFull s n ∧ u.dirty = [] ∧ u.streaming = k.dirty ∧ u.protect = cutMemory s n ∧
      u.pauseTime = s.timebase ∧ (∀ c ∈ s.crews, c.ctx = n → ∃ h ∈ u.shards, h.kind = 1 ∧ h.unit = c.pos ∧ h.staged = crewObject s (ckFull s n) k.dirty c)) ∧
  (∀ s n unit u sp, (s.ctx n).ckpt.protect[unit]? = some u → s.canLift u = true → unitSpan (s.ctx n) u = some sp → ∃ t slot, exec (.protectedUnitWrite n unit) s = .next t ∧
    (t.ctx n).ckpt.protect = (s.ctx n).ckpt.protect.filter (· != u) ∧ (slot = match u with | .page _ _ => s.cowFree | _ => none) ∧
    match slot with
      | none => t.mem = s.mem ∧ (t.ctx n).ckpt.old = (s.ctx n).ckpt.old ++ [(u, s.physRead sp.1 sp.2, none)]
      | some i => t.mem = s.mem.store (cowPage s i) (s.physRead sp.1 sp.2) ∧ (t.ctx n).ckpt.old = (s.ctx n).ckpt.old ++ [(u, [], some i)]) ∧
  (∀ i s n h b o tail, n < 256 → (i = .shardStream n ∧ nslot s = 0) ∨ (i = .indexWaitTimeout n ∧ indexLate s n = true) → nextShard s n = some h → shardBytes s (s.ctx n) h = some b → s.noLog →
    storeRoom s b.length = some (o, tail) → s.writeBad (storeBase s + o) b.length = false → isCxl (storeBase s + o) = true →
    ∃ t, exec i s = .next t ∧ t.host 0x700018 = BitVec.ofNat 64 tail ∧ t.mem = (s.blockWrite (storeBase s + o) b.length (memOfBytes b)).mem ∧
      t.lateWrites = (s.blockWrite (storeBase s + o) b.length (memOfBytes b)).lateWrites ∧
      (∀ u ∈ h.members, u ∉ (t.ctx n).ckpt.protect) ∧ ∀ y ∈ (t.ctx n).ckpt.shards, y.kind = h.kind → y.unit = h.unit → y.base = h.base →
        y.loc = some (storeBase s + o) ∧ y.ref = false ∧ y.digest = sha256 b ∧ y.length = b.length) ∧
  (∀ s n h b i loc, n < 256 → nextShard s n = some h → shardBytes s (s.ctx n) h = some b → s.noLog → lookup s (sha256 b) (probeOn s n (sha256 b)) = .hit i loc →
    ∃ t, exec (.shardStream n) s = .next t ∧ t.mem = s.mem ∧ t.lateWrites = s.lateWrites ∧ (∀ u ∈ h.members, u ∉ (t.ctx n).ckpt.protect) ∧
      ∀ y ∈ (t.ctx n).ckpt.shards, y.kind = h.kind → y.unit = h.unit → y.base = h.base → y.loc = some loc ∧ y.ref = true ∧ y.slot = some i) ∧
  (∀ s n b o tail, sealable s n = true → manifestBytes (s.ctx n).ckpt = b → storeRoom s b.length = some (o, tail) → s.writeBad (storeBase s + o) b.length = false →
    isCxl (storeBase s + o) = true → s.hostF (ckptOff n) 62 62 = 0 → n < 256 → ∃ t, exec (.intervalSeal n) s = .next t ∧ ckPhase t n = 0 ∧ t.hostF (ckptOff n) 63 63 = 0 ∧
      t.host 0x700018 = BitVec.ofNat 64 tail ∧ t.mem = (s.blockWrite (storeBase s + o) b.length (memOfBytes b)).mem ∧
      t.lateWrites = (s.blockWrite (storeBase s + o) b.length (memOfBytes b)).lateWrites ∧ t.host (ckptOff n + 0x20) = BitVec.ofNat 64 (storeBase s + o) ∧ t.hostF (ckptOff n + 0x18) 31 28 = 0 ∧
      t.hostF (ckptOff n + 0x18) 63 32 = ((s.ctx n).ckpt.closing.getD 0) % 2 ^ 32 ∧
      (t.ctx n).ckpt.closing = none ∧ (t.ctx n).ckpt.prevLoc = storeBase s + o ∧ (t.ctx n).ckpt.prevDig = sha256 b ∧ (t.ctx n).ckpt.protect = []) ∧
  (∀ s, (∀ x ∈ s.ctxs, x.bound = true → x.num < 256) → ∃ t, exec .costUpdate s = .next t ∧ { t with dev := s.dev } = s ∧ ∀ x ∈ s.ctxs, x.bound = true →
    t.host (ckptOff x.num + 0x28) = BitVec.ofNat 64 (saveCost s x.num) ∧ t.host (ckptOff x.num + 0x30) = BitVec.ofNat 64 (cutDelta s x.num) ∧
    t.host (ckptOff x.num + 0x40) = BitVec.ofNat 64 (((s.crewsOf x.num).find? fun c => c.pos == s.hostF (ckptOff x.num + 0x38) 22 0).elim 0 (crewCost s))) ∧
  (∀ s (ctx : BitVec 8), ∃ t st, exec (.restore ctx) s = .next t ∧ t.restoreEnded st ∧ st ≤ 7 ∧ (st = 0 → (t.ctx ctx.toNat).bound = true) ∧ (st ≠ 0 → { t with dev := s.dev } = s) ∧
    let loc := (s.host 0x700048).toNat
    (s.spanBad loc 0x180 = true ∨ s.spanPoison loc 0x180 = true → st = 6) ∧
    (s.spanBad loc 0x180 = false → s.spanPoison loc 0x180 = false → s.physNat loc 4 ≠ 0x4E4D4B43 → st = 5) ∧
    ∀ u, restoreChain ((s.setHostF 0x700050 15 8 ctx.toNat).setHostF 0x700050 62 62 0) ctx.toNat loc = .ok u → st = 0 ∧ { t with dev := u.dev } = u)

/-! ### The fabric and gang switches: R341 to R355, R377, R420 -/

/-- R341 to R343, R353, R377: a request at the head of its lane that lies in one page of the aperture of its job's context is performed there and answered with its data, or
negatively with STATUS 1 where no bound context has the job, its aperture does not allow it, a load meets poison, or an atomic's operation or length is none; an answer leaves by the port
towards its device, or is held until that device is READY. A reply brings its data to the registers of the element that awaits it, and a negative one makes the access an unrecoverable deferred
access with cause 9. A request or reply that may not be delivered yet, one of a job that is not READY here among them, is not at the head.
The model's choices in it: log entries 38, 55, 157. -/
def Obligations.FabricRequestsAndReplies : Prop :=
  (∀ i s port vl p type, ((i = .fabricLoadRequest port vl ∧ type = 0) ∨ (i = .fabricStoreRequest port vl ∧ type = 1) ∨ (i = .fabricAtomicRequest port vl ∧ type = 2)) →
    ingressHead s port vl [type] = some p →
    (s.jobCtx p.job = none ∨ (∃ x, s.jobCtx p.job = some x ∧ apertureMiss s x.num p = true) →
      exec i s = .next (sendAnswer (takeIngress s port p) (p.reply 4 1 p.injtb []))) ∧
    (∀ x k vp, s.jobCtx p.job = some x → apertureMiss s x.num p = false → apertureKeys s x.num p = (s, some (.inl [(k, p.len, vp)])) → s.poisoned k p.len = false →
      (type = 0 → exec i s = .next (sendAnswer (takeIngress s port p) (p.reply 3 0 p.injtb (s.physRead k p.len)))) ∧
      (type = 2 → PlainMemory s → 10 ≤ (p.op &&& 0x0F).toNat ∨ p.len ≠ (if AOp.ofCode (p.op &&& 0x0F) = .cas then 2 else 1) * ((Ty.ofCode (p.op.extractLsb' 4 4)).bits / 8) →
        exec i s = .next (sendAnswer (takeIngress s port p) (p.reply 4 1 p.injtb []))) ∧
      (type = 1 → PlainMemory s → s.mem.wf = true → p.data.length = p.len → ∃ u t, exec i s = .next t ∧ t = sendAnswer (takeIngress u port p) (p.reply 3 0 p.injtb []) ∧
        (∀ j, j < p.len → p.be.getLsbD j = true → some (t.mem.read (k + j)) = p.data[j]?) ∧
        ∀ a, (∀ j, j < p.len → p.be.getLsbD j = true → a ≠ k + j) → t.mem.read a = s.mem.read a) ∧
      (type = 2 → PlainMemory s → s.mem.wf = true → ∀ ty op w, ty = Ty.ofCode (p.op.extractLsb' 4 4) → op = AOp.ofCode (p.op &&& 0x0F) → w = ty.bits / 8 →
        (p.op &&& 0x0F).toNat < 10 → p.len = (if op = .cas then 2 * w else w) → ∃ u t, exec i s = .next t ∧
        t = sendAnswer (takeIngress u port p) (p.reply 3 0 p.injtb (leBytes w (s.physNat k w))) ∧
        t.mem.nat k w = atomicNew ty op (s.physNat k w) [sliceNat p.data 0 w, sliceNat p.data w w] % 256 ^ w ∧ ∀ a, a < k ∨ k + w ≤ a → t.mem.read a = s.mem.read a)) ∧
    (∀ x k vp, type = 0 → s.jobCtx p.job = some x → apertureMiss s x.num p = false → apertureKeys s x.num p = (s, some (.inl [(k, p.len, vp)])) → s.poisoned k p.len = true →
      exec i s = .next (sendAnswer (takeIngress s port p) (p.reply 4 1 p.injtb [])))) ∧
  (∀ s port vl p types, ingressHead s port vl types = some p → s.frozen p = false ∧ types.contains p.type = true) ∧
  (∀ s p n, s.route p.dst = some n → sendAnswer s p = if s.isReady p.job p.dst then s.modPort n (fun x => { x with egress := x.egress ++ [p] })
    else { s with holdq := s.holdq ++ [p] }) ∧
  (∀ i s port vl p x c, ingressHead s port vl [p.type] = some p → s.fabOut.filter (fun x => x.tag == p.tag && (s.ctx x.ctx).jobId == p.job) = [x] → s.crew? x.crew = some c →
    x.tid < c.threads.length →
    (∀ o m f d, i = .fabricReply port vl → p.type = 3 → p.status = 0 → memOf x.instr = some (o, m) → o.dcount ≠ 0 → x.instr.fields? = some f → f.d = .v d →
      ∃ t, exec i s = .next t ∧ x ∉ t.fabOut ∧ SameMemory s t ∧ ∀ w ∈ resultWords o.t (d.toNat + x.elem * o.t.regs) (leNat p.data), w.1 < (c.thread x.tid).v.length →
        (t.thread x.crew x.tid).reg w.1 = w.2 ∧ (t.thread x.crew x.tid).isFull w.1 1 = true) ∧
    (i = .fabricNegativeReply port vl → p.type = 4 → (memOf x.instr).isSome = true → c.log = [] → (c.thread x.tid).exited = false →
      ∃ t u, exec i s = .next t ∧ x ∉ t.fabOut ∧ SameMemory s t ∧ t.crew? x.crew = some u ∧
        u.log = [⟨x.id, x.wid, x.instr, x.pc, [⟨x.lane, x.tid, x.addr, [], 9, 0, .dead⟩]⟩]))

/-- R343, R344, R353, R415, R420: READY lets the packets held for the peer leave in order, NOTREADY holds them; the time exchange leaves the timebase as it is (within the
8 ticks of R343; the model's choice, log entry 32); FAB_DOMAIN is written only while every port is down; a port trains only under a valid domain, and a lane that failed is replaced by the
spare one.
The model's choices in it: log entry 71. -/
def Obligations.FabricControl : Prop :=
  (∀ job (peer : BitVec 12) s n x, s.route peer.toNat = some n → s.port? n = some x → ∃ t, exec (.ready job peer) s = .next t ∧ t.isReady job peer.toNat = true ∧ SameMemory s t ∧
    t.holdq = s.holdq.filter (fun p => !(p.job == job && p.dst == peer.toNat)) ∧
    t.port? n = some { x with egress := x.egress ++ s.holdq.filter fun p => p.job == job && p.dst == peer.toNat }) ∧
  (∀ job (peer : BitVec 12) s, ∃ t, exec (.notready job peer) s = .next t ∧ t.isReady job peer.toNat = false ∧ { t with ready := s.ready } = s ∧
    ∀ j k, j ≠ job ∨ k ≠ peer.toNat → t.isReady j k = s.isReady j k) ∧
  (∀ s, exec .timeExchange s = .next s) ∧
  (∀ v (num : BitVec 12) s, ((∀ p ∈ s.ports, p.up = false) → ∃ t, exec (.fabDomainWrite v num) s = .next t ∧ t.domain = num.toNat ∧
      t.hostF 0x800030 12 12 = (if v then 1 else 0) ∧ { t with dev := s.dev } = s) ∧
    ((∃ p ∈ s.ports, p.up = true) → exec (.fabDomainWrite v num) s = .next s)) ∧
  (∀ n ok s x, n < 36 → s.portDead n = false → s.port? n = some x → (s.hostF 0x800030 12 12 = 0 → exec (.portTraining n ok) s = .refused .notEnabled) ∧
    (s.hostF 0x800030 12 12 = 1 → ∃ t, exec (.portTraining n ok) s = .next t ∧ { t with ports := s.ports } = s ∧ (∀ k, k ≠ n → t.port? k = s.port? k) ∧
      t.port? n = some (if ok ∧ x.lanes < 4 ∧ x.spareUsed = false then { x with up := true, lanes := x.lanes + 1, spareUsed := true } else { x with up := ok })))

/-- R345 to R352: GO of a gang switch stops the job's context in place and waits for T, begins at once with STATUS 2 after T, and is rejected with STATUS 5 where its registers do not fit; at T
this device is no longer READY for the job, nor for the incoming one where the context still runs (R353); the sweep takes every packet of the job out of the ports in order and seals them in
the area, or sets STATUS 3; the close, which seals what is not sealed, shows DONE and saves the job's context; IN rejects an area with STATUS 5, or delivers its records, the context's threads
held, until one must wait or all are done: then this device is READY, the answers have left, DONE is set and the context runs.
The model's choices in it: log entry 95. -/
def Obligations.GangSwitches : Prop :=
  (∀ s, s.hostF 0x800000 63 63 = 0 →
    (gangGrace s ≤ gangT s ∨ s.hostF 0x800020 47 12 ≤ s.hostF 0x800020 63 52 ∨ (gangNoctx s = false ∧ gangLocal s = none) →
      exec .gangSwitchOut s = .next (s.setHostF 0x800000 61 58 5)) ∧
    (gangT s < gangGrace s → s.hostF 0x800020 63 52 < s.hostF 0x800020 47 12 → s.timebase.toNat < gangT s → ∀ x, gangLocal s = some x → x.stop = none → x.inPlace = false →
      ∃ t, exec .gangSwitchOut s = .next t ∧ t.hostF 0x800000 63 63 = 1 ∧ t.hostF 0x800000 62 62 = 0 ∧ t.hostF 0x800000 57 55 = 1 ∧ t.hostF 0x800000 61 58 = 0 ∧ t.gang.phase = 1 ∧
        t.ctx x.num = { x with stop := some ⟨2, 2, 0⟩ } ∧ SameMemory s t ∧ t.ports = s.ports) ∧
    (gangT s < gangGrace s → s.hostF 0x800020 63 52 < s.hostF 0x800020 47 12 → gangNoctx s = true → ∃ t, exec .gangSwitchOut s = .next t ∧ t.hostF 0x800000 63 63 = 1 ∧
      t.hostF 0x800000 62 62 = 0 ∧ t.gang.phase = (if s.timebase.toNat < gangT s then 1 else 2) ∧ t.hostF 0x800000 61 58 = (if s.timebase.toNat < gangT s then 0 else 2) ∧
      t.ctxs = s.ctxs ∧ SameMemory s t ∧ t.ports = s.ports)) ∧
  (∀ s, s.hostF 0x800000 63 63 = 1 → exec .gangSwitchOut s = .next s) ∧
  (∀ s, s.gang.phase = 1 → gangT s ≤ s.timebase.toNat → ∃ t, exec .gangInstant s = .next t ∧ t.gang.phase = 2 ∧ t.hostF 0x800000 57 55 = 2 ∧ t.isReady (gangJob s) s.domain = false ∧
    (∀ x, gangLocal s = some x → x.inPlace = false → s.hostF 0x800000 39 24 ≠ 0 → t.isReady (BitVec.ofNat 16 (s.hostF 0x800000 39 24)) s.domain = false) ∧ SameMemory s t ∧ t.ctxs = s.ctxs ∧ t.ports = s.ports) ∧
  (∀ s, s.gang.phase = 2 → ∃ t, exec .sweepSealed s = .next t ∧ t.gang.phase = 3 ∧ t.gang.swept = sweepAll s (gangJob s) ∧ t.gang.sealTime = s.timebase ∧
    (∀ p ∈ t.ports, ∀ x ∈ p.egress ++ p.xbar ++ p.ingress, x.job ≠ gangJob s) ∧
    let n := (recBytes (sweepAll s (gangJob s))).length
    if s.gang.lateOff < 0x1000 + n ∨ s.writeBad (gangArea s + 0x1000) n then t.gang.status = 3 ∧ t.mem = s.mem
    else t.gang.status = s.gang.status ∧ t.mem = (s.blockWrite (gangArea s + 0x1000) n (memOfBytes (recBytes (sweepAll s (gangJob s))))).mem ∧
      t.lateWrites = (s.blockWrite (gangArea s + 0x1000) n (memOfBytes (recBytes (sweepAll s (gangJob s))))).lateWrites) ∧
  (∀ s, s.gang.phase = 2 → gangGrace s ≤ s.timebase.toNat → exec .gangClose s = exec .gangClose (sealSweep s)) ∧
  (∀ s, s.gang.phase = 3 → gangGrace s ≤ s.timebase.toNat → ∃ t, exec .gangClose s = .next t ∧ t.gang.phase = 4 ∧ t.hostF 0x800000 63 63 = 0 ∧ t.hostF 0x800000 62 62 = 1 ∧
    t.gang.status = (if s.gang.fault then 4 else if s.gang.status = 3 then 3 else if (∃ x, gangLocal s = some x ∧ x.stop.isSome) then 1 else s.gang.status) ∧
    ∀ x, gangLocal s = some x → ∃ st, t.stopEnded x.num st ∧ (st = 0 → (t.ctx x.num).bound = false ∧ ∀ c ∈ t.crews, c.ctx ≠ x.num)) ∧
  (∀ s, s.gang.phase ≠ 5 → (s.hostF 0x800000 63 63 = 1 → exec .gangSwitchIn s = .next s) ∧
    (s.hostF 0x800000 63 63 = 0 → areaRejected s (gangArea s) = true → exec .gangSwitchIn s = .next (s.setHostF 0x800000 61 58 5))) ∧
  (∀ s, s.gang.phase = 5 ∨ (s.hostF 0x800000 63 63 = 0 ∧ areaRejected s (gangArea s) = false) → ∃ t, exec .gangSwitchIn s = .next t ∧
    ((s.gang.phase = 5 ∧ s.gang.inq = []) ∨ (s.gang.phase ≠ 5 ∧ inParts s = []) → t.gang.phase = 0) ∧
    ((t.gang.phase = 5 ∧ t.gang.inq ≠ [] ∧ (s.gang.phase ≠ 5 → t.hostF 0x800000 63 63 = 1 ∧ t.hostF 0x800000 62 62 = 0 ∧ t.hostF 0x800000 57 55 = 5)) ∨
      (t.gang.phase = 0 ∧ t.gang.inq = [] ∧ t.gang.answers = [] ∧ t.hostF 0x800000 63 63 = 0 ∧ t.hostF 0x800000 62 62 = 1 ∧ t.hostF 0x800000 57 55 = 0 ∧
        t.isReady (gangJob s) s.domain = true ∧ ∀ x ∈ t.ctxs, x.bound = true → x.jobV = true → x.jobId = gangJob s → x.heldIn = false)))

/-! ### Errors, rollback, scrubbing and fencing: R358 to R376 -/

/-- R358, R362, R363, R369, R370, R373: an uncorrectable error poisons what it strikes, is charged to the context whose data is lost, which stops with cause 3 and the
line as TVAL where it is bound, and takes its place out of use: the set and way of a dirty or clean line, the 64 KiB unit of a granule (where the table has room), the row of a vault line. No
other byte changes but those of a dirty line, which fall back to what stood behind them. A granule's reader meets the poison: Chervil's interval fails with RESULT 3, a migration's slot goes to
failed. Crew state lost stops the context with cause 3, or, where a matrix pass runs over it, with cause 2 and the request's handle as TVAL; DET is one of the four of R359.
The model's choices in it: log entries 96, 97, 121. -/
def Obligations.UncorrectableErrors : Prop :=
  (∀ s line set way (det : BitVec 4) d, det.toNat ≤ 3 → s.ras.dirty.find? (fun d => d.line == line) = some d → placeOut s (homeSlice line) set.toNat way.toNat = false →
    ∃ t, exec (.ueDirtyLlcLine line set way det) s = .next t ∧ line ∈ t.ras.poisonLines ∧ (∀ y ∈ t.ras.dirty, y.line ≠ line) ∧ line ∈ (t.ctx d.ctx).poisoned ∧
      placeOut t (homeSlice line) set.toNat way.toNat = true ∧ t.mem = s.mem.store (s.place line) d.back ∧ t.crews = s.crews ∧
      ((s.ctx d.ctx).bound = true → (s.ctx d.ctx).trapStop = false → (t.ctx d.ctx).trapStop = true ∧ (t.ctx d.ctx).errStop = true ∧
        ∃ r, (t.ctx d.ctx).primary = some (r, 0, 0) ∧ r.tcause = 0x09030000 ∧ r.tval = BitVec.ofNat 64 line) ∧
      ((s.ctx d.ctx).bound = false → (t.ctx d.ctx).stop = (s.ctx d.ctx).stop)) ∧
  (∀ s line set way (det : BitVec 4), det.toNat ≤ 3 → line % 128 = 0 → s.cached line = true → (∀ d ∈ s.ras.dirty, d.line ≠ line) → placeOut s (homeSlice line) set.toNat way.toNat = false →
    ∃ t, exec (.ueCleanLlcLine line set way det) s = .next t ∧ placeOut t (homeSlice line) set.toNat way.toNat = true ∧ t.mem = s.mem ∧ t.crews = s.crews ∧ t.ctxs = s.ctxs ∧
      t.ras.poison = s.ras.poison ∧ t.ras.poisonLines = s.ras.poisonLines) ∧
  (∀ s a g, g = a / 64 * 64 → isDram g = true → s.retired g = false → (∀ d ∈ s.ras.dirty, d.line ≠ g / 128 * 128) →
    (∀ reader, (reader = .demand ∨ reader = .scrubber ∨ (∃ crew entry c x, reader = .copy crew entry ∧ s.crew? crew = some c ∧ c.copies.getD entry none = some x ∧ x.st = .running) ∨
        ∃ crew id c x, reader = .tileLoad crew id ∧ s.crew? crew = some c ∧ x ∈ c.transfers ∧ x.id = id) →
      ∃ t, exec (.ueDramGranule a reader) s = .next t ∧ g ∈ t.ras.poison ∧ t.mem = s.mem ∧ t.crews = s.crews ∧ t.ctxs = s.ctxs ∧ ((freeRetire s).isSome = true → t.retired g = true)) ∧
    (∀ n, n < 256 → ckPhase s n = 3 → ∃ t, exec (.ueDramGranule a (.chervil n)) s = .next t ∧ g ∈ t.ras.poison ∧ t.mem = s.mem ∧ t.crews = s.crews ∧
      (t.ctx n).ckpt.closing = none ∧ (t.ctx n).ckpt.shards = [] ∧ t.hostF (ckptOff n + 0x18) 31 28 = 3) ∧
    (∀ slot m, slot < 16 → m ∈ s.mig → m.slot = slot → ∃ t, exec (.ueDramGranule a (.migration slot)) s = .next t ∧ g ∈ t.ras.poison ∧ t.mem = s.mem ∧ t.crews = s.crews ∧
      t.ctxs = s.ctxs ∧ t.mig = s.mig.filter (fun x => x.slot != slot) ∧ migState t slot = 3)) ∧
  (∀ s quad off k, quad < 160 → off < 2 ^ 23 → k = vaultKey quad (off / 128 * 128) → ∃ t, exec (.ueVaultLine quad off) s = .next t ∧ k ∈ t.ras.vaultPoison ∧
    (k ∉ s.ras.vaultPoison → t.ras.spareRows = s.ras.spareRows ++ [(quad, off / 2048)]) ∧ t.mem = s.mem ∧ t.crews = s.crews ∧
    ((∀ x ∈ s.ctxs, x.bound = true → x.logicalQuad quad = none) → t.ctxs = s.ctxs) ∧
    (∀ n l, s.ctxs.findSome? (fun x => if x.bound then (x.logicalQuad quad).map fun l => (x.num, l) else none) = some (n, l) → (s.ctx n).bound = true → (s.ctx n).trapStop = false →
      k ∈ (t.ctx n).poisoned ∧ (t.ctx n).errStop = true ∧ ∃ r, (t.ctx n).primary = some (r, 0, 0) ∧ r.tcause = 0x09030000 ∧ r.tval = BitVec.ofNat 64 (l * 2 ^ 23 + off / 128 * 128))) ∧
  (∀ s crew c, s.crew? crew = some c → (s.ctx c.ctx).bound = true → (s.ctx c.ctx).trapStop = false →
    (∀ part, (part = .regs ∨ part = .scratch ∨ (part = .tile ∧ runningReq c = none) ∨
        ∃ num r, part = .engine num ∧ c.liveReqs.find? (fun r => r.num == num) = some r ∧ r.st ≠ .running) → ∃ t, exec (.ueCrewState crew part) s = .next t ∧ t.mem = s.mem ∧
      (part ≠ .scratch → t.crews = s.crews) ∧ (t.ctx c.ctx).trapStop = true ∧ (t.ctx c.ctx).errStop = true ∧
      ∃ r, (t.ctx c.ctx).primary = some (r, c.pos, 0) ∧ r.tcause = 0x09030000) ∧
    (∀ part r, ((part = .tile ∧ runningReq c = some r) ∨ ∃ num, part = .engine num ∧ c.liveReqs.find? (fun r => r.num == num) = some r ∧ r.st = .running) →
      ∃ t, exec (.ueCrewState crew part) s = .next t ∧ t.mem = s.mem ∧ (t.ctx c.ctx).trapStop = true ∧ (t.ctx c.ctx).errStop = true ∧
        ∃ p, (t.ctx c.ctx).primary = some (p, c.pos, 0) ∧ p.tcause = 0x09020000 ∧ p.tval = BitVec.ofNat 64 r.handle.toNat))

/-- R364, R367: ROLLBACK of a context that waits for one, whose log is on and whole and holds every poisoned line, all in one unit that has a spare one, writes the images back, lets its launches
start again and ends with RESULT 0; a log that was off or overran, or lacks a poisoned line, ends it with RESULT 1, and one that cannot be read with RESULT 2, nothing else changed; R371, R372: the scrubber locks its granules in turn, but for those under a dirty line; R373: a spare core takes a place that holds no crew; R374 to R376: a die is fenced
at once, and a stack by copying its granules to the spare memory, one after another, until END makes the copy its home.
The model's choices in it: log entries 98, 99, 100, 141. -/
def Obligations.RollbackScrubAndFences : Prop :=
  (∀ s n, n < 256 → (s.ctx n).rollWait = false → ∃ t, exec (.rollback n) s = .next t ∧ { t with dev := s.dev } = s) ∧
  (∀ s n, n < 256 → (s.ctx n).rollWait = true → let used := (s.host (logOff n + 0x18)).toNat; let base := (s.host (logOff n + 8)).toNat
    (s.hostF (logOff n) 0 0 = 1 → s.hostF (logOff n) 1 1 = 0 → (s.ctx n).poisoned = [] → s.spanBad base (144 * used) = true ∨ s.spanPoison base (144 * used) = true →
      ∃ t, exec (.rollback n) s = .next t ∧ { t with dev := s.dev } = s ∧ t.hostF (logOff n) 62 62 = 1 ∧ t.hostF (logOff n) 61 60 = 2) ∧
    (s.hostF (logOff n) 0 0 = 0 ∨ s.hostF (logOff n) 1 1 = 1 → ∃ t, exec (.rollback n) s = .next t ∧ { t with dev := s.dev } = s ∧ t.hostF (logOff n) 62 62 = 1 ∧
      t.hostF (logOff n) 61 60 = 1) ∧
    (s.spanBad base (144 * used) = false → s.spanPoison base (144 * used) = false → (∃ a ∈ (s.ctx n).poisoned, ∀ i, i < used → lineKey (logEntry s n i).1 ≠ a) →
      ∃ t, exec (.rollback n) s = .next t ∧ { t with dev := s.dev } = s ∧ t.hostF (logOff n) 62 62 = 1 ∧ t.hostF (logOff n) 61 60 = 1) ∧
    (s.spanBad base (144 * used) = false → s.spanPoison base (144 * used) = false → s.hostF (logOff n) 0 0 = 1 → s.hostF (logOff n) 1 1 = 0 →
      (∀ a ∈ (s.ctx n).poisoned, ∃ i, i < used ∧ lineKey (logEntry s n i).1 = a) →
      (∀ a ∈ (s.ctx n).poisoned, ∀ b ∈ (s.ctx n).poisoned, isVault a = false → isVault b = false → a / 65536 = b / 65536) →
      ((∃ a ∈ (s.ctx n).poisoned, isVault a = false) → s.hostF (logOff n + 0x20) 0 0 = 1) → ∃ t, exec (.rollback n) s = .next t ∧ t.hostF (logOff n) 62 62 = 1 ∧
      t.hostF (logOff n) 61 60 = 0 ∧ (t.ctx n).rollWait = false ∧ t.host (logOff n + 0x18) = 0 ∧ (∀ l ∈ t.launches, l.ctx = n → l.st ≠ 2) ∧
      (used = 0 → t.mem = s.mem) ∧
      ((s.ctx n).poisoned = [] → used = 1 → s.lateWrites = [] → s.still = true → s.mem.wf = true → (∀ x ∈ s.ctxs, x.ckpt.protect = []) → let k := lineKey (s.physNat base 8)
        (∀ j, j < 128 → t.mem.read (k + j) = s.mem.read (base + 16 + j)) ∧ ∀ a, a < k ∨ k + 128 ≤ a → t.mem.read a = s.mem.read a))) ∧
  (∀ s stack, stack < 12 → (s.reg (devAddr (13 + stack) 0x200000)).getLsbD 0 = true → (s.scrub stack).lock = none → ∃ t, exec (.scrubGranule stack) s = .next t ∧
    let a := scrubAddr stack (s.scrub stack).pos
    t.scrub stack = ⟨stack, ((s.scrub stack).pos + 1) % scrubCount, if s.ras.dirty.any (fun d => d.line == a / 128 * 128) then none else some a⟩ ∧
    { t with ras := s.ras } = s ∧ ∀ k, k ≠ stack → t.scrub k = s.scrub k) ∧
  (∀ s die quadrant v (core : BitVec 4), die < 10 → quadrant < 4 → (∀ c ∈ s.crews, c.core ≠ 64 * die + 16 * quadrant + core.toNat) →
    ∃ t, exec (.coreSpareMap die quadrant v core) s = .next t ∧ { t with dev := s.dev } = s ∧ let x := (t.devD (devAddr (3 + die) 0x100000) 0).toNat
      bitsOf x (8 * quadrant + 3) (8 * quadrant) = core.toNat ∧ bitsOf x (8 * quadrant + 7) (8 * quadrant + 7) = if v then 1 else 0) ∧
  (∀ s (dies : BitVec 10), ∃ t, exec (.dieFence dies) s = .next t ∧ { t with dev := s.dev } = s ∧ ∀ d, d < 10 → dies.getLsbD d = true → t.socketFenced (3 + d) = true) ∧
  (∀ s (stack : BitVec 4), (fenceState s = 1 ∨ fenceState s = 2 → exec (.stackFenceGo stack) s = .next s) ∧
    (fenceState s ≠ 1 → fenceState s ≠ 2 → ∃ t, exec (.stackFenceGo stack) s = .next t ∧ t.mem = s.mem ∧ t.hostF 0x910018 7 4 = stack.toNat ∧
      if s.ras.stkLive.isSome ∨ 12 ≤ stack.toNat then fenceState t = 5 else fenceState t = 1 ∧ t.ras.stkCopied = 0)) ∧
  (∀ s n a b, fenceState s = 1 → n = s.ras.stkCopied → a = 8192 * (12 * n + s.hostF 0x910018 7 4) → b = (s.host 0x910010).toNat + 8192 * n → s.mem.wf = true →
    (s.spanBad b 8192 = true ∨ isCxl b = false → ∃ t, exec .stackFenceGranuleCopy s = .next t ∧ fenceState t = 4 ∧ { t with dev := s.dev } = s) ∧
    (s.spanBad b 8192 = false → isCxl b = true → ∃ t, exec .stackFenceGranuleCopy s = .next t ∧ t.ras.stkCopied = n + 1 ∧
      fenceState t = (if n + 1 = stackGranules then 2 else 1) ∧ (∀ j, j < 8192 → t.mem.read (b + j) = s.mem.read (a + j)) ∧
      ∀ x, x < b ∨ b + 8192 ≤ x → t.mem.read x = s.mem.read x)) ∧
  (∀ s, (fenceState s ≠ 2 → exec .stackFenceEnd s = .next s) ∧ (fenceState s = 2 → ∃ t, exec .stackFenceEnd s = .next t ∧ fenceState t = 3 ∧ t.mem = s.mem ∧
    t.ras.stkLive = some (s.hostF 0x910018 7 4, (s.host 0x910010).toNat)))

/-! ### The command path: R378 to R403, R421, R422 -/

/-- R385, R387: a bytecode of the packet in progress leaves the packet at the next bytecode, past the skipped ones, or at the start of the body of its `rep`, with its one effect: a register,
the loop, a constant, a dependence or a condition; `stw` stores its 8 bytes, or waits for a page of the pool (R328); `end`, and the end of the program, end the packet: HEAD moves past it and the
journal has an entry; `emit` gives a launch its number, in K7, and accepts it, rejects it, holds it for a logging context (R366), or makes it a node, which resolves at once where it need not wait
(R395), or waits for room in the node table. A broken limit, the 257th step too, ends the packet and disables the queue with its CODE.
The model's choices in it: log entries 101, 146. -/
def Obligations.SorrelBytecodes : Prop :=
  ∀ s p, s.sorrel = some p → p.steps < 256 →
    (∀ i q skip, ((∃ ka imm, i = .sorrelLi ka imm ∧ q = p.setReg ka (imm.signExtend 64) ∧ skip = 0) ∨
        (∃ ka n, i = .sorrelPkw ka n ∧ q = p.setReg ka ((p.words.getD n.toNat 0).setWidth 64) ∧ skip = 0) ∨
        (∃ ka kb w off a, i = .sorrelLdw ka kb w off ∧ sorrelAddr s p (p.reg kb) w off 8 = some a ∧ q = p.setReg ka (BitVec.ofNat 64 (s.physNat a 8)) ∧ skip = 0) ∨
        (∃ ka kb imm, i = .sorrelAdd ka kb imm ∧ q = p.setReg ka (p.reg kb + imm.signExtend 64) ∧ skip = 0) ∨
        (∃ ka kb, i = .sorrelAddk ka kb ∧ q = p.setReg ka (p.reg ka + p.reg kb) ∧ skip = 0) ∨
        (∃ ka kb imm, i = .sorrelAndi ka kb imm ∧ q = p.setReg ka (p.reg kb &&& imm.setWidth 64) ∧ skip = 0) ∨
        (∃ ka kb imm, i = .sorrelShr ka kb imm ∧ q = p.setReg ka (BitVec.ofNat 64 ((p.reg kb).toNat / 2 ^ imm.toNat)) ∧ skip = 0) ∨
        (∃ ka n, i = .sorrelBz ka n ∧ q = p ∧ skip = if p.reg ka = 0 then n.toNat else 0) ∨
        (∃ ka n, i = .sorrelBnz ka n ∧ q = p ∧ skip = if p.reg ka ≠ 0 then n.toNat else 0) ∨
        (∃ c ka, i = .sorrelCst c ka ∧ q = { p with csts := (c.toNat, p.reg ka) :: p.csts.filter fun x => x.1 != c.toNat } ∧ skip = 0) ∨
        (∃ ka, i = .sorrelDep ka ∧ p.deps.length < 8 ∧ depNames s ((p.reg ka).setWidth 32).toNat = true ∧ q = { p with deps := p.deps ++ [(p.reg ka).setWidth 32] } ∧ skip = 0) ∨
        (∃ kb w off a, i = .sorrelCond kb w off ∧ sorrelAddr s p (p.reg kb) w off 4 = some a ∧ q = { p with cond := some a } ∧ skip = 0)) →
      let r := Sorrel.goOn { q with steps := p.steps + 1 } skip
      (r.pc < p.prog.length → exec i s = .next { s with sorrel := some r }) ∧
      (p.prog.length ≤ r.pc → p.ring < 64 → ∃ t, exec i s = .next t ∧ t.sorrel = none ∧ t.host (queueOff p.ring + 0x20) = BitVec.ofNat 64 (qHead s p.ring + 1) ∧
        t.hostF 0xD00008 31 0 = (s.hostF 0xD00008 31 0 + 1) % 2 ^ 32 ∧ t.launches = s.launches ∧ t.nodes = s.nodes)) ∧
    (∀ (r : Sorrel) k, (r.loop = none → r.goOn k = { r with pc := r.pc + 1 + k }) ∧ ∀ a b n, r.loop = some (a, b, n) →
      r.goOn k = if r.pc + 1 + k = b then (if 1 < n then { r with pc := a, loop := some (a, b, n - 1) } else { r with pc := b, loop := none }) else { r with pc := r.pc + 1 + k }) ∧
    (∀ (n : BitVec 7) (len : BitVec 5), 1 ≤ len.toNat → p.pc + 1 < p.prog.length → exec (.sorrelRep n len) s = .next
      { s with sorrel := some { p with steps := p.steps + 1, pc := p.pc + 1, loop := some (p.pc + 1, p.pc + 1 + len.toNat, n.toNat) } }) ∧
    (∀ ka kb (w : BitVec 2) off a, (qWin s p.queue w.toNat).2.2.1 = true → sorrelAddr s p (p.reg kb) w off 8 = some a →
      (s.writesBlocked [a] = true → exec (.sorrelStw ka kb w off) s = .next s) ∧
      (s.writesBlocked [a] = false → (Sorrel.goOn p 0).pc < p.prog.length → ∃ t, exec (.sorrelStw ka kb w off) s = .next t ∧
        t.sorrel = some (Sorrel.goOn { p with steps := p.steps + 1 } 0) ∧ t.mem = (physWrite s none none none a (leBytes 8 (p.reg ka).toNat)).mem)) ∧
    (p.ring < 64 → ∃ t, exec .sorrelEnd s = .next t ∧ t.sorrel = none ∧ t.host (queueOff p.ring + 0x20) = BitVec.ofNat 64 (qHead s p.ring + 1) ∧
      t.hostF 0xD00008 31 0 = (s.hostF 0xD00008 31 0 + 1) % 2 ^ 32 ∧ t.launches = s.launches ∧ t.nodes = s.nodes) ∧
    (∀ w off l num u, num = s.nextLaunch → u = { s with nextLaunch := nextNum num } → templateOf s p w off num = some l → (Sorrel.goOn p 0).pc < p.prog.length →
      let q (d : Nat) : Sorrel := Sorrel.goOn
        { p with steps := p.steps + 1, k := p.k.set 7 (BitVec.ofNat 64 num), csts := [], deps := [], cond := none, last := BitVec.ofNat 32 num, disp := d } 0
      let y : Node := ⟨l, p.ring, p.slot, p.lap, packetDigest p, p.deps, p.cond⟩
      (p.deps = [] → p.cond = none →
        (logHolds u l.ctx = true → exec (.sorrelEmit w off) s = .next { u with launches := s.launches ++ [{ l with kernel := none, st := 0 }], sorrel := some (q 0) }) ∧
        (∀ k, logHolds u l.ctx = false → loadKernel u l.ctx l.kdesc = some k → placeable u k.shape l.g = true → exec (.sorrelEmit w off) s = .next
          { u with launches := s.launches ++ [{ l with kernel := some k, st := 1 }], sorrel := some (q 0) }) ∧
        (logHolds u l.ctx = false → (∀ k, loadKernel u l.ctx l.kdesc = some k → placeable u k.shape l.g = false) → ∃ t, exec (.sorrelEmit w off) s = .next t ∧
          t.sorrel = some (q 3) ∧ t.dispOf num = some 2 ∧ t.launches = s.launches.filter fun x => x.num != num)) ∧
      (p.deps ≠ [] ∨ p.cond.isSome = true → (256 ≤ s.nodes.length → exec (.sorrelEmit w off) s = .next s) ∧
        (s.nodes.length < 256 → y.ready u = false → exec (.sorrelEmit w off) s = .next { u with nodes := s.nodes ++ [y], sorrel := some (q 1) }) ∧
        (s.nodes.length < 256 → y.ready u = true → exec (.sorrelEmit w off) s = .next { resolve u y with sorrel := some (q 1) }))) ∧
    (∀ w i, decodeSorrel w = some i → p.ring < 64 → p.queue < 64 → ∃ t, exec i { s with sorrel := some { p with steps := 256 } } = .next t ∧ t.sorrel = none ∧ qEn t p.queue = false ∧
      t.hostF (queueOff p.queue + 0x30) 63 63 = 1 ∧ t.hostF (queueOff p.queue + 0x30) 62 59 = 2 ∧ HostMsg.queueSignal p.queue ∈ t.hostOut) ∧
    (∀ i code, p.ring < 64 → p.queue < 64 → ((∃ ka kb w off, i = .sorrelLdw ka kb w off ∧ sorrelAddr s p (p.reg kb) w off 8 = none ∧ code = 3) ∨
        (∃ ka kb w off, i = .sorrelStw ka kb w off ∧ ((qWin s p.queue w.toNat).2.2.1 = false ∨ sorrelAddr s p (p.reg kb) w off 8 = none) ∧ code = 3) ∨
        (∃ kb w off, i = .sorrelCond kb w off ∧ sorrelAddr s p (p.reg kb) w off 4 = none ∧ code = 3) ∨
        (∃ ka, i = .sorrelDep ka ∧ (8 ≤ p.deps.length ∨ depNames s ((p.reg ka).setWidth 32).toNat = false) ∧ code = 4) ∨
        (∃ w off, i = .sorrelEmit w off ∧ templateOf s p w off s.nextLaunch = none ∧ code = 5)) →
      ∃ t, exec i s = .next t ∧ t.sorrel = none ∧ qEn t p.queue = false ∧ t.hostF (queueOff p.queue + 0x30) 63 63 = 1 ∧ t.hostF (queueOff p.queue + 0x30) 62 59 = code ∧
        HostMsg.queueSignal p.queue ∈ t.hostOut ∧ t.launches = s.launches)

/-- R378, R379, R386, R389, R421, R422: the doorbell raises TAIL and wakes the queue; a queue whose program verifies is enabled, and another reports CODE 1; an examination of a queue with one ring
starts the packet in its head slot where it is published, sets WAIT where it is not, and starts nothing in an empty or disabled queue. R394, R395: a node whose dependences allow it resolves by them and
its condition, and its launch is accepted, rejected, or held for a logging context (R366). R397, R398: a bind record that may be committed binds a crew, and one that may not shows REJ; a committed one
stays. R399: SCHED_START starts every crew of a launch whose crews are all there, and waits for the others; R400, R401: a launch whose crews are done leaves with its completion record.
The model's choices in it: log entries 74, 80, 102, 103, 104, 146. -/
def Obligations.QueuesNodesAndLaunches : Prop :=
  (∀ s q x, q < 64 → ∃ t, exec (.doorbell q x) s = .next t ∧ { t with dev := s.dev, due := s.due } = s ∧ qTail t q = max (qTail s q) x.toNat ∧
    (qEn s (qLeader s q) = true → qLeader s q ∈ t.due)) ∧
  (∀ s q (n : BitVec 5) u, q < 64 → qEn s q = false → u = s.setHostF (queueOff q + 0x10) 4 0 n.toNat → ∃ t, exec (.queueEnable q n) s = .next t ∧ qLog t q = n.toNat ∧ t.mem = s.mem ∧
    (n.toNat < 1 ∨ 16 < n.toNat → qEn t q = false) ∧
    (1 ≤ n.toNat → n.toNat ≤ 16 → (∀ prog, qProgram u q = .ok prog → qEn t q = true ∧ (q, prog) ∈ t.queueProg) ∧
      ∀ i, qProgram u q = .error i → qEn t q = false ∧ t.hostF (queueOff q + 0x30) 62 59 = 1 ∧ HostMsg.queueSignal q ∈ t.hostOut)) ∧
  (∀ s q (n : BitVec 5), q < 64 → qEn s q = true → exec (.queueEnable q n) s = .next s) ∧
  (∀ s q, s.sorrel = none → nextQueue s = some q → qEn s q = false ∨ (qRings s q = [q] ∧ qTail s q ≤ qHead s q) →
    exec .queueExamination s = .next { s with served := q, due := s.due.filter (· != q) }) ∧
  (∀ s q, s.sorrel = none → nextQueue s = some q → qEn s q = true → qRings s q = [q] → qHead s q < qTail s q → q < 64 → ∃ t, exec .queueExamination s = .next t ∧ q ∉ t.due ∧
    t.served = q ∧ t.mem = s.mem ∧
    (published s q = false → t.sorrel = none ∧ t.hostF (queueOff q + 0x10) 9 9 = 1) ∧
    (published s q = true → t.hostF (queueOff q + 0x10) 9 9 = 0 ∧ ∃ p, t.sorrel = some p ∧ p.queue = q ∧ p.ring = q ∧ p.pc = 0 ∧ p.steps = 0 ∧ p.k = List.replicate 8 0 ∧
      p.words = (List.range 16).map (fun i => BitVec.ofNat 32 (s.physNat (slotOf s q (qHead s q) + 4 * i) 4)) ∧
      p.prog = ((s.queueProg.find? fun x => x.1 == q).map (·.2)).getD [])) ∧
  (∀ s n y u, s.nodes[n]? = some y → y.ready s = true → u = { s with nodes := s.nodes.filter fun z => z.launch.num != y.launch.num } → ∃ t, exec (.nodeResolve n) s = .next t ∧
    (∀ z ∈ t.nodes, z.launch.num ≠ y.launch.num) ∧
    (y.deps.any (depFailed s) = true → t.dispOf y.launch.num = some 4) ∧
    (y.deps.any (depFailed s) = false → ∀ a, y.cond = some a → s.spanBad a 4 = false → s.spanPoison a 4 = false → s.physNat a 4 = 0 → t.dispOf y.launch.num = some 3) ∧
    (y.deps.any (depFailed s) = false → (∀ a, y.cond = some a → s.spanBad a 4 = false ∧ s.spanPoison a 4 = false ∧ s.physNat a 4 ≠ 0) →
      (logHolds u y.launch.ctx = true → t.launches = s.launches ++ [{ y.launch with kernel := none, st := 0 }]) ∧
      (∀ k, logHolds u y.launch.ctx = false → loadKernel u y.launch.ctx y.launch.kdesc = some k → placeable u k.shape y.launch.g = true →
        t.launches = s.launches ++ [{ y.launch with kernel := some k, st := 1 }]) ∧
      (logHolds u y.launch.ctx = false → (∀ k, loadKernel u y.launch.ctx y.launch.kdesc = some k → placeable u k.shape y.launch.g = false) → t.dispOf y.launch.num = some 2))) ∧
  (∀ s core slot (q0 q1 : Quad) num ctx pos u, core < 640 → slot < 32 → s.devD (bindAddr core slot) 0 = 0 → s.devD (bindAddr core slot + 8) 0 = 0 →
    q0 &&& 0xBFFFFFFFFFE00000 = q0 → q0.getLsbD 63 = true → q1 &&& 0xFFFFFFFFFFFFFFE0 = q1 → num = bitsOf q1.toNat 63 32 → ctx = bitsOf q0.toNat 58 51 → pos = bitsOf q0.toNat 50 28 →
    u = s.setDev (bindAddr core slot + 8) q1 →
    (s.launch? num = none ∨ (∃ l, s.launch? num = some l ∧ ∀ k, l.kernel = some k → commitOk u l k core ctx pos (basesOf q0 q1) = false) →
      ∃ t, exec (.bindCommit core slot q0 q1) s = .next t ∧ (t.devD (bindAddr core slot) 0).getLsbD 63 = false ∧
      (t.devD (bindAddr core slot) 0).getLsbD 62 = true ∧ { t with dev := s.dev } = s) ∧
    (∀ l k, s.launch? num = some l → l.kernel = some k → commitOk u l k core ctx pos (basesOf q0 q1) = true → ∃ t c, exec (.bindCommit core slot q0 q1) s = .next t ∧ c ∈ t.crews ∧
      c.core = core ∧ c.slot = slot ∧ c.ctx = ctx ∧ c.pos = pos ∧ c.launch = num ∧ c.kernel = k ∧ c.consts = l.consts ∧ c.threads.length = k.shape.crew ∧
      (∀ th ∈ c.threads, (∀ r ∈ th.v, r = 0) ∧ (∀ f ∈ th.full, f = true) ∧ th.p = 0 ∧ th.exited = false) ∧ (t.ctx ctx).bound = true ∧ (t.devD (bindAddr core slot) 0).getLsbD 63 = true)) ∧
  (∀ s core slot q0 q1, core < 640 → slot < 32 → (s.devD (bindAddr core slot) 0).getLsbD 63 = true → exec (.bindCommit core slot q0 q1) s = .next s) ∧
  (∀ s (n : Word), (s.launch? n.toNat = none → exec (.schedStart n) s = .next s) ∧
    (∀ l, s.launch? n.toNat = some l → l.st ≠ 1 ∨ n.toNat ∈ s.startPend → exec (.schedStart n) s = .next s) ∧
    (∀ l, s.launch? n.toNat = some l → l.st = 1 → n.toNat ∉ s.startPend →
      (allCommitted s l = false → exec (.schedStart n) s = .next { s with startPend := s.startPend ++ [n.toNat] }) ∧
      (allCommitted s l = true → ∃ t, exec (.schedStart n) s = .next t ∧ (∀ c ∈ t.crews, c.launch = n.toNat → c.started = true) ∧
        (∀ m ∈ t.launches, m.num = n.toNat → m.st = 2) ∧ n.toNat ∉ t.startPend ∧ SameMemory s t))) ∧
  (∀ s (n : Word) l, s.launch? n.toNat = some l → l.st = 2 → groupDone s l.ctx l.num = true → ∃ t, exec (.launchComplete n) s = .next t ∧ t.dispOf n.toNat = some 0 ∧
    (∀ m ∈ t.launches, m.num ≠ n.toNat) ∧ (∀ c ∈ t.crews, ¬(c.ctx = l.ctx ∧ c.launch = n.toNat)) ∧
    (l.comp ≠ 0 → s.writeBad l.comp 32 = false → s.lateWrites = [] → s.noLog → s.still = true → s.mem.wf = true → (∀ x ∈ s.ctxs, x.ckpt.protect = []) →
      t.mem.nat l.comp 8 = s.timebase.toNat ∧ t.mem.nat (l.comp + 8) 4 = n.toNat ∧ t.mem.nat (l.comp + 12) 1 = 0 ∧
      ∀ a, a < l.comp ∨ l.comp + 32 ≤ a → t.mem.read a = s.mem.read a)) ∧
  (∀ s x, s.launch? 0 = none → s.ctxs.find? (fun x => x.bound && groupDone s x.num 0) = some x → ∃ t, exec (.launchComplete 0) s = .next t ∧
    ∀ c ∈ t.crews, ¬(c.ctx = x.num ∧ c.launch = 0))

/-! ### Platform and resets: R26, R406 to R416 -/

/-- R7, R406 to R408, R414, R416: BOOT takes the machine to stage 4 with the silent dies fenced, or to stage 15 without the host die's own firmware; an image that verifies stands in the inactive bank and is
pending, and the switch makes it the active one; a hot island drops one frequency step; a periodic record is appended with its schema and version; REGISTER_WRITE writes
the fields of a register (shown of the page-table roots), does nothing at an unlisted offset or on a fenced die, and notes a reserved die address (R12). R410: the watchdog and a reset of the management complex leave every context as it is.
The model's choices in it: log entries 106, 107, 108, 113, 114, 143. -/
def Obligations.PlatformEvents : Prop :=
  (∀ s bad, stage s = 0 → (∃ t, exec (.boot bad true) s = .next t ∧ stage t = 4 ∧ t.plat.standby = false ∧ t.mem = s.mem ∧ ∀ k, k ∈ t.plat.fenced ↔ 1 ≤ k ∧ k < 25 ∧ k ∈ bad) ∧
    ∃ t, exec (.boot bad false) s = .next t ∧ stage t = 15 ∧ t.plat.standby = false ∧ t.mem = s.mem) ∧
  (∀ s cls im sig d, cls < 6 → cls < s.plat.fw.length → (∃ t, exec (.firmwareImageUpdate cls im sig) s = .next t ∧
      if imageOk im sig = true then (t.plat.fw.getD cls d).other = sha256 im ∧ (t.plat.fw.getD cls d).active = (s.plat.fw.getD cls d).active ∧
        t.hostF 0xE00008 (8 + cls) (8 + cls) = 1 ∧ { t with plat := s.plat, dev := s.dev } = s else t = s) ∧
    (s.hostF 0xE00008 (8 + cls) (8 + cls) = 1 → switchPoint s cls = true → ∃ t, exec (.bankSwitch cls) s = .next t ∧
      t.plat.fw.getD cls d = ⟨(s.plat.fw.getD cls d).other, (s.plat.fw.getD cls d).active⟩ ∧ t.hostF 0xE00008 (8 + cls) (8 + cls) = 0 ∧
      t.hostF 0xE00008 cls cls = 1 - s.hostF 0xE00008 cls cls ∧ { t with plat := s.plat, dev := s.dev } = s)) ∧
  (∀ s n k, n < 64 → 840 ≤ s.temp (islandSocket n) → k = ((s.plat.freqDown.find? fun x => x.1 == n).map (·.2)).getD 0 → ∃ t, exec (.junctionThrottle n) s = .next t ∧
    t.plat.freqDown.find? (fun x => x.1 == n) = some (n, k + 1) ∧ { t with plat := s.plat } = s) ∧
  (∀ s n, n ∈ [1, 2, 4, 5] → ∃ t b, exec (.telemetryPeriodic n) s = .next t ∧ t.plat.telem = s.plat.telem ++ [(n, b)] ∧ b.take 2 = [BitVec.ofNat 8 n, 1] ∧
    { t with plat := s.plat, drawn := s.drawn } = s) ∧
  (∀ s a wide x, Config.devBase ≤ a → a < Config.paEnd → a % (if wide then 8 else 4) = 0 →
    (dieReserved a = false → dieReserved (a / 8 * 8) = false → s.dieFenced a = true ∨ regFields (a / 8 * 8) = none → exec (.registerWrite a wide x) s = .next s) ∧
    (dieReserved a = true → dieReserved (a / 8 * 8) = true → exec (.registerWrite a wide x) s = .next (noteUnreach s (a / 8 * 8))) ∧
    (∀ n, n < 256 → wide = true → a = devAddr 0 (xlatOff n) → s.dieFenced a = false → ∃ t, exec (.registerWrite a wide x) s = .next t ∧
      t.hostF (xlatOff n) 51 8 = bitsOf x.toNat 51 8 ∧ { t with dev := s.dev } = s)) ∧
  (∀ s, exec .watchdogExpiry s = .next s ∧ exec .resetManagementComplex s = .next s)

/-- R26, R410, R411, R416: the resets, each of its own part: a context ends and its log is empty; a core holds no crew and no line; the requests of a quad's matrix engine and the copies of its copy engine
run no more; a compute die holds no crew and no translation, its vault bytes and registers are cleared; a memory stack's controllers and a fabric port or die are as after reset, with the packets counted as
dropped; every queue is disabled and every node fails; the host's requests are answered; the package (also on a junction trip and in standby) is as after reset but for memory outside it.
The model's choices in it: log entries 1, 106, 109, 110, 111, 112. -/
def Obligations.Resets : Prop :=
  (∀ s n, n < 256 → ∃ t, exec (.resetContext n) s = .next t ∧ (t.ctx n).bound = false ∧ (t.ctx n).firstBits = [] ∧ (∀ c ∈ t.crews, c.ctx ≠ n) ∧ t.host (logOff n + 0x18) = 0 ∧
    ∀ l ∈ t.launches, l.ctx = n → l.st ≠ 2) ∧
  (∀ s core, core < 640 → ∃ t, exec (.resetCore core) s = .next t ∧ (∀ l ∈ t.l1, l.core ≠ core) ∧ (∀ x ∈ t.icache, x.1 ≠ core) ∧ (∀ x ∈ t.tlb, x.core ≠ some core) ∧
    (s.noLog → ∀ c ∈ t.crews, c.usesCore core = false) ∧ ((∀ c ∈ s.crews, c.usesCore core = false) → { t with l1 := s.l1, icache := s.icache, tlb := s.tlb } = s)) ∧
  (∀ s quad, quad < 160 → (∃ t, exec (.resetMatrixEngine quad) s = .next t ∧ SameMemory s t ∧ ∀ id c k, s.crew? id = some c → quadOf c.core = quad → t.crew? id = some k →
      ∀ m, some m ∈ k.mats → m.st ≠ .queued ∧ m.st ≠ .running) ∧
    ∃ t, exec (.resetCopyEngine quad) s = .next t ∧ ∀ id c k, s.crew? id = some c → quadOf c.core = quad → t.crew? id = some k → ∀ x, some x ∈ k.copies → x.st ≠ .running) ∧
  (∀ s die, die < 64 → 3 ≤ die % 32 → die % 32 ≤ 12 → let d := die % 32 - 3
    ∃ t, exec (.resetComputeDie die) s = .next t ∧ (∀ c ∈ t.crews, c.usesDie d = false) ∧ (∀ x ∈ t.tlb, x.die ≠ d) ∧ (∀ x ∈ t.l1, dieOf x.core ≠ d) ∧
      (∀ a x, devAddr (3 + d) 0 ≤ a ∧ a < devAddr (4 + d) 0 ∨ devAddr (35 + d) 0 ≤ a ∧ a < devAddr (36 + d) 0 → t.devD a x = x) ∧
      ∀ q off, 16 * d ≤ q → q < 16 * d + 16 → off < 2 ^ 23 → t.mem.read (vaultKey q off) = 0) ∧
  (∀ s k, k < 12 → ∃ t, exec (.resetMemoryStack k) s = .next t ∧ t.mem = s.mem ∧ t.crews = s.crews ∧ (∀ ch, t.chan k ch = Chan.idle k ch) ∧ t.scrub k = ⟨k, 0, none⟩ ∧
    ∀ a x, devAddr (13 + k) 0 ≤ a → a < devAddr (14 + k) 0 → t.devD a x = x) ∧
  (∀ i s n p, i = .resetFabricPort n ∨ i = .linkErrorLimit n → n < 36 → s.port? n = some p → ∃ t, exec i s = .next t ∧ { t with ports := s.ports, holdq := s.holdq } = s ∧
    (∀ k, k ≠ n → t.port? k = s.port? k) ∧ t.holdq = s.holdq.filter (fun x => !(s.route x.dst == some n)) ∧ ∃ q, t.port? n = some q ∧ q.up = false ∧ q.egress = [] ∧ q.xbar = [] ∧
      q.ingress = [] ∧ q.dropped = p.dropped + p.egress.length + p.xbar.length + p.ingress.length + (s.holdq.length - t.holdq.length)) ∧
  (∀ s die, die = 1 ∨ die = 2 → ∃ t, exec (.resetFabricDie die) s = .next t ∧ { t with ports := s.ports, holdq := s.holdq } = s ∧
    ∀ p ∈ t.ports, 18 * (die - 1) ≤ p.num → p.num < 18 * die → p.up = false ∧ p.egress = [] ∧ p.xbar = [] ∧ p.ingress = []) ∧
  (∀ s, ∃ t, exec .resetCommandPath s = .next t ∧ t.sorrel = none ∧ t.nodes = [] ∧ t.due = [] ∧ (∀ q, q < 64 → qEn t q = false) ∧ t.launches = s.launches.filter (fun l => s.nodes.all fun y => y.launch.num != l.num) ∧
    ∀ y ∈ s.nodes, launchAge s y.launch.num ≤ 65536 → t.dispOf y.launch.num = some 4) ∧
  (∀ i s, i = .resetHostDieFunctions ∨ i = .hostFlr → s.noLog → ∃ t, exec i s = .next t ∧ t.priStopped = true ∧ t.prgFree = List.range 512 ∧ t.merge = [] ∧ t.plat.cxl = [] ∧
    (∀ x ∈ t.tlb, x.host = none) ∧ ∀ v ∈ t.inval, v.ats = none) ∧
  (∀ i s, i = .resetPackage ∨ i = .standbyEntry ∨ (∃ k, i = .junctionTrip k ∧ k < 25 ∧ 920 ≤ s.temp k) → s.mem.wf = true → ∃ t, exec i s = .next t ∧ t.crews = [] ∧ (∀ n, (t.ctx n).bound = false) ∧
    t.launches = [] ∧ t.nextLaunch = 1 ∧ t.sorrel = none ∧ (∀ p ∈ t.ports, p.up = false) ∧ (∀ a x, a ≠ devAddr 0 0xE00008 → t.devD a x = x) ∧ t.plat.fw = s.plat.fw ∧
    (t.plat.standby = true ↔ i = .standbyEntry) ∧ ∀ a, t.mem.read a = if isHostMem a = true ∨ isCxl a = true then s.mem.read a else 0)

end
end

