-- ==== Sys2Proof/Laws/Decode.lean ====
section
/-! SUPPORT. The fields of a word, one by one: what the encoder writes into a field the decoder reads from it. -/
namespace Sys2Proof

@[simp] theorem Ty.ofCode_code (t : Ty) : Ty.ofCode t.code = t := by cases t <;> rfl
@[simp] theorem RMode.ofCode_code (m : RMode) : RMode.ofCode m.code = m := by cases m <;> rfl
@[simp] theorem Cond.ofCode_code (c : Cond) : Cond.ofCode c.code = c := by cases c <;> rfl
@[simp] theorem Vec.ofCode_code (v : Vec) : Vec.ofCode v.code = v := by cases v <;> rfl
@[simp] theorem MemOrd.ofCode_code (o : MemOrd) : MemOrd.ofCode o.code = o := by cases o <;> rfl
@[simp] theorem AOp.ofCode_code (o : AOp) : AOp.ofCode o.code = o := by cases o <;> rfl
@[simp] theorem ShflMode.ofCode_code (m : ShflMode) : ShflMode.ofCode m.code = m := by cases m <;> rfl
@[simp] theorem TSpace.ofCode_code (t : TSpace) : TSpace.ofCode t.code = t := by cases t <;> rfl

/-- Every type code names a type, and each its own. -/
theorem Ty.code_ofCode (c : BitVec 4) : (Ty.ofCode c).code = c := by revert c; decide

theorem Opd.ofCode_v (n : BitVec 8) : Opd.ofCode false (Opd.v n).code = some (.v n) := by revert n; decide
theorem Opd.ofCode_l (n : BitVec 4) : Opd.ofCode false (Opd.l n).code = some (.l n) := by revert n; decide
theorem Opd.ofCode_s (n : BitVec 6) : Opd.ofCode false (Opd.s n).code = some (.s n) := by revert n; decide
theorem Opd.ofCode_t (n : BitVec 5) : Opd.ofCode false (Opd.t n).code = some (.t n) := by revert n; decide
theorem Opd.ofCode_k (n : BitVec 6) : Opd.ofCode false (Opd.k n).code = some (.k n) := by revert n; decide
theorem Opd.ofCode_z (b : Bool) : Opd.ofCode b Opd.z.code = some .z := by cases b <;> rfl
theorem Opd.ofCode_p (n : BitVec 7) (h : n.toNat < 96) : Opd.ofCode true (Opd.p n).code = some (.p n) := by revert n; decide

/-- The kinds of operand a field can hold: a predicate number where it is one, and any other operand where it is not. -/
def Opd.inField (isPred : Bool) : Opd → Prop
  | .p n => isPred = true ∧ n.toNat < 96
  | .z => True
  | _ => isPred = false
/-- An operand of its field is read back from its specifier. -/
theorem Opd.ofCode_code (isPred : Bool) (o : Opd) (h : o.inField isPred) : Opd.ofCode isPred o.code = some o := by
  cases o with
  | v n => cases h; exact ofCode_v n
  | l n => cases h; exact ofCode_l n
  | s n => cases h; exact ofCode_s n
  | t n => cases h; exact ofCode_t n
  | k n => cases h; exact ofCode_k n
  | z => exact ofCode_z isPred
  | p n => obtain ⟨rfl, h⟩ := h; exact ofCode_p n h
/-- The guard is read back where its predicate exists. -/
theorem Guard.ofCode_code (g : Guard) (h : ∀ n neg, g = .pred n neg → n.toNat < 96) : Guard.ofCode g.code.1 g.code.2 = some g := by
  cases g with
  | always => rfl
  | pred n neg =>
    have h := h n neg rfl
    have hn : n ≠ 127 := fun e => by rw [e] at h; exact absurd h (by decide)
    unfold Guard.ofCode
    exact (if_neg hn).trans (if_pos h)

/-! ### FN and the extensions -/

theorem fnT_ty (t : Ty) (sat : Bool) (v : BitVec 2) : (fnT t sat v).extractLsb' 3 4 = t.code := by
  cases t <;> cases sat <;> revert v <;> decide
theorem fnX_ty (t : Ty) (x : BitVec 3) : (fnX t x).extractLsb' 3 4 = t.code := by cases t <;> revert x <;> decide
theorem fnX_low (t : Ty) (x : BitVec 3) : (fnX t x).extractLsb' 0 3 = x := by cases t <;> revert x <;> decide
/-- The bits of the extension of format M, by place. -/
theorem MemExt.getLsbD_bits (m : MemExt) (xf : BitVec 8) (n : Nat) : (m.bits xf).getLsbD n =
    if n < 8 then xf.getLsbD n else if n - 8 < 11 then false else if n - 8 - 11 < 2 then m.ord.code.getLsbD (n - 8 - 11)
    else if n - 8 - 11 - 2 < 3 then m.scale.getLsbD (n - 8 - 11 - 2) else m.disp.getLsbD (n - 8 - 11 - 2 - 3) := by
  rw [show (m.bits xf).getLsbD n = ((m.disp ++ m.scale ++ m.ord.code ++ (0 : BitVec 11) ++ xf : BitVec (40 + 3 + 2 + 11 + 8))).getLsbD n from rfl,
    BitVec.getLsbD_append, BitVec.getLsbD_append, BitVec.getLsbD_append, BitVec.getLsbD_append]
  rw [show (0 : BitVec 11).getLsbD (n - 8) = false from BitVec.getLsbD_zero]
/-- R63: the extension of format M is read back. -/
theorem memExt_bits (m : MemExt) (xf : BitVec 8) : memExt (m.bits xf) = m := by
  have h1 : (m.bits xf).extractLsb' 24 40 = m.disp := by
    apply BitVec.eq_of_getLsbD_eq; intro i hi
    rw [BitVec.getLsbD_extractLsb', m.getLsbD_bits, if_neg (by omega), if_neg (by omega), if_neg (by omega), if_neg (by omega),
      show 24 + i - 8 - 11 - 2 - 3 = i by omega]
    simp [hi]
  have h2 : (m.bits xf).extractLsb' 21 3 = m.scale := by
    apply BitVec.eq_of_getLsbD_eq; intro i hi
    rw [BitVec.getLsbD_extractLsb', m.getLsbD_bits, if_neg (by omega), if_neg (by omega), if_neg (by omega), if_pos (by omega),
      show 21 + i - 8 - 11 - 2 = i by omega]
    simp [hi]
  have h3 : (m.bits xf).extractLsb' 19 2 = m.ord.code := by
    apply BitVec.eq_of_getLsbD_eq; intro i hi
    rw [BitVec.getLsbD_extractLsb', m.getLsbD_bits, if_neg (by omega), if_neg (by omega), if_pos (by omega),
      show 19 + i - 8 - 11 = i by omega]
    simp [hi]
  simp only [memExt, h1, h2, h3, MemOrd.ofCode_code]

end Sys2Proof
end

