-- ==== Sys2Proof/Laws/Issue.lean ====
section
/-! SUPPORT. What an instruction that is ready does, once for all instructions: the outcome of its body. -/
namespace Sys2Proof.Machine

theorem ready_env {i : Instr} {s : State} {e : Env} (h : Ready i s e) : envOf i s = some e := h.1
/-- The issue of a ready instruction is its body. -/
theorem issue_of_ready {i : Instr} {s : State} {e : Env} (h : Ready i s e) (body : Env → State → Res) :
    issue i s body = finish e s e.advance (body e s) := by
  simp only [issue, h.1, h.2]
/-- The same for an instruction that places its lanes. -/
theorem issueCtl_of_ready {i : Instr} {s : State} {e : Env} (h : Ready i s e) (body : Env → State → Res) :
    issueCtl i s body = finish e s e.noted (body e s) := by
  simp only [issueCtl, h.1, h.2]
theorem finish_go (e : Env) (s t : State) (adv : State → State) : finish e s adv (.go t) = .next (adv { t with waited := false }) := rfl
theorem finish_wait (e : Env) (s : State) (adv : State → State) : finish e s adv .wait = .next { s with waited := true } := rfl
theorem finish_stall (e : Env) (s t : State) (adv : State → State) : finish e s adv (.stall t) = .next { t with waited := true } := rfl
theorem finish_trap (e : Env) (s t : State) (adv : State → State) (x : Trap) : finish e s adv (.trap t x) = .next (trapped e t x) := rfl
theorem done_eq (e : Env) (t : State) : done e t = e.advance { t with waited := false } := rfl
theorem placed_eq (e : Env) (t : State) : placed e t = e.noted { t with waited := false } := rfl
/-- A ready instruction whose body writes one result in each executing lane. -/
theorem issue_aluBody {i : Instr} {s : State} {e : Env} (h : Ready i s e) (t : Ty) (g : Env → Thread → Nat) :
    issue i s (aluBody t g) = .next (retires e s t (g e)) := by
  rw [issue_of_ready h]; rfl
/-- What an `envOf` names: the crew and the warp of the cursor, the instruction, its length and its fields. -/
theorem envOf_spec {i : Instr} {s : State} {e : Env} (h : envOf i s = some e) :
    ∃ u, s.cur = some u ∧ s.crew? u.crew = some e.c ∧ e.c.warp? u.wid = some e.w ∧ e.eid = u.eid ∧ e.pc = u.pc ∧ e.instr = i ∧
      e.len = i.bytes ∧ e.f = (i.fields?).getD Fields.blank ∧
      ∃ x, e.w.entries.find? (fun y => y.eid == u.eid) = some x ∧ e.mask = x.mask := by
  unfold envOf at h
  split at h
  · cases h
  · rename_i u hu
    split at h
    · cases h
    · rename_i c hc
      split at h
      · cases h
      · rename_i w hw
        split at h
        · cases h
        · rename_i x hx
          cases h
          exact ⟨u, hu, hc, hw, rfl, rfl, rfl, rfl, rfl, x, hx, rfl⟩

end Sys2Proof.Machine
end

