-- ==== Sys2Proof/Laws/Memory.lean ====
section
/-! SUPPORT. Memory in canonical form: every operation keeps the form, a write is read back and touches no other address, and
memories that read alike are equal data. -/
namespace Sys2Proof.Machine

/-- The canonical form, said of lists: keys rise and no listed byte is 0. -/
theorem Mem.wf_iff (m : Mem) : m.wf = true ↔ m.Pairwise (fun x y => x.1 < y.1) ∧ ∀ c ∈ m, c.2 ≠ 0 := by
  induction m with
  | nil => simp [Mem.wf]
  | cons c r ih =>
    cases r with
    | nil => simp [Mem.wf]
    | cons d r =>
      obtain ⟨a, x⟩ := c; obtain ⟨b, y⟩ := d
      rw [Mem.wf, Bool.and_eq_true, Bool.and_eq_true, ih]
      constructor
      · rintro ⟨⟨hx, hab⟩, hp, hn⟩
        refine ⟨List.pairwise_cons.2 ⟨?_, hp⟩, ?_⟩
        · intro z hz
          rcases List.mem_cons.1 hz with rfl | hz
          · simpa using hab
          · exact Nat.lt_trans (by simpa using hab) ((List.pairwise_cons.1 hp).1 z hz)
        · intro z hz
          rcases List.mem_cons.1 hz with rfl | hz
          · simpa using hx
          · exact hn z hz
      · rintro ⟨hp, hn⟩
        have hp' := List.pairwise_cons.1 hp
        exact ⟨⟨by simpa using hn _ List.mem_cons_self, by simpa using hp'.1 (b, y) List.mem_cons_self⟩, hp'.2,
          fun z hz => hn z (List.mem_cons_of_mem _ hz)⟩

/-- Reset memory is canonical. -/
theorem Mem.wf_nil : Mem.wf [] = true := rfl
theorem State.reset_mem_wf : State.reset.mem.wf = true := rfl

/-- A part of a canonical memory is canonical. -/
theorem Mem.wf_filter {m : Mem} (p : Host.Cell → Bool) (h : m.wf = true) : Mem.wf (m.filter p) = true := by
  rw [Mem.wf_iff] at *
  exact ⟨h.1.filter p, fun c hc => h.2 c (List.mem_of_mem_filter hc)⟩

/-- An unlisted address reads 0. -/
theorem Mem.read_of_notMem {m : Mem} {a : Nat} (h : ∀ c ∈ m, c.1 ≠ a) : m.read a = 0 := by
  induction m with
  | nil => rfl
  | cons c r ih =>
    obtain ⟨k, x⟩ := c
    have : k ≠ a := h (k, x) List.mem_cons_self
    rw [Mem.read, if_neg this, ih fun z hz => h z (List.mem_cons_of_mem _ hz)]

/-- A write reads back, and no other address changes. -/
theorem Mem.read_write (m : Mem) (a : Nat) (x : Byte) (hm : m.wf = true) (b : Nat) :
    (m.write a x).read b = if b = a then x else m.read b := by
  rw [Mem.wf_iff] at hm
  induction m with
  | nil =>
    unfold Mem.write
    split
    · rename_i hx
      by_cases hb : b = a <;> simp [Mem.read, hx, hb]
    · by_cases hb : b = a
      · simp [Mem.read, hb]
      · simp [Mem.read, hb, show a ≠ b from fun e => hb e.symm]
  | cons c r ih =>
    obtain ⟨k, y⟩ := c
    have hp := List.pairwise_cons.1 hm.1
    have ih := ih ⟨hp.2, fun z hz => hm.2 z (List.mem_cons_of_mem _ hz)⟩
    have rest (n : Nat) (h : n ≤ k) : Mem.read r n = 0 := Mem.read_of_notMem fun z hz => by
      have := hp.1 z hz; simp only at this; omega
    unfold Mem.write
    split
    · rename_i h
      have := rest a (by omega)
      split
      · rename_i hx
        by_cases hb : b = a
        · subst hb; simp [Mem.read, hx, this, show k ≠ b by omega]
        · simp [hb]
      · by_cases hb : b = a
        · simp [Mem.read, hb]
        · simp [Mem.read, hb, show a ≠ b from fun e => hb e.symm]
    · split
      · rename_i h; subst h
        split
        · rename_i hx
          by_cases hb : b = a
          · subst hb; simp [hx, rest b (by omega)]
          · simp [Mem.read, hb, show a ≠ b from fun e => hb e.symm]
        · by_cases hb : b = a
          · simp [Mem.read, hb]
          · simp [Mem.read, hb, show a ≠ b from fun e => hb e.symm]
      · rename_i h1 h2
        rw [Mem.read, Mem.read, ih]
        by_cases hk : k = b
        · subst hk; simp [show k ≠ a from fun e => h2 e.symm]
        · simp [hk]

/-- The cells after a write: the cell written, or one that was there at another address. -/
theorem Mem.mem_write {m : Mem} {a : Nat} {x : Byte} {c : Host.Cell} (h : c ∈ m.write a x) : (c = (a, x) ∧ x ≠ 0) ∨ c ∈ m := by
  induction m with
  | nil => unfold Mem.write at h; split at h <;> simp_all
  | cons d r ih =>
    obtain ⟨k, y⟩ := d
    unfold Mem.write at h
    split at h
    · split at h
      · exact .inr h
      · rcases List.mem_cons.1 h with rfl | h
        · exact .inl ⟨rfl, ‹_›⟩
        · exact .inr h
    · split at h
      · split at h
        · exact .inr (List.mem_cons_of_mem _ h)
        · rcases List.mem_cons.1 h with rfl | h
          · exact .inl ⟨rfl, ‹_›⟩
          · exact .inr (List.mem_cons_of_mem _ h)
      · rcases List.mem_cons.1 h with rfl | h
        · exact .inr List.mem_cons_self
        · exact (ih h).imp id (List.mem_cons_of_mem _)

/-- A write keeps the canonical form. -/
theorem Mem.write_wf (m : Mem) (a : Nat) (x : Byte) (hm : m.wf = true) : (m.write a x).wf = true := by
  rw [Mem.wf_iff] at *
  refine ⟨?_, fun c hc => ?_⟩
  · induction m with
    | nil => unfold Mem.write; split <;> simp
    | cons d r ih =>
      obtain ⟨k, y⟩ := d
      have hp := List.pairwise_cons.1 hm.1
      have ih := ih ⟨hp.2, fun z hz => hm.2 z (List.mem_cons_of_mem _ hz)⟩
      unfold Mem.write
      split
      · rename_i h
        split
        · exact hm.1
        · refine List.pairwise_cons.2 ⟨fun z hz => ?_, hm.1⟩
          rcases List.mem_cons.1 hz with rfl | hz
          · exact h
          · exact Nat.lt_trans h (hp.1 z hz)
      · split
        · rename_i h; subst h
          split
          · exact hp.2
          · exact List.pairwise_cons.2 ⟨fun z hz => hp.1 z hz, hp.2⟩
        · refine List.pairwise_cons.2 ⟨fun z hz => ?_, ih⟩
          rcases Mem.mem_write hz with ⟨rfl, -⟩ | hz
          · simp only; omega
          · exact hp.1 z hz
  · rcases Mem.mem_write hc with ⟨rfl, hx⟩ | hc
    · exact hx
    · exact hm.2 c hc

/-- Storing bytes keeps the canonical form. -/
theorem Mem.store_wf (bs : List Byte) : ∀ (m : Mem) (a : Nat), m.wf = true → (m.store a bs).wf = true := by
  induction bs with
  | nil => intro m a h; exact h
  | cons b bs ih => intro m a h; exact ih _ _ (m.write_wf a b h)

/-- Bytes stored are read back, and every other address is as it was. -/
theorem Mem.read_store (bs : List Byte) : ∀ (m : Mem) (a : Nat), m.wf = true → ∀ b,
    (m.store a bs).read b = if a ≤ b ∧ b < a + bs.length then bs.getD (b - a) 0 else m.read b := by
  induction bs with
  | nil => intro m a _ b; rw [if_neg (by simp only [List.length_nil]; omega)]; rfl
  | cons x bs ih =>
    intro m a h b
    rw [Mem.store, ih _ _ (m.write_wf a x h), List.length_cons]
    by_cases h1 : a + 1 ≤ b ∧ b < a + 1 + bs.length
    · rw [if_pos h1, if_pos (by omega), show b - a = (b - (a + 1)) + 1 by omega, List.getD_cons_succ]
    · rw [if_neg h1, m.read_write a x h]
      by_cases h2 : b = a
      · subst h2; rw [if_pos rfl, if_pos (by omega), Nat.sub_self, List.getD_cons_zero]
      · rw [if_neg h2, if_neg (by omega)]

/-- A section of a canonical memory is canonical. -/
theorem Mem.section_wf (m : Mem) (a n : Nat) (h : m.wf = true) : (m.section a n).wf = true := by
  have h' := (Mem.wf_iff _).1 (Mem.wf_filter (fun c => decide (a ≤ c.1) && decide (c.1 < a + n)) h)
  rw [Mem.section, Mem.wf_iff]
  refine ⟨List.pairwise_map.2 (h'.1.imp_of_mem fun {x y} hx hy hxy => ?_), fun c hc => ?_⟩
  · have := (List.mem_filter.1 hx).2; have := (List.mem_filter.1 hy).2
    simp only [Bool.and_eq_true, decide_eq_true_eq] at *
    omega
  · obtain ⟨d, hd, rfl⟩ := List.mem_map.1 hc
    exact h'.2 d hd

/-- Erasing keeps the canonical form. -/
theorem Mem.erase_wf (m : Mem) (a n : Nat) (h : m.wf = true) : (m.erase a n).wf = true := Mem.wf_filter _ h

/-- Overwriting a span with a canonical section keeps the canonical form. -/
theorem Mem.overwrite_wf (m : Mem) (a n : Nat) (x : Mem) (h : m.wf = true) (hx : x.wf = true) : (m.overwrite a n x).wf = true := by
  rw [Mem.wf_iff] at *
  have e1 : ∀ c ∈ m.filter (fun c => decide (c.1 < a)), c.1 < a := fun c hc => by simpa using (List.mem_filter.1 hc).2
  have e2 : ∀ c ∈ (x.filter fun c => decide (c.1 < n)).map (fun c => (c.1 + a, c.2)), a ≤ c.1 ∧ c.1 < a + n := by
    intro c hc
    obtain ⟨d, hd, rfl⟩ := List.mem_map.1 hc
    have : d.1 < n := by simpa using (List.mem_filter.1 hd).2
    exact ⟨by simp only; omega, by simp only; omega⟩
  have e3 : ∀ c ∈ m.filter (fun c => decide (a + n ≤ c.1)), a + n ≤ c.1 := fun c hc => by simpa using (List.mem_filter.1 hc).2
  refine ⟨List.pairwise_append.2 ⟨List.pairwise_append.2 ⟨h.1.filter _, ?_, fun c hc d hd => ?_⟩, h.1.filter _, fun c hc d hd => ?_⟩,
    fun c hc => ?_⟩
  · exact List.pairwise_map.2 ((hx.1.filter _).imp fun {y z} hyz => by simp only; omega)
  · have := e1 c hc; have := e2 d hd; omega
  · have := e3 d hd
    rcases List.mem_append.1 hc with hc | hc
    · have := e1 c hc; omega
    · have := e2 c hc; omega
  · rcases List.mem_append.1 hc with hc | hc
    · rcases List.mem_append.1 hc with hc | hc
      · exact h.2 c (List.mem_of_mem_filter hc)
      · obtain ⟨d, hd, rfl⟩ := List.mem_map.1 hc
        exact hx.2 d (List.mem_of_mem_filter hd)
    · exact h.2 c (List.mem_of_mem_filter hc)

/-- A listed cell reads as it is listed. -/
theorem Mem.read_of_mem {m : Mem} (h : m.wf = true) {c : Host.Cell} (hc : c ∈ m) : m.read c.1 = c.2 := by
  rw [Mem.wf_iff] at h
  induction m with
  | nil => cases hc
  | cons d r ih =>
    obtain ⟨k, y⟩ := d
    have hp := List.pairwise_cons.1 h.1
    rcases List.mem_cons.1 hc with rfl | hc
    · simp [Mem.read]
    · have : k ≠ c.1 := Nat.ne_of_lt (hp.1 c hc)
      rw [Mem.read, if_neg this]
      exact ih ⟨hp.2, fun z hz => h.2 z (List.mem_cons_of_mem _ hz)⟩ hc

/-- Canonical memories that read alike at every address are the same data. -/
theorem Mem.ext_read {m n : Mem} (hm : m.wf = true) (hn : n.wf = true) (h : ∀ a, m.read a = n.read a) : m = n := by
  have sub {m n : Mem} (hm : m.wf = true) (h : ∀ a, m.read a = n.read a) : ∀ c ∈ m, c ∈ n := by
    intro c hc
    have h1 := Mem.read_of_mem hm hc
    rw [h] at h1
    have h2 : c.2 ≠ 0 := ((Mem.wf_iff m).1 hm).2 c hc
    by_contra hcn
    by_cases hd : ∃ d ∈ n, d.1 = c.1
    · obtain ⟨d, hd, e⟩ := hd
      have : ∀ (l : Mem), l.read c.1 = c.2 → c ∉ l → c.2 ≠ 0 → False := by
        intro l
        induction l with
        | nil => intro h1 _ h2; exact h2 h1.symm
        | cons z r ih =>
          obtain ⟨k, y⟩ := z
          intro h1 hn h2
          rw [Mem.read] at h1
          split at h1
          · rename_i hk
            exact hn (List.mem_cons.2 (.inl (Prod.ext hk.symm h1.symm)))
          · exact ih h1 (fun hr => hn (List.mem_cons_of_mem _ hr)) h2
      exact this n h1 hcn h2
    · rw [Mem.read_of_notMem fun z hz e => hd ⟨z, hz, e⟩] at h1
      exact h2 h1.symm
  have nd (m : Mem) (hm : m.wf = true) : m.Nodup :=
    (((Mem.wf_iff m).1 hm).1).imp fun hxy e => by rw [e] at hxy; exact Nat.lt_irrefl _ hxy
  have hp : m.Perm n := (List.perm_ext_iff_of_nodup (nd m hm) (nd n hn)).2 fun c =>
    ⟨sub hm h c, sub hn (fun a => (h a).symm) c⟩
  refine hp.eq_of_pairwise (le := fun x y : Host.Cell => x.1 < y.1) (fun x y _ _ hxy hyx => absurd hxy (Nat.lt_asymm hyx)) ((Mem.wf_iff m).1 hm).1 ((Mem.wf_iff n).1 hn).1

end Sys2Proof.Machine
end

