-- ==== Sys2Proof/Laws/State.lean ====
section
/-! SUPPORT. What each update of the state leaves as it was: one lemma per field and update, so that no proof unfolds a record
update. -/
namespace Sys2Proof.Machine

/-! ### State.setDev -/

@[simp] theorem State.setDev_cycle (s : State) (a : Nat) (v : Quad) : (s.setDev a v).cycle = s.cycle := rfl
@[simp] theorem State.setDev_tbBase (s : State) (a : Nat) (v : Quad) : (s.setDev a v).tbBase = s.tbBase := rfl
@[simp] theorem State.setDev_uid (s : State) (a : Nat) (v : Quad) : (s.setDev a v).uid = s.uid := rfl
@[simp] theorem State.setDev_drawn (s : State) (a : Nat) (v : Quad) : (s.setDev a v).drawn = s.drawn := rfl
@[simp] theorem State.setDev_agenda (s : State) (a : Nat) (v : Quad) : (s.setDev a v).agenda = s.agenda := rfl
@[simp] theorem State.setDev_cur (s : State) (a : Nat) (v : Quad) : (s.setDev a v).cur = s.cur := rfl
@[simp] theorem State.setDev_waited (s : State) (a : Nat) (v : Quad) : (s.setDev a v).waited = s.waited := rfl
@[simp] theorem State.setDev_mem (s : State) (a : Nat) (v : Quad) : (s.setDev a v).mem = s.mem := rfl
@[simp] theorem State.setDev_ctxs (s : State) (a : Nat) (v : Quad) : (s.setDev a v).ctxs = s.ctxs := rfl
@[simp] theorem State.setDev_crews (s : State) (a : Nat) (v : Quad) : (s.setDev a v).crews = s.crews := rfl
@[simp] theorem State.setDev_rets (s : State) (a : Nat) (v : Quad) : (s.setDev a v).rets = s.rets := rfl
@[simp] theorem State.setDev_l1 (s : State) (a : Nat) (v : Quad) : (s.setDev a v).l1 = s.l1 := rfl
@[simp] theorem State.setDev_icache (s : State) (a : Nat) (v : Quad) : (s.setDev a v).icache = s.icache := rfl
@[simp] theorem State.setDev_qicache (s : State) (a : Nat) (v : Quad) : (s.setDev a v).qicache = s.qicache := rfl
@[simp] theorem State.setDev_tlb (s : State) (a : Nat) (v : Quad) : (s.setDev a v).tlb = s.tlb := rfl
@[simp] theorem State.setDev_merge (s : State) (a : Nat) (v : Quad) : (s.setDev a v).merge = s.merge := rfl
@[simp] theorem State.setDev_prgFree (s : State) (a : Nat) (v : Quad) : (s.setDev a v).prgFree = s.prgFree := rfl
@[simp] theorem State.setDev_priStopped (s : State) (a : Nat) (v : Quad) : (s.setDev a v).priStopped = s.priStopped := rfl
@[simp] theorem State.setDev_priAlloc (s : State) (a : Nat) (v : Quad) : (s.setDev a v).priAlloc = s.priAlloc := rfl
@[simp] theorem State.setDev_hostOut (s : State) (a : Nat) (v : Quad) : (s.setDev a v).hostOut = s.hostOut := rfl
@[simp] theorem State.setDev_inval (s : State) (a : Nat) (v : Quad) : (s.setDev a v).inval = s.inval := rfl
@[simp] theorem State.setDev_mig (s : State) (a : Nat) (v : Quad) : (s.setDev a v).mig = s.mig := rfl
@[simp] theorem State.setDev_chans (s : State) (a : Nat) (v : Quad) : (s.setDev a v).chans = s.chans := rfl
@[simp] theorem State.setDev_lateWrites (s : State) (a : Nat) (v : Quad) : (s.setDev a v).lateWrites = s.lateWrites := rfl
@[simp] theorem State.setDev_ports (s : State) (a : Nat) (v : Quad) : (s.setDev a v).ports = s.ports := rfl
@[simp] theorem State.setDev_routes (s : State) (a : Nat) (v : Quad) : (s.setDev a v).routes = s.routes := rfl
@[simp] theorem State.setDev_ready (s : State) (a : Nat) (v : Quad) : (s.setDev a v).ready = s.ready := rfl
@[simp] theorem State.setDev_holdq (s : State) (a : Nat) (v : Quad) : (s.setDev a v).holdq = s.holdq := rfl
@[simp] theorem State.setDev_fabOut (s : State) (a : Nat) (v : Quad) : (s.setDev a v).fabOut = s.fabOut := rfl
@[simp] theorem State.setDev_tagNext (s : State) (a : Nat) (v : Quad) : (s.setDev a v).tagNext = s.tagNext := rfl
@[simp] theorem State.setDev_gang (s : State) (a : Nat) (v : Quad) : (s.setDev a v).gang = s.gang := rfl
@[simp] theorem State.setDev_queueProg (s : State) (a : Nat) (v : Quad) : (s.setDev a v).queueProg = s.queueProg := rfl
@[simp] theorem State.setDev_due (s : State) (a : Nat) (v : Quad) : (s.setDev a v).due = s.due := rfl
@[simp] theorem State.setDev_served (s : State) (a : Nat) (v : Quad) : (s.setDev a v).served = s.served := rfl
@[simp] theorem State.setDev_sorrel (s : State) (a : Nat) (v : Quad) : (s.setDev a v).sorrel = s.sorrel := rfl
@[simp] theorem State.setDev_nodes (s : State) (a : Nat) (v : Quad) : (s.setDev a v).nodes = s.nodes := rfl
@[simp] theorem State.setDev_launches (s : State) (a : Nat) (v : Quad) : (s.setDev a v).launches = s.launches := rfl
@[simp] theorem State.setDev_nextLaunch (s : State) (a : Nat) (v : Quad) : (s.setDev a v).nextLaunch = s.nextLaunch := rfl
@[simp] theorem State.setDev_disp (s : State) (a : Nat) (v : Quad) : (s.setDev a v).disp = s.disp := rfl
@[simp] theorem State.setDev_startPend (s : State) (a : Nat) (v : Quad) : (s.setDev a v).startPend = s.startPend := rfl
@[simp] theorem State.setDev_tokens (s : State) (a : Nat) (v : Quad) : (s.setDev a v).tokens = s.tokens := rfl
@[simp] theorem State.setDev_ras (s : State) (a : Nat) (v : Quad) : (s.setDev a v).ras = s.ras := rfl
@[simp] theorem State.setDev_plat (s : State) (a : Nat) (v : Quad) : (s.setDev a v).plat = s.plat := rfl

/-! ### State.setHost -/

@[simp] theorem State.setHost_cycle (s : State) (off : Nat) (v : Quad) : (s.setHost off v).cycle = s.cycle := rfl
@[simp] theorem State.setHost_tbBase (s : State) (off : Nat) (v : Quad) : (s.setHost off v).tbBase = s.tbBase := rfl
@[simp] theorem State.setHost_uid (s : State) (off : Nat) (v : Quad) : (s.setHost off v).uid = s.uid := rfl
@[simp] theorem State.setHost_drawn (s : State) (off : Nat) (v : Quad) : (s.setHost off v).drawn = s.drawn := rfl
@[simp] theorem State.setHost_agenda (s : State) (off : Nat) (v : Quad) : (s.setHost off v).agenda = s.agenda := rfl
@[simp] theorem State.setHost_cur (s : State) (off : Nat) (v : Quad) : (s.setHost off v).cur = s.cur := rfl
@[simp] theorem State.setHost_waited (s : State) (off : Nat) (v : Quad) : (s.setHost off v).waited = s.waited := rfl
@[simp] theorem State.setHost_mem (s : State) (off : Nat) (v : Quad) : (s.setHost off v).mem = s.mem := rfl
@[simp] theorem State.setHost_ctxs (s : State) (off : Nat) (v : Quad) : (s.setHost off v).ctxs = s.ctxs := rfl
@[simp] theorem State.setHost_crews (s : State) (off : Nat) (v : Quad) : (s.setHost off v).crews = s.crews := rfl
@[simp] theorem State.setHost_rets (s : State) (off : Nat) (v : Quad) : (s.setHost off v).rets = s.rets := rfl
@[simp] theorem State.setHost_l1 (s : State) (off : Nat) (v : Quad) : (s.setHost off v).l1 = s.l1 := rfl
@[simp] theorem State.setHost_icache (s : State) (off : Nat) (v : Quad) : (s.setHost off v).icache = s.icache := rfl
@[simp] theorem State.setHost_qicache (s : State) (off : Nat) (v : Quad) : (s.setHost off v).qicache = s.qicache := rfl
@[simp] theorem State.setHost_tlb (s : State) (off : Nat) (v : Quad) : (s.setHost off v).tlb = s.tlb := rfl
@[simp] theorem State.setHost_merge (s : State) (off : Nat) (v : Quad) : (s.setHost off v).merge = s.merge := rfl
@[simp] theorem State.setHost_prgFree (s : State) (off : Nat) (v : Quad) : (s.setHost off v).prgFree = s.prgFree := rfl
@[simp] theorem State.setHost_priStopped (s : State) (off : Nat) (v : Quad) : (s.setHost off v).priStopped = s.priStopped := rfl
@[simp] theorem State.setHost_priAlloc (s : State) (off : Nat) (v : Quad) : (s.setHost off v).priAlloc = s.priAlloc := rfl
@[simp] theorem State.setHost_hostOut (s : State) (off : Nat) (v : Quad) : (s.setHost off v).hostOut = s.hostOut := rfl
@[simp] theorem State.setHost_inval (s : State) (off : Nat) (v : Quad) : (s.setHost off v).inval = s.inval := rfl
@[simp] theorem State.setHost_mig (s : State) (off : Nat) (v : Quad) : (s.setHost off v).mig = s.mig := rfl
@[simp] theorem State.setHost_chans (s : State) (off : Nat) (v : Quad) : (s.setHost off v).chans = s.chans := rfl
@[simp] theorem State.setHost_lateWrites (s : State) (off : Nat) (v : Quad) : (s.setHost off v).lateWrites = s.lateWrites := rfl
@[simp] theorem State.setHost_ports (s : State) (off : Nat) (v : Quad) : (s.setHost off v).ports = s.ports := rfl
@[simp] theorem State.setHost_routes (s : State) (off : Nat) (v : Quad) : (s.setHost off v).routes = s.routes := rfl
@[simp] theorem State.setHost_ready (s : State) (off : Nat) (v : Quad) : (s.setHost off v).ready = s.ready := rfl
@[simp] theorem State.setHost_holdq (s : State) (off : Nat) (v : Quad) : (s.setHost off v).holdq = s.holdq := rfl
@[simp] theorem State.setHost_fabOut (s : State) (off : Nat) (v : Quad) : (s.setHost off v).fabOut = s.fabOut := rfl
@[simp] theorem State.setHost_tagNext (s : State) (off : Nat) (v : Quad) : (s.setHost off v).tagNext = s.tagNext := rfl
@[simp] theorem State.setHost_gang (s : State) (off : Nat) (v : Quad) : (s.setHost off v).gang = s.gang := rfl
@[simp] theorem State.setHost_queueProg (s : State) (off : Nat) (v : Quad) : (s.setHost off v).queueProg = s.queueProg := rfl
@[simp] theorem State.setHost_due (s : State) (off : Nat) (v : Quad) : (s.setHost off v).due = s.due := rfl
@[simp] theorem State.setHost_served (s : State) (off : Nat) (v : Quad) : (s.setHost off v).served = s.served := rfl
@[simp] theorem State.setHost_sorrel (s : State) (off : Nat) (v : Quad) : (s.setHost off v).sorrel = s.sorrel := rfl
@[simp] theorem State.setHost_nodes (s : State) (off : Nat) (v : Quad) : (s.setHost off v).nodes = s.nodes := rfl
@[simp] theorem State.setHost_launches (s : State) (off : Nat) (v : Quad) : (s.setHost off v).launches = s.launches := rfl
@[simp] theorem State.setHost_nextLaunch (s : State) (off : Nat) (v : Quad) : (s.setHost off v).nextLaunch = s.nextLaunch := rfl
@[simp] theorem State.setHost_disp (s : State) (off : Nat) (v : Quad) : (s.setHost off v).disp = s.disp := rfl
@[simp] theorem State.setHost_startPend (s : State) (off : Nat) (v : Quad) : (s.setHost off v).startPend = s.startPend := rfl
@[simp] theorem State.setHost_tokens (s : State) (off : Nat) (v : Quad) : (s.setHost off v).tokens = s.tokens := rfl
@[simp] theorem State.setHost_ras (s : State) (off : Nat) (v : Quad) : (s.setHost off v).ras = s.ras := rfl
@[simp] theorem State.setHost_plat (s : State) (off : Nat) (v : Quad) : (s.setHost off v).plat = s.plat := rfl

/-! ### State.setHostF -/

@[simp] theorem State.setHostF_cycle (s : State) (off hi lo v : Nat) : (s.setHostF off hi lo v).cycle = s.cycle := rfl
@[simp] theorem State.setHostF_tbBase (s : State) (off hi lo v : Nat) : (s.setHostF off hi lo v).tbBase = s.tbBase := rfl
@[simp] theorem State.setHostF_uid (s : State) (off hi lo v : Nat) : (s.setHostF off hi lo v).uid = s.uid := rfl
@[simp] theorem State.setHostF_drawn (s : State) (off hi lo v : Nat) : (s.setHostF off hi lo v).drawn = s.drawn := rfl
@[simp] theorem State.setHostF_agenda (s : State) (off hi lo v : Nat) : (s.setHostF off hi lo v).agenda = s.agenda := rfl
@[simp] theorem State.setHostF_cur (s : State) (off hi lo v : Nat) : (s.setHostF off hi lo v).cur = s.cur := rfl
@[simp] theorem State.setHostF_waited (s : State) (off hi lo v : Nat) : (s.setHostF off hi lo v).waited = s.waited := rfl
@[simp] theorem State.setHostF_mem (s : State) (off hi lo v : Nat) : (s.setHostF off hi lo v).mem = s.mem := rfl
@[simp] theorem State.setHostF_ctxs (s : State) (off hi lo v : Nat) : (s.setHostF off hi lo v).ctxs = s.ctxs := rfl
@[simp] theorem State.setHostF_crews (s : State) (off hi lo v : Nat) : (s.setHostF off hi lo v).crews = s.crews := rfl
@[simp] theorem State.setHostF_rets (s : State) (off hi lo v : Nat) : (s.setHostF off hi lo v).rets = s.rets := rfl
@[simp] theorem State.setHostF_l1 (s : State) (off hi lo v : Nat) : (s.setHostF off hi lo v).l1 = s.l1 := rfl
@[simp] theorem State.setHostF_icache (s : State) (off hi lo v : Nat) : (s.setHostF off hi lo v).icache = s.icache := rfl
@[simp] theorem State.setHostF_qicache (s : State) (off hi lo v : Nat) : (s.setHostF off hi lo v).qicache = s.qicache := rfl
@[simp] theorem State.setHostF_tlb (s : State) (off hi lo v : Nat) : (s.setHostF off hi lo v).tlb = s.tlb := rfl
@[simp] theorem State.setHostF_merge (s : State) (off hi lo v : Nat) : (s.setHostF off hi lo v).merge = s.merge := rfl
@[simp] theorem State.setHostF_prgFree (s : State) (off hi lo v : Nat) : (s.setHostF off hi lo v).prgFree = s.prgFree := rfl
@[simp] theorem State.setHostF_priStopped (s : State) (off hi lo v : Nat) : (s.setHostF off hi lo v).priStopped = s.priStopped := rfl
@[simp] theorem State.setHostF_priAlloc (s : State) (off hi lo v : Nat) : (s.setHostF off hi lo v).priAlloc = s.priAlloc := rfl
@[simp] theorem State.setHostF_hostOut (s : State) (off hi lo v : Nat) : (s.setHostF off hi lo v).hostOut = s.hostOut := rfl
@[simp] theorem State.setHostF_inval (s : State) (off hi lo v : Nat) : (s.setHostF off hi lo v).inval = s.inval := rfl
@[simp] theorem State.setHostF_mig (s : State) (off hi lo v : Nat) : (s.setHostF off hi lo v).mig = s.mig := rfl
@[simp] theorem State.setHostF_chans (s : State) (off hi lo v : Nat) : (s.setHostF off hi lo v).chans = s.chans := rfl
@[simp] theorem State.setHostF_lateWrites (s : State) (off hi lo v : Nat) : (s.setHostF off hi lo v).lateWrites = s.lateWrites := rfl
@[simp] theorem State.setHostF_ports (s : State) (off hi lo v : Nat) : (s.setHostF off hi lo v).ports = s.ports := rfl
@[simp] theorem State.setHostF_routes (s : State) (off hi lo v : Nat) : (s.setHostF off hi lo v).routes = s.routes := rfl
@[simp] theorem State.setHostF_ready (s : State) (off hi lo v : Nat) : (s.setHostF off hi lo v).ready = s.ready := rfl
@[simp] theorem State.setHostF_holdq (s : State) (off hi lo v : Nat) : (s.setHostF off hi lo v).holdq = s.holdq := rfl
@[simp] theorem State.setHostF_fabOut (s : State) (off hi lo v : Nat) : (s.setHostF off hi lo v).fabOut = s.fabOut := rfl
@[simp] theorem State.setHostF_tagNext (s : State) (off hi lo v : Nat) : (s.setHostF off hi lo v).tagNext = s.tagNext := rfl
@[simp] theorem State.setHostF_gang (s : State) (off hi lo v : Nat) : (s.setHostF off hi lo v).gang = s.gang := rfl
@[simp] theorem State.setHostF_queueProg (s : State) (off hi lo v : Nat) : (s.setHostF off hi lo v).queueProg = s.queueProg := rfl
@[simp] theorem State.setHostF_due (s : State) (off hi lo v : Nat) : (s.setHostF off hi lo v).due = s.due := rfl
@[simp] theorem State.setHostF_served (s : State) (off hi lo v : Nat) : (s.setHostF off hi lo v).served = s.served := rfl
@[simp] theorem State.setHostF_sorrel (s : State) (off hi lo v : Nat) : (s.setHostF off hi lo v).sorrel = s.sorrel := rfl
@[simp] theorem State.setHostF_nodes (s : State) (off hi lo v : Nat) : (s.setHostF off hi lo v).nodes = s.nodes := rfl
@[simp] theorem State.setHostF_launches (s : State) (off hi lo v : Nat) : (s.setHostF off hi lo v).launches = s.launches := rfl
@[simp] theorem State.setHostF_nextLaunch (s : State) (off hi lo v : Nat) : (s.setHostF off hi lo v).nextLaunch = s.nextLaunch := rfl
@[simp] theorem State.setHostF_disp (s : State) (off hi lo v : Nat) : (s.setHostF off hi lo v).disp = s.disp := rfl
@[simp] theorem State.setHostF_startPend (s : State) (off hi lo v : Nat) : (s.setHostF off hi lo v).startPend = s.startPend := rfl
@[simp] theorem State.setHostF_tokens (s : State) (off hi lo v : Nat) : (s.setHostF off hi lo v).tokens = s.tokens := rfl
@[simp] theorem State.setHostF_ras (s : State) (off hi lo v : Nat) : (s.setHostF off hi lo v).ras = s.ras := rfl
@[simp] theorem State.setHostF_plat (s : State) (off hi lo v : Nat) : (s.setHostF off hi lo v).plat = s.plat := rfl

/-! ### State.setCtx -/

@[simp] theorem State.setCtx_cycle (s : State) (x : Ctx) : (s.setCtx x).cycle = s.cycle := rfl
@[simp] theorem State.setCtx_tbBase (s : State) (x : Ctx) : (s.setCtx x).tbBase = s.tbBase := rfl
@[simp] theorem State.setCtx_uid (s : State) (x : Ctx) : (s.setCtx x).uid = s.uid := rfl
@[simp] theorem State.setCtx_drawn (s : State) (x : Ctx) : (s.setCtx x).drawn = s.drawn := rfl
@[simp] theorem State.setCtx_agenda (s : State) (x : Ctx) : (s.setCtx x).agenda = s.agenda := rfl
@[simp] theorem State.setCtx_cur (s : State) (x : Ctx) : (s.setCtx x).cur = s.cur := rfl
@[simp] theorem State.setCtx_waited (s : State) (x : Ctx) : (s.setCtx x).waited = s.waited := rfl
@[simp] theorem State.setCtx_mem (s : State) (x : Ctx) : (s.setCtx x).mem = s.mem := rfl
@[simp] theorem State.setCtx_dev (s : State) (x : Ctx) : (s.setCtx x).dev = s.dev := rfl
@[simp] theorem State.setCtx_crews (s : State) (x : Ctx) : (s.setCtx x).crews = s.crews := rfl
@[simp] theorem State.setCtx_rets (s : State) (x : Ctx) : (s.setCtx x).rets = s.rets := rfl
@[simp] theorem State.setCtx_l1 (s : State) (x : Ctx) : (s.setCtx x).l1 = s.l1 := rfl
@[simp] theorem State.setCtx_icache (s : State) (x : Ctx) : (s.setCtx x).icache = s.icache := rfl
@[simp] theorem State.setCtx_qicache (s : State) (x : Ctx) : (s.setCtx x).qicache = s.qicache := rfl
@[simp] theorem State.setCtx_tlb (s : State) (x : Ctx) : (s.setCtx x).tlb = s.tlb := rfl
@[simp] theorem State.setCtx_merge (s : State) (x : Ctx) : (s.setCtx x).merge = s.merge := rfl
@[simp] theorem State.setCtx_prgFree (s : State) (x : Ctx) : (s.setCtx x).prgFree = s.prgFree := rfl
@[simp] theorem State.setCtx_priStopped (s : State) (x : Ctx) : (s.setCtx x).priStopped = s.priStopped := rfl
@[simp] theorem State.setCtx_priAlloc (s : State) (x : Ctx) : (s.setCtx x).priAlloc = s.priAlloc := rfl
@[simp] theorem State.setCtx_hostOut (s : State) (x : Ctx) : (s.setCtx x).hostOut = s.hostOut := rfl
@[simp] theorem State.setCtx_inval (s : State) (x : Ctx) : (s.setCtx x).inval = s.inval := rfl
@[simp] theorem State.setCtx_mig (s : State) (x : Ctx) : (s.setCtx x).mig = s.mig := rfl
@[simp] theorem State.setCtx_chans (s : State) (x : Ctx) : (s.setCtx x).chans = s.chans := rfl
@[simp] theorem State.setCtx_lateWrites (s : State) (x : Ctx) : (s.setCtx x).lateWrites = s.lateWrites := rfl
@[simp] theorem State.setCtx_ports (s : State) (x : Ctx) : (s.setCtx x).ports = s.ports := rfl
@[simp] theorem State.setCtx_routes (s : State) (x : Ctx) : (s.setCtx x).routes = s.routes := rfl
@[simp] theorem State.setCtx_ready (s : State) (x : Ctx) : (s.setCtx x).ready = s.ready := rfl
@[simp] theorem State.setCtx_holdq (s : State) (x : Ctx) : (s.setCtx x).holdq = s.holdq := rfl
@[simp] theorem State.setCtx_fabOut (s : State) (x : Ctx) : (s.setCtx x).fabOut = s.fabOut := rfl
@[simp] theorem State.setCtx_tagNext (s : State) (x : Ctx) : (s.setCtx x).tagNext = s.tagNext := rfl
@[simp] theorem State.setCtx_gang (s : State) (x : Ctx) : (s.setCtx x).gang = s.gang := rfl
@[simp] theorem State.setCtx_queueProg (s : State) (x : Ctx) : (s.setCtx x).queueProg = s.queueProg := rfl
@[simp] theorem State.setCtx_due (s : State) (x : Ctx) : (s.setCtx x).due = s.due := rfl
@[simp] theorem State.setCtx_served (s : State) (x : Ctx) : (s.setCtx x).served = s.served := rfl
@[simp] theorem State.setCtx_sorrel (s : State) (x : Ctx) : (s.setCtx x).sorrel = s.sorrel := rfl
@[simp] theorem State.setCtx_nodes (s : State) (x : Ctx) : (s.setCtx x).nodes = s.nodes := rfl
@[simp] theorem State.setCtx_launches (s : State) (x : Ctx) : (s.setCtx x).launches = s.launches := rfl
@[simp] theorem State.setCtx_nextLaunch (s : State) (x : Ctx) : (s.setCtx x).nextLaunch = s.nextLaunch := rfl
@[simp] theorem State.setCtx_disp (s : State) (x : Ctx) : (s.setCtx x).disp = s.disp := rfl
@[simp] theorem State.setCtx_startPend (s : State) (x : Ctx) : (s.setCtx x).startPend = s.startPend := rfl
@[simp] theorem State.setCtx_tokens (s : State) (x : Ctx) : (s.setCtx x).tokens = s.tokens := rfl
@[simp] theorem State.setCtx_ras (s : State) (x : Ctx) : (s.setCtx x).ras = s.ras := rfl
@[simp] theorem State.setCtx_plat (s : State) (x : Ctx) : (s.setCtx x).plat = s.plat := rfl

/-! ### State.modCtx -/

@[simp] theorem State.modCtx_cycle (s : State) (n : Nat) (g : Ctx → Ctx) : (s.modCtx n g).cycle = s.cycle := rfl
@[simp] theorem State.modCtx_tbBase (s : State) (n : Nat) (g : Ctx → Ctx) : (s.modCtx n g).tbBase = s.tbBase := rfl
@[simp] theorem State.modCtx_uid (s : State) (n : Nat) (g : Ctx → Ctx) : (s.modCtx n g).uid = s.uid := rfl
@[simp] theorem State.modCtx_drawn (s : State) (n : Nat) (g : Ctx → Ctx) : (s.modCtx n g).drawn = s.drawn := rfl
@[simp] theorem State.modCtx_agenda (s : State) (n : Nat) (g : Ctx → Ctx) : (s.modCtx n g).agenda = s.agenda := rfl
@[simp] theorem State.modCtx_cur (s : State) (n : Nat) (g : Ctx → Ctx) : (s.modCtx n g).cur = s.cur := rfl
@[simp] theorem State.modCtx_waited (s : State) (n : Nat) (g : Ctx → Ctx) : (s.modCtx n g).waited = s.waited := rfl
@[simp] theorem State.modCtx_mem (s : State) (n : Nat) (g : Ctx → Ctx) : (s.modCtx n g).mem = s.mem := rfl
@[simp] theorem State.modCtx_dev (s : State) (n : Nat) (g : Ctx → Ctx) : (s.modCtx n g).dev = s.dev := rfl
@[simp] theorem State.modCtx_crews (s : State) (n : Nat) (g : Ctx → Ctx) : (s.modCtx n g).crews = s.crews := rfl
@[simp] theorem State.modCtx_rets (s : State) (n : Nat) (g : Ctx → Ctx) : (s.modCtx n g).rets = s.rets := rfl
@[simp] theorem State.modCtx_l1 (s : State) (n : Nat) (g : Ctx → Ctx) : (s.modCtx n g).l1 = s.l1 := rfl
@[simp] theorem State.modCtx_icache (s : State) (n : Nat) (g : Ctx → Ctx) : (s.modCtx n g).icache = s.icache := rfl
@[simp] theorem State.modCtx_qicache (s : State) (n : Nat) (g : Ctx → Ctx) : (s.modCtx n g).qicache = s.qicache := rfl
@[simp] theorem State.modCtx_tlb (s : State) (n : Nat) (g : Ctx → Ctx) : (s.modCtx n g).tlb = s.tlb := rfl
@[simp] theorem State.modCtx_merge (s : State) (n : Nat) (g : Ctx → Ctx) : (s.modCtx n g).merge = s.merge := rfl
@[simp] theorem State.modCtx_prgFree (s : State) (n : Nat) (g : Ctx → Ctx) : (s.modCtx n g).prgFree = s.prgFree := rfl
@[simp] theorem State.modCtx_priStopped (s : State) (n : Nat) (g : Ctx → Ctx) : (s.modCtx n g).priStopped = s.priStopped := rfl
@[simp] theorem State.modCtx_priAlloc (s : State) (n : Nat) (g : Ctx → Ctx) : (s.modCtx n g).priAlloc = s.priAlloc := rfl
@[simp] theorem State.modCtx_hostOut (s : State) (n : Nat) (g : Ctx → Ctx) : (s.modCtx n g).hostOut = s.hostOut := rfl
@[simp] theorem State.modCtx_inval (s : State) (n : Nat) (g : Ctx → Ctx) : (s.modCtx n g).inval = s.inval := rfl
@[simp] theorem State.modCtx_mig (s : State) (n : Nat) (g : Ctx → Ctx) : (s.modCtx n g).mig = s.mig := rfl
@[simp] theorem State.modCtx_chans (s : State) (n : Nat) (g : Ctx → Ctx) : (s.modCtx n g).chans = s.chans := rfl
@[simp] theorem State.modCtx_lateWrites (s : State) (n : Nat) (g : Ctx → Ctx) : (s.modCtx n g).lateWrites = s.lateWrites := rfl
@[simp] theorem State.modCtx_ports (s : State) (n : Nat) (g : Ctx → Ctx) : (s.modCtx n g).ports = s.ports := rfl
@[simp] theorem State.modCtx_routes (s : State) (n : Nat) (g : Ctx → Ctx) : (s.modCtx n g).routes = s.routes := rfl
@[simp] theorem State.modCtx_ready (s : State) (n : Nat) (g : Ctx → Ctx) : (s.modCtx n g).ready = s.ready := rfl
@[simp] theorem State.modCtx_holdq (s : State) (n : Nat) (g : Ctx → Ctx) : (s.modCtx n g).holdq = s.holdq := rfl
@[simp] theorem State.modCtx_fabOut (s : State) (n : Nat) (g : Ctx → Ctx) : (s.modCtx n g).fabOut = s.fabOut := rfl
@[simp] theorem State.modCtx_tagNext (s : State) (n : Nat) (g : Ctx → Ctx) : (s.modCtx n g).tagNext = s.tagNext := rfl
@[simp] theorem State.modCtx_gang (s : State) (n : Nat) (g : Ctx → Ctx) : (s.modCtx n g).gang = s.gang := rfl
@[simp] theorem State.modCtx_queueProg (s : State) (n : Nat) (g : Ctx → Ctx) : (s.modCtx n g).queueProg = s.queueProg := rfl
@[simp] theorem State.modCtx_due (s : State) (n : Nat) (g : Ctx → Ctx) : (s.modCtx n g).due = s.due := rfl
@[simp] theorem State.modCtx_served (s : State) (n : Nat) (g : Ctx → Ctx) : (s.modCtx n g).served = s.served := rfl
@[simp] theorem State.modCtx_sorrel (s : State) (n : Nat) (g : Ctx → Ctx) : (s.modCtx n g).sorrel = s.sorrel := rfl
@[simp] theorem State.modCtx_nodes (s : State) (n : Nat) (g : Ctx → Ctx) : (s.modCtx n g).nodes = s.nodes := rfl
@[simp] theorem State.modCtx_launches (s : State) (n : Nat) (g : Ctx → Ctx) : (s.modCtx n g).launches = s.launches := rfl
@[simp] theorem State.modCtx_nextLaunch (s : State) (n : Nat) (g : Ctx → Ctx) : (s.modCtx n g).nextLaunch = s.nextLaunch := rfl
@[simp] theorem State.modCtx_disp (s : State) (n : Nat) (g : Ctx → Ctx) : (s.modCtx n g).disp = s.disp := rfl
@[simp] theorem State.modCtx_startPend (s : State) (n : Nat) (g : Ctx → Ctx) : (s.modCtx n g).startPend = s.startPend := rfl
@[simp] theorem State.modCtx_tokens (s : State) (n : Nat) (g : Ctx → Ctx) : (s.modCtx n g).tokens = s.tokens := rfl
@[simp] theorem State.modCtx_ras (s : State) (n : Nat) (g : Ctx → Ctx) : (s.modCtx n g).ras = s.ras := rfl
@[simp] theorem State.modCtx_plat (s : State) (n : Nat) (g : Ctx → Ctx) : (s.modCtx n g).plat = s.plat := rfl

/-! ### State.setCrew -/

@[simp] theorem State.setCrew_cycle (s : State) (c : Crew) : (s.setCrew c).cycle = s.cycle := rfl
@[simp] theorem State.setCrew_tbBase (s : State) (c : Crew) : (s.setCrew c).tbBase = s.tbBase := rfl
@[simp] theorem State.setCrew_uid (s : State) (c : Crew) : (s.setCrew c).uid = s.uid := rfl
@[simp] theorem State.setCrew_drawn (s : State) (c : Crew) : (s.setCrew c).drawn = s.drawn := rfl
@[simp] theorem State.setCrew_agenda (s : State) (c : Crew) : (s.setCrew c).agenda = s.agenda := rfl
@[simp] theorem State.setCrew_cur (s : State) (c : Crew) : (s.setCrew c).cur = s.cur := rfl
@[simp] theorem State.setCrew_waited (s : State) (c : Crew) : (s.setCrew c).waited = s.waited := rfl
@[simp] theorem State.setCrew_mem (s : State) (c : Crew) : (s.setCrew c).mem = s.mem := rfl
@[simp] theorem State.setCrew_dev (s : State) (c : Crew) : (s.setCrew c).dev = s.dev := rfl
@[simp] theorem State.setCrew_ctxs (s : State) (c : Crew) : (s.setCrew c).ctxs = s.ctxs := rfl
@[simp] theorem State.setCrew_rets (s : State) (c : Crew) : (s.setCrew c).rets = s.rets := rfl
@[simp] theorem State.setCrew_l1 (s : State) (c : Crew) : (s.setCrew c).l1 = s.l1 := rfl
@[simp] theorem State.setCrew_icache (s : State) (c : Crew) : (s.setCrew c).icache = s.icache := rfl
@[simp] theorem State.setCrew_qicache (s : State) (c : Crew) : (s.setCrew c).qicache = s.qicache := rfl
@[simp] theorem State.setCrew_tlb (s : State) (c : Crew) : (s.setCrew c).tlb = s.tlb := rfl
@[simp] theorem State.setCrew_merge (s : State) (c : Crew) : (s.setCrew c).merge = s.merge := rfl
@[simp] theorem State.setCrew_prgFree (s : State) (c : Crew) : (s.setCrew c).prgFree = s.prgFree := rfl
@[simp] theorem State.setCrew_priStopped (s : State) (c : Crew) : (s.setCrew c).priStopped = s.priStopped := rfl
@[simp] theorem State.setCrew_priAlloc (s : State) (c : Crew) : (s.setCrew c).priAlloc = s.priAlloc := rfl
@[simp] theorem State.setCrew_hostOut (s : State) (c : Crew) : (s.setCrew c).hostOut = s.hostOut := rfl
@[simp] theorem State.setCrew_inval (s : State) (c : Crew) : (s.setCrew c).inval = s.inval := rfl
@[simp] theorem State.setCrew_mig (s : State) (c : Crew) : (s.setCrew c).mig = s.mig := rfl
@[simp] theorem State.setCrew_chans (s : State) (c : Crew) : (s.setCrew c).chans = s.chans := rfl
@[simp] theorem State.setCrew_lateWrites (s : State) (c : Crew) : (s.setCrew c).lateWrites = s.lateWrites := rfl
@[simp] theorem State.setCrew_ports (s : State) (c : Crew) : (s.setCrew c).ports = s.ports := rfl
@[simp] theorem State.setCrew_routes (s : State) (c : Crew) : (s.setCrew c).routes = s.routes := rfl
@[simp] theorem State.setCrew_ready (s : State) (c : Crew) : (s.setCrew c).ready = s.ready := rfl
@[simp] theorem State.setCrew_holdq (s : State) (c : Crew) : (s.setCrew c).holdq = s.holdq := rfl
@[simp] theorem State.setCrew_fabOut (s : State) (c : Crew) : (s.setCrew c).fabOut = s.fabOut := rfl
@[simp] theorem State.setCrew_tagNext (s : State) (c : Crew) : (s.setCrew c).tagNext = s.tagNext := rfl
@[simp] theorem State.setCrew_gang (s : State) (c : Crew) : (s.setCrew c).gang = s.gang := rfl
@[simp] theorem State.setCrew_queueProg (s : State) (c : Crew) : (s.setCrew c).queueProg = s.queueProg := rfl
@[simp] theorem State.setCrew_due (s : State) (c : Crew) : (s.setCrew c).due = s.due := rfl
@[simp] theorem State.setCrew_served (s : State) (c : Crew) : (s.setCrew c).served = s.served := rfl
@[simp] theorem State.setCrew_sorrel (s : State) (c : Crew) : (s.setCrew c).sorrel = s.sorrel := rfl
@[simp] theorem State.setCrew_nodes (s : State) (c : Crew) : (s.setCrew c).nodes = s.nodes := rfl
@[simp] theorem State.setCrew_launches (s : State) (c : Crew) : (s.setCrew c).launches = s.launches := rfl
@[simp] theorem State.setCrew_nextLaunch (s : State) (c : Crew) : (s.setCrew c).nextLaunch = s.nextLaunch := rfl
@[simp] theorem State.setCrew_disp (s : State) (c : Crew) : (s.setCrew c).disp = s.disp := rfl
@[simp] theorem State.setCrew_startPend (s : State) (c : Crew) : (s.setCrew c).startPend = s.startPend := rfl
@[simp] theorem State.setCrew_tokens (s : State) (c : Crew) : (s.setCrew c).tokens = s.tokens := rfl
@[simp] theorem State.setCrew_ras (s : State) (c : Crew) : (s.setCrew c).ras = s.ras := rfl
@[simp] theorem State.setCrew_plat (s : State) (c : Crew) : (s.setCrew c).plat = s.plat := rfl

/-! ### State.modCrew -/

@[simp] theorem State.modCrew_cycle (s : State) (id : Nat) (g : Crew → Crew) : (s.modCrew id g).cycle = s.cycle := rfl
@[simp] theorem State.modCrew_tbBase (s : State) (id : Nat) (g : Crew → Crew) : (s.modCrew id g).tbBase = s.tbBase := rfl
@[simp] theorem State.modCrew_uid (s : State) (id : Nat) (g : Crew → Crew) : (s.modCrew id g).uid = s.uid := rfl
@[simp] theorem State.modCrew_drawn (s : State) (id : Nat) (g : Crew → Crew) : (s.modCrew id g).drawn = s.drawn := rfl
@[simp] theorem State.modCrew_agenda (s : State) (id : Nat) (g : Crew → Crew) : (s.modCrew id g).agenda = s.agenda := rfl
@[simp] theorem State.modCrew_cur (s : State) (id : Nat) (g : Crew → Crew) : (s.modCrew id g).cur = s.cur := rfl
@[simp] theorem State.modCrew_waited (s : State) (id : Nat) (g : Crew → Crew) : (s.modCrew id g).waited = s.waited := rfl
@[simp] theorem State.modCrew_mem (s : State) (id : Nat) (g : Crew → Crew) : (s.modCrew id g).mem = s.mem := rfl
@[simp] theorem State.modCrew_dev (s : State) (id : Nat) (g : Crew → Crew) : (s.modCrew id g).dev = s.dev := rfl
@[simp] theorem State.modCrew_ctxs (s : State) (id : Nat) (g : Crew → Crew) : (s.modCrew id g).ctxs = s.ctxs := rfl
@[simp] theorem State.modCrew_rets (s : State) (id : Nat) (g : Crew → Crew) : (s.modCrew id g).rets = s.rets := rfl
@[simp] theorem State.modCrew_l1 (s : State) (id : Nat) (g : Crew → Crew) : (s.modCrew id g).l1 = s.l1 := rfl
@[simp] theorem State.modCrew_icache (s : State) (id : Nat) (g : Crew → Crew) : (s.modCrew id g).icache = s.icache := rfl
@[simp] theorem State.modCrew_qicache (s : State) (id : Nat) (g : Crew → Crew) : (s.modCrew id g).qicache = s.qicache := rfl
@[simp] theorem State.modCrew_tlb (s : State) (id : Nat) (g : Crew → Crew) : (s.modCrew id g).tlb = s.tlb := rfl
@[simp] theorem State.modCrew_merge (s : State) (id : Nat) (g : Crew → Crew) : (s.modCrew id g).merge = s.merge := rfl
@[simp] theorem State.modCrew_prgFree (s : State) (id : Nat) (g : Crew → Crew) : (s.modCrew id g).prgFree = s.prgFree := rfl
@[simp] theorem State.modCrew_priStopped (s : State) (id : Nat) (g : Crew → Crew) : (s.modCrew id g).priStopped = s.priStopped := rfl
@[simp] theorem State.modCrew_priAlloc (s : State) (id : Nat) (g : Crew → Crew) : (s.modCrew id g).priAlloc = s.priAlloc := rfl
@[simp] theorem State.modCrew_hostOut (s : State) (id : Nat) (g : Crew → Crew) : (s.modCrew id g).hostOut = s.hostOut := rfl
@[simp] theorem State.modCrew_inval (s : State) (id : Nat) (g : Crew → Crew) : (s.modCrew id g).inval = s.inval := rfl
@[simp] theorem State.modCrew_mig (s : State) (id : Nat) (g : Crew → Crew) : (s.modCrew id g).mig = s.mig := rfl
@[simp] theorem State.modCrew_chans (s : State) (id : Nat) (g : Crew → Crew) : (s.modCrew id g).chans = s.chans := rfl
@[simp] theorem State.modCrew_lateWrites (s : State) (id : Nat) (g : Crew → Crew) : (s.modCrew id g).lateWrites = s.lateWrites := rfl
@[simp] theorem State.modCrew_ports (s : State) (id : Nat) (g : Crew → Crew) : (s.modCrew id g).ports = s.ports := rfl
@[simp] theorem State.modCrew_routes (s : State) (id : Nat) (g : Crew → Crew) : (s.modCrew id g).routes = s.routes := rfl
@[simp] theorem State.modCrew_ready (s : State) (id : Nat) (g : Crew → Crew) : (s.modCrew id g).ready = s.ready := rfl
@[simp] theorem State.modCrew_holdq (s : State) (id : Nat) (g : Crew → Crew) : (s.modCrew id g).holdq = s.holdq := rfl
@[simp] theorem State.modCrew_fabOut (s : State) (id : Nat) (g : Crew → Crew) : (s.modCrew id g).fabOut = s.fabOut := rfl
@[simp] theorem State.modCrew_tagNext (s : State) (id : Nat) (g : Crew → Crew) : (s.modCrew id g).tagNext = s.tagNext := rfl
@[simp] theorem State.modCrew_gang (s : State) (id : Nat) (g : Crew → Crew) : (s.modCrew id g).gang = s.gang := rfl
@[simp] theorem State.modCrew_queueProg (s : State) (id : Nat) (g : Crew → Crew) : (s.modCrew id g).queueProg = s.queueProg := rfl
@[simp] theorem State.modCrew_due (s : State) (id : Nat) (g : Crew → Crew) : (s.modCrew id g).due = s.due := rfl
@[simp] theorem State.modCrew_served (s : State) (id : Nat) (g : Crew → Crew) : (s.modCrew id g).served = s.served := rfl
@[simp] theorem State.modCrew_sorrel (s : State) (id : Nat) (g : Crew → Crew) : (s.modCrew id g).sorrel = s.sorrel := rfl
@[simp] theorem State.modCrew_nodes (s : State) (id : Nat) (g : Crew → Crew) : (s.modCrew id g).nodes = s.nodes := rfl
@[simp] theorem State.modCrew_launches (s : State) (id : Nat) (g : Crew → Crew) : (s.modCrew id g).launches = s.launches := rfl
@[simp] theorem State.modCrew_nextLaunch (s : State) (id : Nat) (g : Crew → Crew) : (s.modCrew id g).nextLaunch = s.nextLaunch := rfl
@[simp] theorem State.modCrew_disp (s : State) (id : Nat) (g : Crew → Crew) : (s.modCrew id g).disp = s.disp := rfl
@[simp] theorem State.modCrew_startPend (s : State) (id : Nat) (g : Crew → Crew) : (s.modCrew id g).startPend = s.startPend := rfl
@[simp] theorem State.modCrew_tokens (s : State) (id : Nat) (g : Crew → Crew) : (s.modCrew id g).tokens = s.tokens := rfl
@[simp] theorem State.modCrew_ras (s : State) (id : Nat) (g : Crew → Crew) : (s.modCrew id g).ras = s.ras := rfl
@[simp] theorem State.modCrew_plat (s : State) (id : Nat) (g : Crew → Crew) : (s.modCrew id g).plat = s.plat := rfl

/-! ### Crew.modThread -/

@[simp] theorem Crew.modThread_id (c : Crew) (tid : Nat) (g : Thread → Thread) : (c.modThread tid g).id = c.id := rfl
@[simp] theorem Crew.modThread_ctx (c : Crew) (tid : Nat) (g : Thread → Thread) : (c.modThread tid g).ctx = c.ctx := rfl
@[simp] theorem Crew.modThread_pos (c : Crew) (tid : Nat) (g : Thread → Thread) : (c.modThread tid g).pos = c.pos := rfl
@[simp] theorem Crew.modThread_launch (c : Crew) (tid : Nat) (g : Thread → Thread) : (c.modThread tid g).launch = c.launch := rfl
@[simp] theorem Crew.modThread_cls (c : Crew) (tid : Nat) (g : Thread → Thread) : (c.modThread tid g).cls = c.cls := rfl
@[simp] theorem Crew.modThread_core (c : Crew) (tid : Nat) (g : Thread → Thread) : (c.modThread tid g).core = c.core := rfl
@[simp] theorem Crew.modThread_slot (c : Crew) (tid : Nat) (g : Thread → Thread) : (c.modThread tid g).slot = c.slot := rfl
@[simp] theorem Crew.modThread_kernel (c : Crew) (tid : Nat) (g : Thread → Thread) : (c.modThread tid g).kernel = c.kernel := rfl
@[simp] theorem Crew.modThread_privBase (c : Crew) (tid : Nat) (g : Thread → Thread) : (c.modThread tid g).privBase = c.privBase := rfl
@[simp] theorem Crew.modThread_privSize (c : Crew) (tid : Nat) (g : Thread → Thread) : (c.modThread tid g).privSize = c.privSize := rfl
@[simp] theorem Crew.modThread_consts (c : Crew) (tid : Nat) (g : Thread → Thread) : (c.modThread tid g).consts = c.consts := rfl
@[simp] theorem Crew.modThread_started (c : Crew) (tid : Nat) (g : Thread → Thread) : (c.modThread tid g).started = c.started := rfl
@[simp] theorem Crew.modThread_warps (c : Crew) (tid : Nat) (g : Thread → Thread) : (c.modThread tid g).warps = c.warps := rfl
@[simp] theorem Crew.modThread_bins (c : Crew) (tid : Nat) (g : Thread → Thread) : (c.modThread tid g).bins = c.bins := rfl
@[simp] theorem Crew.modThread_queue (c : Crew) (tid : Nat) (g : Thread → Thread) : (c.modThread tid g).queue = c.queue := rfl
@[simp] theorem Crew.modThread_held (c : Crew) (tid : Nat) (g : Thread → Thread) : (c.modThread tid g).held = c.held := rfl
@[simp] theorem Crew.modThread_waits (c : Crew) (tid : Nat) (g : Thread → Thread) : (c.modThread tid g).waits = c.waits := rfl
@[simp] theorem Crew.modThread_barrier (c : Crew) (tid : Nat) (g : Thread → Thread) : (c.modThread tid g).barrier = c.barrier := rfl
@[simp] theorem Crew.modThread_scratch (c : Crew) (tid : Nat) (g : Thread → Thread) : (c.modThread tid g).scratch = c.scratch := rfl
@[simp] theorem Crew.modThread_tiles (c : Crew) (tid : Nat) (g : Thread → Thread) : (c.modThread tid g).tiles = c.tiles := rfl
@[simp] theorem Crew.modThread_copies (c : Crew) (tid : Nat) (g : Thread → Thread) : (c.modThread tid g).copies = c.copies := rfl
@[simp] theorem Crew.modThread_copySerial (c : Crew) (tid : Nat) (g : Thread → Thread) : (c.modThread tid g).copySerial = c.copySerial := rfl
@[simp] theorem Crew.modThread_mats (c : Crew) (tid : Nat) (g : Thread → Thread) : (c.modThread tid g).mats = c.mats := rfl
@[simp] theorem Crew.modThread_matSerial (c : Crew) (tid : Nat) (g : Thread → Thread) : (c.modThread tid g).matSerial = c.matSerial := rfl
@[simp] theorem Crew.modThread_transfers (c : Crew) (tid : Nat) (g : Thread → Thread) : (c.modThread tid g).transfers = c.transfers := rfl
@[simp] theorem Crew.modThread_log (c : Crew) (tid : Nat) (g : Thread → Thread) : (c.modThread tid g).log = c.log := rfl
@[simp] theorem Crew.modThread_stopped (c : Crew) (tid : Nat) (g : Thread → Thread) : (c.modThread tid g).stopped = c.stopped := rfl

/-! ### Crew.setWarp -/

@[simp] theorem Crew.setWarp_id (c : Crew) (w : Warp) : (c.setWarp w).id = c.id := rfl
@[simp] theorem Crew.setWarp_ctx (c : Crew) (w : Warp) : (c.setWarp w).ctx = c.ctx := rfl
@[simp] theorem Crew.setWarp_pos (c : Crew) (w : Warp) : (c.setWarp w).pos = c.pos := rfl
@[simp] theorem Crew.setWarp_launch (c : Crew) (w : Warp) : (c.setWarp w).launch = c.launch := rfl
@[simp] theorem Crew.setWarp_cls (c : Crew) (w : Warp) : (c.setWarp w).cls = c.cls := rfl
@[simp] theorem Crew.setWarp_core (c : Crew) (w : Warp) : (c.setWarp w).core = c.core := rfl
@[simp] theorem Crew.setWarp_slot (c : Crew) (w : Warp) : (c.setWarp w).slot = c.slot := rfl
@[simp] theorem Crew.setWarp_kernel (c : Crew) (w : Warp) : (c.setWarp w).kernel = c.kernel := rfl
@[simp] theorem Crew.setWarp_privBase (c : Crew) (w : Warp) : (c.setWarp w).privBase = c.privBase := rfl
@[simp] theorem Crew.setWarp_privSize (c : Crew) (w : Warp) : (c.setWarp w).privSize = c.privSize := rfl
@[simp] theorem Crew.setWarp_consts (c : Crew) (w : Warp) : (c.setWarp w).consts = c.consts := rfl
@[simp] theorem Crew.setWarp_started (c : Crew) (w : Warp) : (c.setWarp w).started = c.started := rfl
@[simp] theorem Crew.setWarp_threads (c : Crew) (w : Warp) : (c.setWarp w).threads = c.threads := rfl
@[simp] theorem Crew.setWarp_bins (c : Crew) (w : Warp) : (c.setWarp w).bins = c.bins := rfl
@[simp] theorem Crew.setWarp_queue (c : Crew) (w : Warp) : (c.setWarp w).queue = c.queue := rfl
@[simp] theorem Crew.setWarp_held (c : Crew) (w : Warp) : (c.setWarp w).held = c.held := rfl
@[simp] theorem Crew.setWarp_waits (c : Crew) (w : Warp) : (c.setWarp w).waits = c.waits := rfl
@[simp] theorem Crew.setWarp_barrier (c : Crew) (w : Warp) : (c.setWarp w).barrier = c.barrier := rfl
@[simp] theorem Crew.setWarp_scratch (c : Crew) (w : Warp) : (c.setWarp w).scratch = c.scratch := rfl
@[simp] theorem Crew.setWarp_tiles (c : Crew) (w : Warp) : (c.setWarp w).tiles = c.tiles := rfl
@[simp] theorem Crew.setWarp_copies (c : Crew) (w : Warp) : (c.setWarp w).copies = c.copies := rfl
@[simp] theorem Crew.setWarp_copySerial (c : Crew) (w : Warp) : (c.setWarp w).copySerial = c.copySerial := rfl
@[simp] theorem Crew.setWarp_mats (c : Crew) (w : Warp) : (c.setWarp w).mats = c.mats := rfl
@[simp] theorem Crew.setWarp_matSerial (c : Crew) (w : Warp) : (c.setWarp w).matSerial = c.matSerial := rfl
@[simp] theorem Crew.setWarp_transfers (c : Crew) (w : Warp) : (c.setWarp w).transfers = c.transfers := rfl
@[simp] theorem Crew.setWarp_log (c : Crew) (w : Warp) : (c.setWarp w).log = c.log := rfl
@[simp] theorem Crew.setWarp_stopped (c : Crew) (w : Warp) : (c.setWarp w).stopped = c.stopped := rfl

/-! ### Crew.modWarp -/

@[simp] theorem Crew.modWarp_id (c : Crew) (wid : Nat) (g : Warp → Warp) : (c.modWarp wid g).id = c.id := rfl
@[simp] theorem Crew.modWarp_ctx (c : Crew) (wid : Nat) (g : Warp → Warp) : (c.modWarp wid g).ctx = c.ctx := rfl
@[simp] theorem Crew.modWarp_pos (c : Crew) (wid : Nat) (g : Warp → Warp) : (c.modWarp wid g).pos = c.pos := rfl
@[simp] theorem Crew.modWarp_launch (c : Crew) (wid : Nat) (g : Warp → Warp) : (c.modWarp wid g).launch = c.launch := rfl
@[simp] theorem Crew.modWarp_cls (c : Crew) (wid : Nat) (g : Warp → Warp) : (c.modWarp wid g).cls = c.cls := rfl
@[simp] theorem Crew.modWarp_core (c : Crew) (wid : Nat) (g : Warp → Warp) : (c.modWarp wid g).core = c.core := rfl
@[simp] theorem Crew.modWarp_slot (c : Crew) (wid : Nat) (g : Warp → Warp) : (c.modWarp wid g).slot = c.slot := rfl
@[simp] theorem Crew.modWarp_kernel (c : Crew) (wid : Nat) (g : Warp → Warp) : (c.modWarp wid g).kernel = c.kernel := rfl
@[simp] theorem Crew.modWarp_privBase (c : Crew) (wid : Nat) (g : Warp → Warp) : (c.modWarp wid g).privBase = c.privBase := rfl
@[simp] theorem Crew.modWarp_privSize (c : Crew) (wid : Nat) (g : Warp → Warp) : (c.modWarp wid g).privSize = c.privSize := rfl
@[simp] theorem Crew.modWarp_consts (c : Crew) (wid : Nat) (g : Warp → Warp) : (c.modWarp wid g).consts = c.consts := rfl
@[simp] theorem Crew.modWarp_started (c : Crew) (wid : Nat) (g : Warp → Warp) : (c.modWarp wid g).started = c.started := rfl
@[simp] theorem Crew.modWarp_threads (c : Crew) (wid : Nat) (g : Warp → Warp) : (c.modWarp wid g).threads = c.threads := rfl
@[simp] theorem Crew.modWarp_bins (c : Crew) (wid : Nat) (g : Warp → Warp) : (c.modWarp wid g).bins = c.bins := rfl
@[simp] theorem Crew.modWarp_queue (c : Crew) (wid : Nat) (g : Warp → Warp) : (c.modWarp wid g).queue = c.queue := rfl
@[simp] theorem Crew.modWarp_held (c : Crew) (wid : Nat) (g : Warp → Warp) : (c.modWarp wid g).held = c.held := rfl
@[simp] theorem Crew.modWarp_waits (c : Crew) (wid : Nat) (g : Warp → Warp) : (c.modWarp wid g).waits = c.waits := rfl
@[simp] theorem Crew.modWarp_barrier (c : Crew) (wid : Nat) (g : Warp → Warp) : (c.modWarp wid g).barrier = c.barrier := rfl
@[simp] theorem Crew.modWarp_scratch (c : Crew) (wid : Nat) (g : Warp → Warp) : (c.modWarp wid g).scratch = c.scratch := rfl
@[simp] theorem Crew.modWarp_tiles (c : Crew) (wid : Nat) (g : Warp → Warp) : (c.modWarp wid g).tiles = c.tiles := rfl
@[simp] theorem Crew.modWarp_copies (c : Crew) (wid : Nat) (g : Warp → Warp) : (c.modWarp wid g).copies = c.copies := rfl
@[simp] theorem Crew.modWarp_copySerial (c : Crew) (wid : Nat) (g : Warp → Warp) : (c.modWarp wid g).copySerial = c.copySerial := rfl
@[simp] theorem Crew.modWarp_mats (c : Crew) (wid : Nat) (g : Warp → Warp) : (c.modWarp wid g).mats = c.mats := rfl
@[simp] theorem Crew.modWarp_matSerial (c : Crew) (wid : Nat) (g : Warp → Warp) : (c.modWarp wid g).matSerial = c.matSerial := rfl
@[simp] theorem Crew.modWarp_transfers (c : Crew) (wid : Nat) (g : Warp → Warp) : (c.modWarp wid g).transfers = c.transfers := rfl
@[simp] theorem Crew.modWarp_log (c : Crew) (wid : Nat) (g : Warp → Warp) : (c.modWarp wid g).log = c.log := rfl
@[simp] theorem Crew.modWarp_stopped (c : Crew) (wid : Nat) (g : Warp → Warp) : (c.modWarp wid g).stopped = c.stopped := rfl

/-! ### Thread.setReg -/

@[simp] theorem Thread.setReg_p (t : Thread) (n : Nat) (x : Word) : (t.setReg n x).p = t.p := rfl
@[simp] theorem Thread.setReg_links (t : Thread) (n : Nat) (x : Word) : (t.setReg n x).links = t.links := rfl
@[simp] theorem Thread.setReg_chain (t : Thread) (n : Nat) (x : Word) : (t.setReg n x).chain = t.chain := rfl
@[simp] theorem Thread.setReg_fpctl (t : Thread) (n : Nat) (x : Word) : (t.setReg n x).fpctl = t.fpctl := rfl
@[simp] theorem Thread.setReg_fpflags (t : Thread) (n : Nat) (x : Word) : (t.setReg n x).fpflags = t.fpflags := rfl
@[simp] theorem Thread.setReg_rsdepth (t : Thread) (n : Nat) (x : Word) : (t.setReg n x).rsdepth = t.rsdepth := rfl
@[simp] theorem Thread.setReg_rsbase (t : Thread) (n : Nat) (x : Word) : (t.setReg n x).rsbase = t.rsbase := rfl
@[simp] theorem Thread.setReg_rstack (t : Thread) (n : Nat) (x : Word) : (t.setReg n x).rstack = t.rstack := rfl
@[simp] theorem Thread.setReg_capture (t : Thread) (n : Nat) (x : Word) : (t.setReg n x).capture = t.capture := rfl
@[simp] theorem Thread.setReg_exited (t : Thread) (n : Nat) (x : Word) : (t.setReg n x).exited = t.exited := rfl
@[simp] theorem Thread.setReg_facq (t : Thread) (n : Nat) (x : Word) : (t.setReg n x).facq = t.facq := rfl
@[simp] theorem Thread.setReg_frel (t : Thread) (n : Nat) (x : Word) : (t.setReg n x).frel = t.frel := rfl
@[simp] theorem Thread.setReg_finv (t : Thread) (n : Nat) (x : Word) : (t.setReg n x).finv = t.finv := rfl

/-! ### Thread.setEmpty -/

@[simp] theorem Thread.setEmpty_v (t : Thread) (n k : Nat) : (t.setEmpty n k).v = t.v := rfl
@[simp] theorem Thread.setEmpty_p (t : Thread) (n k : Nat) : (t.setEmpty n k).p = t.p := rfl
@[simp] theorem Thread.setEmpty_links (t : Thread) (n k : Nat) : (t.setEmpty n k).links = t.links := rfl
@[simp] theorem Thread.setEmpty_chain (t : Thread) (n k : Nat) : (t.setEmpty n k).chain = t.chain := rfl
@[simp] theorem Thread.setEmpty_fpctl (t : Thread) (n k : Nat) : (t.setEmpty n k).fpctl = t.fpctl := rfl
@[simp] theorem Thread.setEmpty_fpflags (t : Thread) (n k : Nat) : (t.setEmpty n k).fpflags = t.fpflags := rfl
@[simp] theorem Thread.setEmpty_rsdepth (t : Thread) (n k : Nat) : (t.setEmpty n k).rsdepth = t.rsdepth := rfl
@[simp] theorem Thread.setEmpty_rsbase (t : Thread) (n k : Nat) : (t.setEmpty n k).rsbase = t.rsbase := rfl
@[simp] theorem Thread.setEmpty_rstack (t : Thread) (n k : Nat) : (t.setEmpty n k).rstack = t.rstack := rfl
@[simp] theorem Thread.setEmpty_capture (t : Thread) (n k : Nat) : (t.setEmpty n k).capture = t.capture := rfl
@[simp] theorem Thread.setEmpty_exited (t : Thread) (n k : Nat) : (t.setEmpty n k).exited = t.exited := rfl
@[simp] theorem Thread.setEmpty_facq (t : Thread) (n k : Nat) : (t.setEmpty n k).facq = t.facq := rfl
@[simp] theorem Thread.setEmpty_frel (t : Thread) (n k : Nat) : (t.setEmpty n k).frel = t.frel := rfl
@[simp] theorem Thread.setEmpty_finv (t : Thread) (n k : Nat) : (t.setEmpty n k).finv = t.finv := rfl

/-! ### Thread.setPred -/

@[simp] theorem Thread.setPred_v (t : Thread) (n : Nat) (b : Bool) : (t.setPred n b).v = t.v := rfl
@[simp] theorem Thread.setPred_full (t : Thread) (n : Nat) (b : Bool) : (t.setPred n b).full = t.full := rfl
@[simp] theorem Thread.setPred_links (t : Thread) (n : Nat) (b : Bool) : (t.setPred n b).links = t.links := rfl
@[simp] theorem Thread.setPred_chain (t : Thread) (n : Nat) (b : Bool) : (t.setPred n b).chain = t.chain := rfl
@[simp] theorem Thread.setPred_fpctl (t : Thread) (n : Nat) (b : Bool) : (t.setPred n b).fpctl = t.fpctl := rfl
@[simp] theorem Thread.setPred_fpflags (t : Thread) (n : Nat) (b : Bool) : (t.setPred n b).fpflags = t.fpflags := rfl
@[simp] theorem Thread.setPred_rsdepth (t : Thread) (n : Nat) (b : Bool) : (t.setPred n b).rsdepth = t.rsdepth := rfl
@[simp] theorem Thread.setPred_rsbase (t : Thread) (n : Nat) (b : Bool) : (t.setPred n b).rsbase = t.rsbase := rfl
@[simp] theorem Thread.setPred_rstack (t : Thread) (n : Nat) (b : Bool) : (t.setPred n b).rstack = t.rstack := rfl
@[simp] theorem Thread.setPred_capture (t : Thread) (n : Nat) (b : Bool) : (t.setPred n b).capture = t.capture := rfl
@[simp] theorem Thread.setPred_exited (t : Thread) (n : Nat) (b : Bool) : (t.setPred n b).exited = t.exited := rfl
@[simp] theorem Thread.setPred_facq (t : Thread) (n : Nat) (b : Bool) : (t.setPred n b).facq = t.facq := rfl
@[simp] theorem Thread.setPred_frel (t : Thread) (n : Nat) (b : Bool) : (t.setPred n b).frel = t.frel := rfl
@[simp] theorem Thread.setPred_finv (t : Thread) (n : Nat) (b : Bool) : (t.setPred n b).finv = t.finv := rfl

/-! ### Thread.setLink -/

@[simp] theorem Thread.setLink_v (t : Thread) (n : Nat) (l : LinkReg) : (t.setLink n l).v = t.v := rfl
@[simp] theorem Thread.setLink_full (t : Thread) (n : Nat) (l : LinkReg) : (t.setLink n l).full = t.full := rfl
@[simp] theorem Thread.setLink_p (t : Thread) (n : Nat) (l : LinkReg) : (t.setLink n l).p = t.p := rfl
@[simp] theorem Thread.setLink_chain (t : Thread) (n : Nat) (l : LinkReg) : (t.setLink n l).chain = t.chain := rfl
@[simp] theorem Thread.setLink_fpctl (t : Thread) (n : Nat) (l : LinkReg) : (t.setLink n l).fpctl = t.fpctl := rfl
@[simp] theorem Thread.setLink_fpflags (t : Thread) (n : Nat) (l : LinkReg) : (t.setLink n l).fpflags = t.fpflags := rfl
@[simp] theorem Thread.setLink_rsdepth (t : Thread) (n : Nat) (l : LinkReg) : (t.setLink n l).rsdepth = t.rsdepth := rfl
@[simp] theorem Thread.setLink_rsbase (t : Thread) (n : Nat) (l : LinkReg) : (t.setLink n l).rsbase = t.rsbase := rfl
@[simp] theorem Thread.setLink_rstack (t : Thread) (n : Nat) (l : LinkReg) : (t.setLink n l).rstack = t.rstack := rfl
@[simp] theorem Thread.setLink_capture (t : Thread) (n : Nat) (l : LinkReg) : (t.setLink n l).capture = t.capture := rfl
@[simp] theorem Thread.setLink_exited (t : Thread) (n : Nat) (l : LinkReg) : (t.setLink n l).exited = t.exited := rfl
@[simp] theorem Thread.setLink_facq (t : Thread) (n : Nat) (l : LinkReg) : (t.setLink n l).facq = t.facq := rfl
@[simp] theorem Thread.setLink_frel (t : Thread) (n : Nat) (l : LinkReg) : (t.setLink n l).frel = t.frel := rfl
@[simp] theorem Thread.setLink_finv (t : Thread) (n : Nat) (l : LinkReg) : (t.setLink n l).finv = t.finv := rfl

/-! ### Thread.raise -/

@[simp] theorem Thread.raise_v (t : Thread) (fl : BitVec 5) : (t.raise fl).v = t.v := rfl
@[simp] theorem Thread.raise_full (t : Thread) (fl : BitVec 5) : (t.raise fl).full = t.full := rfl
@[simp] theorem Thread.raise_p (t : Thread) (fl : BitVec 5) : (t.raise fl).p = t.p := rfl
@[simp] theorem Thread.raise_links (t : Thread) (fl : BitVec 5) : (t.raise fl).links = t.links := rfl
@[simp] theorem Thread.raise_chain (t : Thread) (fl : BitVec 5) : (t.raise fl).chain = t.chain := rfl
@[simp] theorem Thread.raise_fpctl (t : Thread) (fl : BitVec 5) : (t.raise fl).fpctl = t.fpctl := rfl
@[simp] theorem Thread.raise_rsdepth (t : Thread) (fl : BitVec 5) : (t.raise fl).rsdepth = t.rsdepth := rfl
@[simp] theorem Thread.raise_rsbase (t : Thread) (fl : BitVec 5) : (t.raise fl).rsbase = t.rsbase := rfl
@[simp] theorem Thread.raise_rstack (t : Thread) (fl : BitVec 5) : (t.raise fl).rstack = t.rstack := rfl
@[simp] theorem Thread.raise_capture (t : Thread) (fl : BitVec 5) : (t.raise fl).capture = t.capture := rfl
@[simp] theorem Thread.raise_exited (t : Thread) (fl : BitVec 5) : (t.raise fl).exited = t.exited := rfl
@[simp] theorem Thread.raise_facq (t : Thread) (fl : BitVec 5) : (t.raise fl).facq = t.facq := rfl
@[simp] theorem Thread.raise_frel (t : Thread) (fl : BitVec 5) : (t.raise fl).frel = t.frel := rfl
@[simp] theorem Thread.raise_finv (t : Thread) (fl : BitVec 5) : (t.raise fl).finv = t.finv := rfl

end Sys2Proof.Machine
end

