-- ==== Sys2Proof/Laws/Ops.lean ====
section
/-! SUPPORT. What the shared operations over registers, contexts, crews, warps and threads do, once each: what is put is found again,
and nothing else moves. -/
namespace Sys2Proof.Machine

/-! ### Device registers -/

theorem find?_putKey (k : Nat) (v : Quad) (l : List (Nat × Quad)) (b : Nat) :
    (putKey k v l).find? (fun x => x.1 == b) = if b = k then some (k, v) else l.find? fun x => x.1 == b := by
  induction l with
  | nil =>
    by_cases h : b = k
    · simp [putKey, h]
    · simp [putKey, h, show k ≠ b from fun e => h e.symm]
  | cons c r ih =>
    obtain ⟨a, x⟩ := c
    unfold putKey
    split
    · by_cases h : b = k
      · simp [h]
      · simp [h, show k ≠ b from fun e => h e.symm]
    · split
      · rename_i h; subst h
        by_cases h : b = k
        · simp [h]
        · simp [h, show k ≠ b from fun e => h e.symm]
      · rename_i h1 h2
        rw [List.find?_cons, List.find?_cons, ih]
        by_cases h : a = b
        · subst h; simp [show a ≠ k from fun e => h2 e.symm]
        · simp [show (a == b) = false by simpa using h]
/-- A device register reads as it was set, and no other changes. -/
@[simp] theorem State.devD_setDev (s : State) (a : Nat) (v : Quad) (b : Nat) (d : Quad) :
    (s.setDev a v).devD b d = if b = a then v else s.devD b d := by
  unfold State.devD State.setDev
  rw [find?_putKey]
  split <;> rfl
@[simp] theorem State.host_setHost (s : State) (a : Nat) (v : Quad) (b : Nat) :
    (s.setHost a v).host b = if b = a then v else s.host b := by
  unfold State.host State.setHost
  rw [State.devD_setDev]
  by_cases h : b = a
  · simp [h]
  · rw [if_neg h, if_neg (fun e => h (by unfold devAddr at e; omega))]
/-- A field of a host-die register set leaves every other register alone. -/
theorem State.host_setHostF_ne (s : State) {a b : Nat} (hi lo v : Nat) (h : b ≠ a) : (s.setHostF a hi lo v).host b = s.host b := by
  unfold State.setHostF
  rw [State.host_setHost, if_neg h]
theorem State.hostF_setHostF_ne (s : State) {a b : Nat} (hi lo v h' l' : Nat) (h : b ≠ a) :
    (s.setHostF a hi lo v).hostF b h' l' = s.hostF b h' l' := by
  unfold State.hostF
  rw [State.host_setHostF_ne s hi lo v h]

/-! ### Contexts -/

theorem find?_putCtx (x : Ctx) (l : List Ctx) (n : Nat) :
    (putCtx x l).find? (fun c => c.num == n) = if n = x.num then some x else l.find? fun c => c.num == n := by
  induction l with
  | nil =>
    by_cases h : n = x.num
    · simp [putCtx, h]
    · simp [putCtx, h, show x.num ≠ n from fun e => h e.symm]
  | cons c r ih =>
    unfold putCtx
    split
    · by_cases h : n = x.num
      · simp [h]
      · simp [h, show x.num ≠ n from fun e => h e.symm]
    · split
      · rename_i h
        by_cases hn : n = x.num
        · simp [hn]
        · simp [hn, ← h, show x.num ≠ n from fun e => hn e.symm]
      · rename_i h1 h2
        rw [List.find?_cons, List.find?_cons, ih]
        by_cases h : c.num = n
        · subst h; simp [show c.num ≠ x.num from fun e => h2 e.symm]
        · simp [show (c.num == n) = false by simpa using h]
/-- A context put is found, and no other changes. -/
@[simp] theorem State.ctx_setCtx (s : State) (x : Ctx) (n : Nat) : (s.setCtx x).ctx n = if n = x.num then x else s.ctx n := by
  unfold State.ctx State.setCtx
  rw [find?_putCtx]
  split <;> rfl
theorem State.ctx_num (s : State) (n : Nat) : (s.ctx n).num = n := by
  have key : ∀ o : Option Ctx, (∀ c, o = some c → c.num = n) → (o.getD (Ctx.clear n)).num = n := by
    intro o h
    cases o with
    | none => rfl
    | some c => exact h c rfl
  exact key _ fun c h => by simpa using List.find?_some h
/-- A change of a context that keeps its number. -/
theorem State.ctx_modCtx (s : State) (n : Nat) (g : Ctx → Ctx) (hg : (g (s.ctx n)).num = n) (k : Nat) :
    (s.modCtx n g).ctx k = if k = n then g (s.ctx n) else s.ctx k := by
  unfold State.modCtx
  rw [State.ctx_setCtx, hg]
/-- Marking units dirty changes nothing but what a checkpoint counts as written. -/
theorem markDirty_frame (s : State) (n : Nat) (u : CkUnit) :
    { markDirty s n u with ctxs := s.ctxs } = s ∧ ∀ k, { (markDirty s n u).ctx k with ckpt := (s.ctx k).ckpt } = s.ctx k := by
  unfold markDirty
  simp only
  split
  · exact ⟨rfl, fun _ => rfl⟩
  · refine ⟨rfl, fun k => ?_⟩
    rw [State.ctx_setCtx]
    split
    · rename_i h
      have h : k = (s.ctx n).num := h
      rw [State.ctx_num] at h
      subst h; rfl
    · rfl
theorem markAll_frame (us : List CkUnit) : ∀ (s : State) (n : Nat),
    { markAll s n us with ctxs := s.ctxs } = s ∧ ∀ k, { (markAll s n us).ctx k with ckpt := (s.ctx k).ckpt } = s.ctx k := by
  induction us with
  | nil => intro s n; exact ⟨rfl, fun _ => rfl⟩
  | cons u us ih =>
    intro s n
    have h := markDirty_frame s n u
    have h2 := ih (markDirty s n u) n
    refine ⟨?_, fun k => ?_⟩
    · have := congrArg (fun t : State => { t with ctxs := s.ctxs }) h2.1
      simp only at this
      exact this.trans h.1
    · have := congrArg (fun t : Ctx => { t with ckpt := (s.ctx k).ckpt }) (h2.2 k)
      simp only at this
      exact this.trans (h.2 k)
theorem markAll_mem (s : State) (n : Nat) (us : List CkUnit) : (markAll s n us).mem = s.mem := by
  have := congrArg State.mem (markAll_frame us s n).1
  exact this
theorem markAll_crews (s : State) (n : Nat) (us : List CkUnit) : (markAll s n us).crews = s.crews := by
  have := congrArg State.crews (markAll_frame us s n).1
  exact this
theorem markAll_crew? (s : State) (n : Nat) (us : List CkUnit) (id : Nat) : (markAll s n us).crew? id = s.crew? id := by
  unfold State.crew?; rw [markAll_crews]

/-! ### Crews, warps and threads -/

/-- A crew changed is found changed, and no other crew changes. -/
theorem State.crew?_modCrew (s : State) (id : Nat) (g : Crew → Crew) (hg : ∀ c, c.id = id → (g c).id = id) (k : Nat) :
    (s.modCrew id g).crew? k = if k = id then (s.crew? k).map g else s.crew? k := by
  unfold State.crew? State.modCrew
  simp only
  induction s.crews with
  | nil => simp
  | cons c r ih =>
    rw [List.map_cons, List.find?_cons, ih, List.find?_cons]
    by_cases h : c.id = id
    · rw [if_pos h, hg c h]
      by_cases hk : k = id
      · subst hk; simp [h]
      · have hb : (id == k) = false := by simpa using fun e => hk e.symm
        simp [hk, h, hb]
    · rw [if_neg h]
      by_cases hk : c.id = k
      · subst hk; simp [h]
      · have hb : (c.id == k) = false := by simpa using hk
        simp [hb]
theorem State.crew?_id {s : State} {id : Nat} {c : Crew} (h : s.crew? id = some c) : c.id = id := by
  simpa using List.find?_some h
theorem State.crew?_setCrew (s : State) (c : Crew) (k : Nat) :
    (s.setCrew c).crew? k = if k = c.id then (s.crew? k).map (fun _ => c) else s.crew? k :=
  State.crew?_modCrew s c.id (fun _ => c) (fun _ _ => rfl) k
/-- The same for a warp of a crew. -/
theorem Crew.warp?_modWarp (c : Crew) (wid : Nat) (g : Warp → Warp) (hg : ∀ w, w.wid = wid → (g w).wid = wid) (k : Nat) :
    (c.modWarp wid g).warp? k = if k = wid then (c.warp? k).map g else c.warp? k := by
  unfold Crew.warp? Crew.modWarp
  simp only
  induction c.warps with
  | nil => simp
  | cons w r ih =>
    rw [List.map_cons, List.find?_cons, ih, List.find?_cons]
    by_cases h : w.wid = wid
    · rw [if_pos h, hg w h]
      by_cases hk : k = wid
      · subst hk; simp [h]
      · have hb : (wid == k) = false := by simpa using fun e => hk e.symm
        simp [hk, h, hb]
    · rw [if_neg h]
      by_cases hk : w.wid = k
      · subst hk; simp [h]
      · have hb : (w.wid == k) = false := by simpa using hk
        simp [hb]
theorem Crew.warp?_modThread (c : Crew) (tid : Nat) (g : Thread → Thread) (k : Nat) : (c.modThread tid g).warp? k = c.warp? k := rfl
/-- A thread changed is found changed, and no other thread changes. -/
theorem Crew.thread_modThread (c : Crew) (tid : Nat) (g : Thread → Thread) (k : Nat) :
    (c.modThread tid g).thread k = if k = tid ∧ tid < c.threads.length then g (c.thread tid) else c.thread k := by
  unfold Crew.thread Crew.modThread
  simp only [List.getD_eq_getElem?_getD, List.getElem?_modify]
  by_cases h : tid = k
  · subst h
    by_cases h2 : tid < c.threads.length
    · simp [h2]
    · simp [h2]
  · simp [h, show k ≠ tid from fun e => h e.symm]

/-! ### Registers of a thread -/

/-- A register written reads back and is full; no other changes. -/
theorem Thread.reg_setReg (t : Thread) (n : Nat) (x : Word) (k : Nat) :
    (t.setReg n x).reg k = if k = n ∧ n < t.v.length then x else t.reg k := by
  unfold Thread.reg Thread.setReg
  simp only [List.getD_eq_getElem?_getD, List.getElem?_set]
  by_cases h : n = k
  · subst h
    by_cases h2 : n < t.v.length
    · simp [h2]
    · simp [h2]
  · simp [h, show k ≠ n from fun e => h e.symm]
theorem Thread.full_setReg (t : Thread) (n : Nat) (x : Word) (k : Nat) :
    (t.setReg n x).full.getD k true = if k = n then true else t.full.getD k true := by
  unfold Thread.setReg
  simp only [List.getD_eq_getElem?_getD, List.getElem?_set]
  by_cases h : n = k
  · subst h
    by_cases h2 : n < t.full.length
    · simp [h2]
    · simp [h2]
  · simp [h, show k ≠ n from fun e => h e.symm]
/-- A predicate written reads back; no other changes. -/
theorem Thread.pred_setPred (t : Thread) (n : Nat) (b : Bool) (hn : n < 96) (k : Nat) :
    (t.setPred n b).pred k = if k = n then b else t.pred k := by
  unfold Thread.pred Thread.setPred
  by_cases hk : k < 96
  · cases b <;> by_cases h : k = n <;> (simp [h, hk, hn, Nat.sub_eq_zero_iff_le]; try omega)
  · have : k ≠ n := by omega
    have h1 : ∀ x : BitVec 96, x.getLsbD k = false := fun x => BitVec.getLsbD_of_ge x k (Nat.le_of_not_lt hk)
    simp [this, h1]

/-! ### Writing results -/

/-- Writing registers by number changes crews and dirty marks only. -/
theorem writeRegs_frame (s : State) (crew : Nat) (xs : List (Nat × List (Nat × Word))) :
    { writeRegs s crew xs with crews := s.crews, ctxs := s.ctxs } = s ∧
      ∀ k, { (writeRegs s crew xs).ctx k with ckpt := (s.ctx k).ckpt } = s.ctx k := by
  unfold writeRegs
  split
  · exact ⟨rfl, fun _ => rfl⟩
  · rename_i c _
    have h := markAll_frame (xs.flatMap fun x => c.rowsOf x.1 (x.2.map (·.1)))
      (s.setCrew (xs.foldl (fun c x => c.modThread x.1 fun t => t.setRegs x.2) c)) c.ctx
    refine ⟨?_, h.2⟩
    have := congrArg (fun t : State => { t with crews := s.crews, ctxs := s.ctxs }) h.1
    exact this
theorem writeD_frame (e : Env) (s : State) (t : Ty) (xs : List (Nat × Nat)) :
    { writeD e s t xs with crews := s.crews, ctxs := s.ctxs } = s ∧ ∀ k, { (writeD e s t xs).ctx k with ckpt := (s.ctx k).ckpt } = s.ctx k := by
  unfold writeD
  split
  · exact writeRegs_frame _ _ _
  · split
    · exact ⟨rfl, fun _ => rfl⟩
    · exact ⟨rfl, fun _ => rfl⟩
  · exact ⟨rfl, fun _ => rfl⟩
theorem writeP_frame (e : Env) (s : State) (xs : List (Nat × Bool)) : { writeP e s xs with crews := s.crews } = s := by
  unfold writeP
  split <;> rfl
theorem writeD_mem (e : Env) (s : State) (t : Ty) (xs : List (Nat × Nat)) : (writeD e s t xs).mem = s.mem := by
  have := congrArg State.mem (writeD_frame e s t xs).1
  exact this
theorem writeRegs_mem (s : State) (crew : Nat) (xs : List (Nat × List (Nat × Word))) : (writeRegs s crew xs).mem = s.mem := by
  have := congrArg State.mem (writeRegs_frame s crew xs).1
  exact this
theorem writeP_mem (e : Env) (s : State) (xs : List (Nat × Bool)) : (writeP e s xs).mem = s.mem := by
  have := congrArg State.mem (writeP_frame e s xs)
  exact this
/-- Moving the entry past its word changes nothing but the warp's frontier, its waiting count, or the handler's address. -/
theorem advance_frame (e : Env) (s : State) : { e.advance s with crews := s.crews } = s := rfl

end Sys2Proof.Machine
end

