-- ==== Sys2Proof/WellFormed.lean ====
section
/-! DEFINITION. Which instructions are well formed: an Arben instruction that no check of R68 refuses in a kernel of the
given shape, a Sorrel bytecode whose operands lie in the limits of R385, an event about a unit the part has. -/
namespace Sys2Proof

/-- R386: the operand limits of one Sorrel bytecode that do not depend on the rest of its program. -/
def sorrelOperands : Instr → Bool
  | .sorrelPkw _ n => decide (1 ≤ n.toNat) && decide (n.toNat ≤ 15)
  | .sorrelLdw _ _ _ off | .sorrelStw _ _ _ off => off.toNat % 8 == 0
  | .sorrelShr _ _ imm => decide (imm.toNat ≤ 63)
  | .sorrelBz _ n | .sorrelBnz _ n => decide (1 ≤ n.toNat)
  | .sorrelRep n len => decide (1 ≤ n.toNat) && decide (n.toNat ≤ 64) && decide (1 ≤ len.toNat)
  | .sorrelCond _ _ off => off.toNat % 4 == 0
  | _ => true

/-- Well-formedness in a kernel of shape `sh`; events and bytecodes do not depend on the shape. -/
def Instr.WellFormed (sh : Shape) (i : Instr) : Prop :=
  if (encode i).isSome then check sh i = none else sorrelOperands i = true

end Sys2Proof
end

