-- ==== Sys2Proof/Laws/PerInstr.lean ====
section
/-! SUPPORT. Facts made one instruction at a time: every operand of an instruction stands in its own field of the word. -/
namespace Sys2Proof.Laws.OperandsEncoded

/-- R56, R62: the word of an instruction holds its guard, its empty policy and its four operands each in their own field, and the format I of an
instruction with an immediate holds the immediate in the extension. -/
def Statement (i : Instr) : Prop :=
  ∀ r, i.raw = some r → ∃ f, i.fields? = some f ∧ (r.gp, r.gn) = f.g.code ∧ r.e = f.e ∧ r.d = f.d.code ∧ r.a = f.a.code ∧ r.b = f.b.code ∧
    r.c = f.c.code ∧ (r.len = 1 → ∀ x, f.imm = some x → r.ext.setWidth 32 = x)

/-- What `mkRaw` puts where. -/
theorem of_mkRaw {i : Instr} {len : BitVec 2} {op : BitVec 8} {fn : BitVec 7} {ext : Quad} {f : Fields}
    (h : i.raw = some (mkRaw len op fn ext f)) (hf : i.fields? = some f) : Statement i := by
  intro r hr
  rw [h] at hr
  obtain rfl := Option.some.inj hr
  refine ⟨f, hf, rfl, rfl, rfl, rfl, rfl, rfl, fun hl x hx => ?_⟩
  simp only [mkRaw] at hl ⊢
  rw [if_pos hl, hx]
  apply BitVec.eq_of_toNat_eq
  simp only [BitVec.toNat_setWidth]
  have := x.isLt
  omega
/-- An instruction without a word of one header. -/
theorem of_none {i : Instr} (h : i.raw = none) : Statement i := by
  intro r hr
  rw [h] at hr
  cases hr

theorem nopN (f : Fields) : Statement (.nopN f) := of_mkRaw rfl rfl
theorem nopI (f : Fields) : Statement (.nopI f) := of_mkRaw rfl rfl
theorem nopW (f : Fields) : Statement (.nopW f) := of_mkRaw rfl rfl
theorem pairWord (x y : PairHalf) : Statement (.pairWord x y) := of_none rfl
theorem bra (f : Fields) : Statement (.bra f) := of_mkRaw rfl rfl
theorem bri (f : Fields) : Statement (.bri f) := of_mkRaw rfl rfl
theorem call (f : Fields) : Statement (.call f) := of_mkRaw rfl rfl
theorem calli (f : Fields) : Statement (.calli f) := of_mkRaw rfl rfl
theorem ret (f : Fields) : Statement (.ret f) := of_mkRaw rfl rfl
theorem exit (f : Fields) : Statement (.exit f) := of_mkRaw rfl rfl
theorem park (f : Fields) : Statement (.park f) := of_mkRaw rfl rfl
theorem jset (j : BitVec 3) (f : Fields) : Statement (.jset j f) := of_mkRaw rfl rfl
theorem jwait (j : BitVec 3) (f : Fields) : Statement (.jwait j f) := of_mkRaw rfl rfl
theorem mig (f : Fields) : Statement (.mig f) := of_mkRaw rfl rfl
theorem migCommit (crew warp : Nat) : Statement (.migCommit crew warp) := of_none rfl
theorem add (t : Ty) (sat : Bool) (f : Fields) : Statement (.add t sat f) := of_mkRaw rfl rfl
theorem sub (t : Ty) (sat : Bool) (f : Fields) : Statement (.sub t sat f) := of_mkRaw rfl rfl
theorem min (t : Ty) (sat : Bool) (f : Fields) : Statement (.min t sat f) := of_mkRaw rfl rfl
theorem max (t : Ty) (sat : Bool) (f : Fields) : Statement (.max t sat f) := of_mkRaw rfl rfl
theorem abs (t : Ty) (sat : Bool) (f : Fields) : Statement (.abs t sat f) := of_mkRaw rfl rfl
theorem neg (t : Ty) (sat : Bool) (f : Fields) : Statement (.neg t sat f) := of_mkRaw rfl rfl
theorem and (t : Ty) (sat : Bool) (f : Fields) : Statement (.and t sat f) := of_mkRaw rfl rfl
theorem or (t : Ty) (sat : Bool) (f : Fields) : Statement (.or t sat f) := of_mkRaw rfl rfl
theorem xor (t : Ty) (sat : Bool) (f : Fields) : Statement (.xor t sat f) := of_mkRaw rfl rfl
theorem andn (t : Ty) (sat : Bool) (f : Fields) : Statement (.andn t sat f) := of_mkRaw rfl rfl
theorem not (t : Ty) (sat : Bool) (f : Fields) : Statement (.not t sat f) := of_mkRaw rfl rfl
theorem shl (t : Ty) (sat : Bool) (f : Fields) : Statement (.shl t sat f) := of_mkRaw rfl rfl
theorem shr (t : Ty) (sat : Bool) (f : Fields) : Statement (.shr t sat f) := of_mkRaw rfl rfl
theorem sar (t : Ty) (sat : Bool) (f : Fields) : Statement (.sar t sat f) := of_mkRaw rfl rfl
theorem rot (t : Ty) (sat : Bool) (f : Fields) : Statement (.rot t sat f) := of_mkRaw rfl rfl
theorem mov (t : Ty) (sat : Bool) (f : Fields) : Statement (.mov t sat f) := of_mkRaw rfl rfl
theorem mul (t : Ty) (sat : Bool) (f : Fields) : Statement (.mul t sat f) := of_mkRaw rfl rfl
theorem mulh (t : Ty) (sat : Bool) (f : Fields) : Statement (.mulh t sat f) := of_mkRaw rfl rfl
theorem mad (t : Ty) (sat : Bool) (f : Fields) : Statement (.mad t sat f) := of_mkRaw rfl rfl
theorem bfx (t : Ty) (sat : Bool) (f : Fields) : Statement (.bfx t sat f) := of_mkRaw rfl rfl
theorem bfi (t : Ty) (sat : Bool) (f : Fields) : Statement (.bfi t sat f) := of_mkRaw rfl rfl
theorem popc (t : Ty) (sat : Bool) (f : Fields) : Statement (.popc t sat f) := of_mkRaw rfl rfl
theorem clz (t : Ty) (sat : Bool) (f : Fields) : Statement (.clz t sat f) := of_mkRaw rfl rfl
theorem ctz (t : Ty) (sat : Bool) (f : Fields) : Statement (.ctz t sat f) := of_mkRaw rfl rfl
theorem fnth (t : Ty) (sat : Bool) (f : Fields) : Statement (.fnth t sat f) := of_mkRaw rfl rfl
theorem brev (t : Ty) (sat : Bool) (f : Fields) : Statement (.brev t sat f) := of_mkRaw rfl rfl
theorem cmp (t : Ty) (c : Cond) (f : Fields) : Statement (.cmp t c f) := of_mkRaw rfl rfl
theorem sel (t : Ty) (f : Fields) : Statement (.sel t f) := of_mkRaw rfl rfl
theorem moviB32 (f : Fields) : Statement (.moviB32 f) := of_mkRaw rfl rfl
theorem moviB64I (f : Fields) : Statement (.moviB64I f) := of_mkRaw rfl rfl
theorem moviB64W (x : Quad) (f : Fields) : Statement (.moviB64W x f) := of_mkRaw rfl rfl
theorem pand (na nb : Bool) (f : Fields) : Statement (.pand na nb f) := of_mkRaw rfl rfl
theorem por (na nb : Bool) (f : Fields) : Statement (.por na nb f) := of_mkRaw rfl rfl
theorem pxor (na nb : Bool) (f : Fields) : Statement (.pxor na nb f) := of_mkRaw rfl rfl
theorem pnot (f : Fields) : Statement (.pnot f) := of_mkRaw rfl rfl
theorem pmov (f : Fields) : Statement (.pmov f) := of_mkRaw rfl rfl
theorem ppack (grp : BitVec 2) (f : Fields) : Statement (.ppack grp f) := of_mkRaw rfl rfl
theorem punpack (grp : BitVec 2) (f : Fields) : Statement (.punpack grp f) := of_mkRaw rfl rfl
theorem voteAll (f : Fields) : Statement (.voteAll f) := of_mkRaw rfl rfl
theorem voteAny (f : Fields) : Statement (.voteAny f) := of_mkRaw rfl rfl
theorem voteUni (f : Fields) : Statement (.voteUni f) := of_mkRaw rfl rfl
theorem ballot (f : Fields) : Statement (.ballot f) := of_mkRaw rfl rfl
theorem shfl (t : Ty) (mode : ShflMode) (f : Fields) : Statement (.shfl t mode f) := of_mkRaw rfl rfl
theorem redux (t : Ty) (rop : BitVec 3) (f : Fields) : Statement (.redux t rop f) := of_mkRaw rfl rfl
theorem elect (f : Fields) : Statement (.elect f) := of_mkRaw rfl rfl
theorem lmov (t : Ty) (f : Fields) : Statement (.lmov t f) := of_mkRaw rfl rfl
theorem zip2 (t : Ty) (f : Fields) : Statement (.zip2 t f) := of_mkRaw rfl rfl
theorem zip3 (t : Ty) (f : Fields) : Statement (.zip3 t f) := of_mkRaw rfl rfl
theorem zip4 (t : Ty) (f : Fields) : Statement (.zip4 t f) := of_mkRaw rfl rfl
theorem unzip2 (t : Ty) (f : Fields) : Statement (.unzip2 t f) := of_mkRaw rfl rfl
theorem unzip3 (t : Ty) (f : Fields) : Statement (.unzip3 t f) := of_mkRaw rfl rfl
theorem unzip4 (t : Ty) (f : Fields) : Statement (.unzip4 t f) := of_mkRaw rfl rfl
theorem fadd (t : Ty) (rm : RMode) (f : Fields) : Statement (.fadd t rm f) := of_mkRaw rfl rfl
theorem fsub (t : Ty) (rm : RMode) (f : Fields) : Statement (.fsub t rm f) := of_mkRaw rfl rfl
theorem fmul (t : Ty) (rm : RMode) (f : Fields) : Statement (.fmul t rm f) := of_mkRaw rfl rfl
theorem fma (t : Ty) (rm : RMode) (f : Fields) : Statement (.fma t rm f) := of_mkRaw rfl rfl
theorem fmin (t : Ty) (f : Fields) : Statement (.fmin t f) := of_mkRaw rfl rfl
theorem fmax (t : Ty) (f : Fields) : Statement (.fmax t f) := of_mkRaw rfl rfl
theorem fdiv (t : Ty) (rm : RMode) (f : Fields) : Statement (.fdiv t rm f) := of_mkRaw rfl rfl
theorem fsqrt (t : Ty) (rm : RMode) (f : Fields) : Statement (.fsqrt t rm f) := of_mkRaw rfl rfl
theorem fcmp (t : Ty) (c : Cond) (f : Fields) : Statement (.fcmp t c f) := of_mkRaw rfl rfl
theorem fsel (t : Ty) (f : Fields) : Statement (.fsel t f) := of_mkRaw rfl rfl
theorem fclass (t : Ty) (f : Fields) : Statement (.fclass t f) := of_mkRaw rfl rfl
theorem frcp (t : Ty) (rm : RMode) (f : Fields) : Statement (.frcp t rm f) := of_mkRaw rfl rfl
theorem frsq (t : Ty) (rm : RMode) (f : Fields) : Statement (.frsq t rm f) := of_mkRaw rfl rfl
theorem fexp2 (t : Ty) (rm : RMode) (f : Fields) : Statement (.fexp2 t rm f) := of_mkRaw rfl rfl
theorem flog2 (t : Ty) (rm : RMode) (f : Fields) : Statement (.flog2 t rm f) := of_mkRaw rfl rfl
theorem fscale (t : Ty) (rm : RMode) (f : Fields) : Statement (.fscale t rm f) := of_mkRaw rfl rfl
theorem frnd (t : Ty) (rm : RMode) (f : Fields) : Statement (.frnd t rm f) := of_mkRaw rfl rfl
theorem fsin (t : Ty) (rm : RMode) (f : Fields) : Statement (.fsin t rm f) := of_mkRaw rfl rfl
theorem fcos (t : Ty) (rm : RMode) (f : Fields) : Statement (.fcos t rm f) := of_mkRaw rfl rfl
theorem cvt (td ts : Ty) (sat : Bool) (f : Fields) : Statement (.cvt td ts sat f) := of_mkRaw rfl rfl
theorem fcvt (td ts : Ty) (rm : RMode) (f : Fields) : Statement (.fcvt td ts rm f) := of_mkRaw rfl rfl
theorem linkDigitDelivery (crew tid link : Nat) : Statement (.linkDigitDelivery crew tid link) := of_none rfl
theorem ldp (t : Ty) (vec : Vec) (m : MemExt) (f : Fields) : Statement (.ldp t vec m f) := of_mkRaw rfl rfl
theorem stp (t : Ty) (vec : Vec) (m : MemExt) (f : Fields) : Statement (.stp t vec m f) := of_mkRaw rfl rfl
theorem lds (t : Ty) (vec : Vec) (m : MemExt) (f : Fields) : Statement (.lds t vec m f) := of_mkRaw rfl rfl
theorem sts (t : Ty) (vec : Vec) (m : MemExt) (f : Fields) : Statement (.sts t vec m f) := of_mkRaw rfl rfl
theorem ldv (t : Ty) (vec : Vec) (m : MemExt) (f : Fields) : Statement (.ldv t vec m f) := of_mkRaw rfl rfl
theorem stv (t : Ty) (vec : Vec) (m : MemExt) (f : Fields) : Statement (.stv t vec m f) := of_mkRaw rfl rfl
theorem ldg (t : Ty) (vec : Vec) (m : MemExt) (f : Fields) : Statement (.ldg t vec m f) := of_mkRaw rfl rfl
theorem stg (t : Ty) (vec : Vec) (m : MemExt) (f : Fields) : Statement (.stg t vec m f) := of_mkRaw rfl rfl
theorem ldf (t : Ty) (vec : Vec) (m : MemExt) (f : Fields) : Statement (.ldf t vec m f) := of_mkRaw rfl rfl
theorem stf (t : Ty) (vec : Vec) (m : MemExt) (f : Fields) : Statement (.stf t vec m f) := of_mkRaw rfl rfl
theorem ldd (t : Ty) (m : MemExt) (f : Fields) : Statement (.ldd t m f) := of_mkRaw rfl rfl
theorem std (t : Ty) (m : MemExt) (f : Fields) : Statement (.std t m f) := of_mkRaw rfl rfl
theorem pfg (m : MemExt) (f : Fields) : Statement (.pfg m f) := of_mkRaw rfl rfl
theorem pfgLlc (m : MemExt) (f : Fields) : Statement (.pfgLlc m f) := of_mkRaw rfl rfl
theorem fenceAcq (f : Fields) : Statement (.fenceAcq f) := of_mkRaw rfl rfl
theorem fenceRel (f : Fields) : Statement (.fenceRel f) := of_mkRaw rfl rfl
theorem fenceAr (f : Fields) : Statement (.fenceAr f) := of_mkRaw rfl rfl
theorem bar (f : Fields) : Statement (.bar f) := of_mkRaw rfl rfl
theorem memoryReturn (id : Nat) : Statement (.memoryReturn id) := of_none rfl
theorem atms (t : Ty) (op : AOp) (m : MemExt) (f : Fields) : Statement (.atms t op m f) := of_mkRaw rfl rfl
theorem atmv (t : Ty) (op : AOp) (m : MemExt) (f : Fields) : Statement (.atmv t op m f) := of_mkRaw rfl rfl
theorem atmg (t : Ty) (op : AOp) (m : MemExt) (f : Fields) : Statement (.atmg t op m f) := of_mkRaw rfl rfl
theorem atmf (t : Ty) (op : AOp) (m : MemExt) (f : Fields) : Statement (.atmf t op m f) := of_mkRaw rfl rfl
theorem swinit (m : MemExt) (f : Fields) : Statement (.swinit m f) := of_mkRaw rfl rfl
theorem swarrive (m : MemExt) (f : Fields) : Statement (.swarrive m f) := of_mkRaw rfl rfl
theorem swait (m : MemExt) (f : Fields) : Statement (.swait m f) := of_mkRaw rfl rfl
theorem cpy (qpri : BitVec 2) (f : Fields) : Statement (.cpy qpri f) := of_mkRaw rfl rfl
theorem copyGranule (crew entry : Nat) : Statement (.copyGranule crew entry) := of_none rfl
theorem cpyq (f : Fields) : Statement (.cpyq f) := of_mkRaw rfl rfl
theorem tld (space : TSpace) (stride : BitVec 16) (disp : BitVec 32) (f : Fields) : Statement (.tld space stride disp f) := of_mkRaw rfl rfl
theorem tileLoadComplete (crew id : Nat) : Statement (.tileLoadComplete crew id) := of_none rfl
theorem tst (space : TSpace) (stride : BitVec 16) (disp : BitVec 32) (f : Fields) : Statement (.tst space stride disp f) := of_mkRaw rfl rfl
theorem tileStoreReadDone (crew id : Nat) : Statement (.tileStoreReadDone crew id) := of_none rfl
theorem tzero (f : Fields) : Statement (.tzero f) := of_mkRaw rfl rfl
theorem mmx (mpri : BitVec 2) (f : Fields) : Statement (.mmx mpri f) := of_mkRaw rfl rfl
theorem matrixPassGrant (quad : Nat) : Statement (.matrixPassGrant quad) := of_none rfl
theorem matrixPassEnd (quad : Nat) : Statement (.matrixPassEnd quad) := of_none rfl
theorem mmq (f : Fields) : Statement (.mmq f) := of_mkRaw rfl rfl
theorem csrr (num : BitVec 12) (f : Fields) : Statement (.csrr num f) := of_mkRaw rfl rfl
theorem csrw (num : BitVec 12) (f : Fields) : Statement (.csrw num f) := of_mkRaw rfl rfl
theorem trap (code : BitVec 16) (f : Fields) : Statement (.trap code f) := of_mkRaw rfl rfl
theorem assert (msg : Word) (f : Fields) : Statement (.assert msg f) := of_mkRaw rfl rfl
theorem brk (code : BitVec 16) (f : Fields) : Statement (.brk code f) := of_mkRaw rfl rfl
theorem rte (f : Fields) : Statement (.rte f) := of_mkRaw rfl rfl
theorem lrd (kind : BitVec 3) (f : Fields) : Statement (.lrd kind f) := of_mkRaw rfl rfl
theorem lwr (kind : BitVec 3) (f : Fields) : Statement (.lwr kind f) := of_mkRaw rfl rfl
theorem time (f : Fields) : Statement (.time f) := of_mkRaw rfl rfl
theorem timeOrd (f : Fields) : Statement (.timeOrd f) := of_mkRaw rfl rfl
theorem cstep (f : Fields) : Statement (.cstep f) := of_mkRaw rfl rfl
theorem vgat (f : Fields) : Statement (.vgat f) := of_mkRaw rfl rfl
theorem dmov (f : Fields) : Statement (.dmov f) := of_mkRaw rfl rfl
theorem lcpy (n : BitVec 5) (f : Fields) : Statement (.lcpy n f) := of_mkRaw rfl rfl
theorem microStep (crew warp : Nat) : Statement (.microStep crew warp) := of_none rfl
theorem illegalInstruction (cause : BitVec 8) (tval : Quad) : Statement (.illegalInstruction cause tval) := of_none rfl
theorem poolCycle (crew : Nat) : Statement (.poolCycle crew) := of_none rfl
theorem laneRefill (crew warp lane : Nat) : Statement (.laneRefill crew warp lane) := of_none rfl
theorem idleHandoff (crew warp entry : Nat) : Statement (.idleHandoff crew warp entry) := of_none rfl
theorem pageWalk (die ctx va : Nat) (kind : Access) : Statement (.pageWalk die ctx va kind) := of_none rfl
theorem pageRequest (die ctx vpage : Nat) : Statement (.pageRequest die ctx vpage) := of_none rfl
theorem prgResponse (prgi : Nat) (code : PrgCode) : Statement (.prgResponse prgi code) := of_none rfl
theorem atsInvalidateRequest (pasid : BitVec 20) (addr : Quad) (pages : Nat) : Statement (.atsInvalidateRequest pasid addr pages) := of_none rfl
theorem invalidateRange (ctx : BitVec 8) (addr : Quad) (count : BitVec 20) : Statement (.invalidateRange ctx addr count) := of_none rfl
theorem invalidateContext (ctx : BitVec 8) : Statement (.invalidateContext ctx) := of_none rfl
theorem invalidateAll : Statement (.invalidateAll) := of_none rfl
theorem invalidationComplete : Statement (.invalidationComplete) := of_none rfl
theorem migrationGo (slot : Nat) : Statement (.migrationGo slot) := of_none rfl
theorem migrationLineCopy (slot : Nat) : Statement (.migrationLineCopy slot) := of_none rfl
theorem migrationEnd (slot : Nat) : Statement (.migrationEnd slot) := of_none rfl
theorem mcCommit (stack ch : Nat) : Statement (.mcCommit stack ch) := of_none rfl
theorem channelSlot (stack ch : Nat) : Statement (.channelSlot stack ch) := of_none rfl
theorem stopSaveContext (ctx : Nat) (reason : BitVec 4) : Statement (.stopSaveContext ctx reason) := of_none rfl
theorem stopSaveCrew (ctx : Nat) (pos : BitVec 23) (reason : BitVec 4) : Statement (.stopSaveCrew ctx pos reason) := of_none rfl
theorem stopInPlace (ctx : Nat) (reason : BitVec 4) : Statement (.stopInPlace ctx reason) := of_none rfl
theorem resumeInPlace (ctx : Nat) : Statement (.resumeInPlace ctx) := of_none rfl
theorem stopComplete (ctx : Nat) : Statement (.stopComplete ctx) := of_none rfl
theorem debugHalt (ctx : Nat) : Statement (.debugHalt ctx) := of_none rfl
theorem debugResume (ctx : Nat) : Statement (.debugResume ctx) := of_none rfl
theorem discardPendingTraps (ctx : Nat) : Statement (.discardPendingTraps ctx) := of_none rfl
theorem dumpRequest (ctx : Nat) : Statement (.dumpRequest ctx) := of_none rfl
theorem ckptEnable (ctx : Nat) : Statement (.ckptEnable ctx) := of_none rfl
theorem ckptCut (ctx : Nat) : Statement (.ckptCut ctx) := of_none rfl
theorem ckptFull (ctx : Nat) : Statement (.ckptFull ctx) := of_none rfl
theorem timerTrigger (ctx : Nat) : Statement (.timerTrigger ctx) := of_none rfl
theorem intervalCut (ctx : Nat) : Statement (.intervalCut ctx) := of_none rfl
theorem protectedUnitWrite (ctx unit : Nat) : Statement (.protectedUnitWrite ctx unit) := of_none rfl
theorem shardStream (ctx : Nat) : Statement (.shardStream ctx) := of_none rfl
theorem indexWaitTimeout (ctx : Nat) : Statement (.indexWaitTimeout ctx) := of_none rfl
theorem intervalSeal (ctx : Nat) : Statement (.intervalSeal ctx) := of_none rfl
theorem costUpdate : Statement (.costUpdate) := of_none rfl
theorem restore (ctx : BitVec 8) : Statement (.restore ctx) := of_none rfl
theorem gangSwitchOut : Statement (.gangSwitchOut) := of_none rfl
theorem gangInstant : Statement (.gangInstant) := of_none rfl
theorem sweepSealed : Statement (.sweepSealed) := of_none rfl
theorem gangClose : Statement (.gangClose) := of_none rfl
theorem gangSwitchIn : Statement (.gangSwitchIn) := of_none rfl
theorem fabricLoadRequest (port vl : Nat) : Statement (.fabricLoadRequest port vl) := of_none rfl
theorem fabricStoreRequest (port vl : Nat) : Statement (.fabricStoreRequest port vl) := of_none rfl
theorem fabricAtomicRequest (port vl : Nat) : Statement (.fabricAtomicRequest port vl) := of_none rfl
theorem fabricReply (port vl : Nat) : Statement (.fabricReply port vl) := of_none rfl
theorem fabricNegativeReply (port vl : Nat) : Statement (.fabricNegativeReply port vl) := of_none rfl
theorem ready (job : Half) (peer : BitVec 12) : Statement (.ready job peer) := of_none rfl
theorem notready (job : Half) (peer : BitVec 12) : Statement (.notready job peer) := of_none rfl
theorem timeExchange : Statement (.timeExchange) := of_none rfl
theorem fabDomainWrite (v : Bool) (num : BitVec 12) : Statement (.fabDomainWrite v num) := of_none rfl
theorem portTraining (port : Nat) (ok : Bool) : Statement (.portTraining port ok) := of_none rfl
theorem ueDirtyLlcLine (line : Nat) (set : BitVec 10) (way det : BitVec 4) : Statement (.ueDirtyLlcLine line set way det) := of_none rfl
theorem ueCleanLlcLine (line : Nat) (set : BitVec 10) (way det : BitVec 4) : Statement (.ueCleanLlcLine line set way det) := of_none rfl
theorem ueDramGranule (addr : Nat) (reader : ErrReader) : Statement (.ueDramGranule addr reader) := of_none rfl
theorem ueVaultLine (quad off : Nat) : Statement (.ueVaultLine quad off) := of_none rfl
theorem ueCrewState (crew : Nat) (part : CrewPart) : Statement (.ueCrewState crew part) := of_none rfl
theorem rollback (ctx : Nat) : Statement (.rollback ctx) := of_none rfl
theorem scrubGranule (stack : Nat) : Statement (.scrubGranule stack) := of_none rfl
theorem coreSpareMap (die quadrant : Nat) (v : Bool) (core : BitVec 4) : Statement (.coreSpareMap die quadrant v core) := of_none rfl
theorem dieFence (dies : BitVec 10) : Statement (.dieFence dies) := of_none rfl
theorem stackFenceGo (stack : BitVec 4) : Statement (.stackFenceGo stack) := of_none rfl
theorem stackFenceEnd : Statement (.stackFenceEnd) := of_none rfl
theorem doorbell (q : Nat) (x : Quad) : Statement (.doorbell q x) := of_none rfl
theorem queueEnable (q : Nat) (log2 : BitVec 5) : Statement (.queueEnable q log2) := of_none rfl
theorem queueExamination : Statement (.queueExamination) := of_none rfl
theorem sorrelEnd : Statement (.sorrelEnd) := of_none rfl
theorem sorrelLi (ka : BitVec 3) (imm : BitVec 21) : Statement (.sorrelLi ka imm) := of_none rfl
theorem sorrelPkw (ka : BitVec 3) (n : BitVec 21) : Statement (.sorrelPkw ka n) := of_none rfl
theorem sorrelLdw (ka kb : BitVec 3) (w : BitVec 2) (off : BitVec 19) : Statement (.sorrelLdw ka kb w off) := of_none rfl
theorem sorrelStw (ka kb : BitVec 3) (w : BitVec 2) (off : BitVec 19) : Statement (.sorrelStw ka kb w off) := of_none rfl
theorem sorrelAdd (ka kb : BitVec 3) (imm : BitVec 21) : Statement (.sorrelAdd ka kb imm) := of_none rfl
theorem sorrelAddk (ka kb : BitVec 3) : Statement (.sorrelAddk ka kb) := of_none rfl
theorem sorrelAndi (ka kb : BitVec 3) (imm : BitVec 21) : Statement (.sorrelAndi ka kb imm) := of_none rfl
theorem sorrelShr (ka kb : BitVec 3) (imm : BitVec 21) : Statement (.sorrelShr ka kb imm) := of_none rfl
theorem sorrelBz (ka : BitVec 3) (n : BitVec 21) : Statement (.sorrelBz ka n) := of_none rfl
theorem sorrelBnz (ka : BitVec 3) (n : BitVec 21) : Statement (.sorrelBnz ka n) := of_none rfl
theorem sorrelRep (n : BitVec 7) (len : BitVec 5) : Statement (.sorrelRep n len) := of_none rfl
theorem sorrelCst (c : BitVec 6) (ka : BitVec 3) : Statement (.sorrelCst c ka) := of_none rfl
theorem sorrelDep (ka : BitVec 3) : Statement (.sorrelDep ka) := of_none rfl
theorem sorrelCond (kb : BitVec 3) (w : BitVec 2) (off : BitVec 19) : Statement (.sorrelCond kb w off) := of_none rfl
theorem sorrelEmit (w : BitVec 2) (off : BitVec 19) : Statement (.sorrelEmit w off) := of_none rfl
theorem nodeResolve (node : Nat) : Statement (.nodeResolve node) := of_none rfl
theorem bindCommit (core slot : Nat) (q0 q1 : Quad) : Statement (.bindCommit core slot q0 q1) := of_none rfl
theorem schedStart (launch : Word) : Statement (.schedStart launch) := of_none rfl
theorem launchComplete (launch : Word) : Statement (.launchComplete launch) := of_none rfl
theorem boot (bad : List Nat) (hostOk : Bool) : Statement (.boot bad hostOk) := of_none rfl
theorem firmwareImageUpdate (cls : Nat) (image sig : List Byte) : Statement (.firmwareImageUpdate cls image sig) := of_none rfl
theorem bankSwitch (cls : Nat) : Statement (.bankSwitch cls) := of_none rfl
theorem resetContext (ctx : Nat) : Statement (.resetContext ctx) := of_none rfl
theorem resetCore (core : Nat) : Statement (.resetCore core) := of_none rfl
theorem resetMatrixEngine (quad : Nat) : Statement (.resetMatrixEngine quad) := of_none rfl
theorem resetCopyEngine (quad : Nat) : Statement (.resetCopyEngine quad) := of_none rfl
theorem resetComputeDie (die : Nat) : Statement (.resetComputeDie die) := of_none rfl
theorem resetMemoryStack (stack : Nat) : Statement (.resetMemoryStack stack) := of_none rfl
theorem resetFabricPort (port : Nat) : Statement (.resetFabricPort port) := of_none rfl
theorem resetFabricDie (die : Nat) : Statement (.resetFabricDie die) := of_none rfl
theorem resetCommandPath : Statement (.resetCommandPath) := of_none rfl
theorem resetManagementComplex : Statement (.resetManagementComplex) := of_none rfl
theorem resetHostDieFunctions : Statement (.resetHostDieFunctions) := of_none rfl
theorem resetPackage : Statement (.resetPackage) := of_none rfl
theorem watchdogExpiry : Statement (.watchdogExpiry) := of_none rfl
theorem hostFlr : Statement (.hostFlr) := of_none rfl
theorem linkErrorLimit (port : Nat) : Statement (.linkErrorLimit port) := of_none rfl
theorem junctionThrottle (island : Nat) : Statement (.junctionThrottle island) := of_none rfl
theorem junctionTrip (socket : Nat) : Statement (.junctionTrip socket) := of_none rfl
theorem telemetryPeriodic (schema : Nat) : Statement (.telemetryPeriodic schema) := of_none rfl
theorem registerWrite (addr : Nat) (wide : Bool) (x : Quad) : Statement (.registerWrite addr wide x) := of_none rfl
theorem stackFenceGranuleCopy : Statement (.stackFenceGranuleCopy) := of_none rfl
theorem priStoppedClear : Statement (.priStoppedClear) := of_none rfl
theorem atsCompletion (pasid : BitVec 20) (page host : Nat) : Statement (.atsCompletion pasid page host) := of_none rfl
theorem contextImageRestore (ctx : Nat) (addr : Nat) : Statement (.contextImageRestore ctx addr) := of_none rfl
theorem standbyEntry : Statement (.standbyEntry) := of_none rfl

end Sys2Proof.Laws.OperandsEncoded
end

