-- ==== Sys2Proof/Laws/PhysMem.lean ====
section
/-! SUPPORT. A write of physical memory, of bytes or of a span, keeps memory canonical and touches no crew. -/
namespace Sys2Proof.Machine

/-- What the operations of a write keep: canonical memory, and the crews as they are. -/
structure Keeps (s t : State) : Prop where
  wf : s.mem.wf = true → t.mem.wf = true
  crews : t.crews = s.crews

theorem Keeps.rfl' (s : State) : Keeps s s := ⟨id, rfl⟩
theorem Keeps.trans {s t u : State} (h : Keeps s t) (g : Keeps t u) : Keeps s u := ⟨fun x => g.wf (h.wf x), g.crews.trans h.crews⟩
theorem Keeps.foldl {α : Type} (f : State → α → State) (hf : ∀ s x, Keeps s (f s x)) : ∀ (l : List α) (s : State), Keeps s (l.foldl f s)
  | [], s => Keeps.rfl' s
  | x :: l, s => (hf s x).trans (Keeps.foldl f hf l (f s x))

theorem putByte_keeps (s : State) (k : Nat) (b : Byte) : Keeps s (s.putByte k b) := by
  refine ⟨fun h => ?_, rfl⟩
  have h1 := Mem.write_wf s.mem (s.backing (s.service k)) b h
  have h2 : ∀ m : Mem, m.wf = true → Mem.wf (match s.migOf (s.service k) with
      | some g => if (s.service k - g.src) / 128 < g.copied then m.write (s.backing (g.dst + s.service k % 32768)) b else m
      | none => m) = true := by
    intro m hm
    split
    · split
      · exact Mem.write_wf _ _ _ hm
      · exact hm
    · exact hm
  unfold State.putByte
  simp only
  split
  · exact Mem.write_wf _ _ _ (h2 _ h1)
  · exact h2 _ h1
theorem putBytes_keeps (s : State) (k : Nat) (bs : List Byte) : Keeps s (s.putBytes k bs) := by
  unfold State.putBytes
  exact Keeps.foldl (fun s (x : Byte × Nat) => s.putByte (k + x.2) x.1) (fun s x => putByte_keeps s (k + x.2) x.1) bs.zipIdx s
theorem setDev_keeps (s : State) (a : Nat) (v : Quad) : Keeps s (s.setDev a v) := ⟨id, rfl⟩
theorem setCtx_keeps (s : State) (x : Ctx) : Keeps s (s.setCtx x) := ⟨id, rfl⟩
theorem store_keeps (s : State) (a : Nat) (bs : List Byte) : Keeps s { s with mem := s.mem.store a bs } :=
  ⟨fun h => Mem.store_wf bs _ _ h, rfl⟩
theorem liftProtection_keeps (s : State) (ctx : Nat) (u : CkUnit) : Keeps s (liftProtection s ctx u) := by
  unfold liftProtection
  simp only
  split
  · exact Keeps.rfl' s
  · split
    · rename_i h
      simp only [h]
      exact (store_keeps s _ _).trans (setCtx_keeps _ _)
    · rename_i h
      simp only [h]
      exact setCtx_keeps _ _
theorem liftAll_keeps (s : State) (k : Nat) : Keeps s (liftAll s k) := by
  unfold liftAll
  exact Keeps.foldl (fun s (p : Nat × CkUnit) => liftProtection s p.1 p.2) (fun s p => liftProtection_keeps s p.1 p.2) (s.protections k) s
theorem logWrite_keeps (s : State) (ctx line : Nat) : Keeps s (logWrite s ctx line) := by
  unfold logWrite
  simp only
  split
  · exact Keeps.rfl' s
  · split
    · exact setDev_keeps _ _ _
    · exact (putBytes_keeps s _ _).trans ((setDev_keeps _ _ _).trans (setCtx_keeps _ _))
theorem ownLine_keeps (s : State) (ctx line : Nat) : Keeps s (ownLine s ctx line) := by
  unfold ownLine
  simp only
  split
  · exact Keeps.rfl' s
  · split
    · split
      · exact Keeps.rfl' s
      · exact ⟨id, rfl⟩
    · exact ⟨id, rfl⟩
theorem markDirty_keeps (s : State) (ctx : Nat) (u : CkUnit) : Keeps s (markDirty s ctx u) := by
  have h := (markDirty_frame s ctx u).1
  have h1 := congrArg State.mem h
  have h2 := congrArg State.crews h
  simp only at h1 h2
  exact ⟨fun x => h1 ▸ x, h2⟩
theorem cleanLine_keeps (s : State) (line : Nat) : Keeps s (cleanLine s line) := ⟨id, rfl⟩
theorem revokeL1_keeps (s : State) (c : Option Nat) (k n : Nat) : Keeps s (revokeL1 s c k n) := ⟨id, rfl⟩
theorem breakLock_keeps (s : State) (k n : Nat) : Keeps s (breakLock s k n) := by
  unfold breakLock
  split
  · exact Keeps.rfl' s
  · exact ⟨id, rfl⟩
theorem ownSpan_keeps (s : State) (ctx : Option Nat) (a n : Nat) : Keeps s (ownSpan s ctx a n) := by
  unfold ownSpan
  split
  · split
    · exact Keeps.rfl' s
    · exact Keeps.foldl (fun s i => ownLine s _ _) (fun s _ => ownLine_keeps s _ _) _ s
  · exact ⟨id, rfl⟩
/-- A span written by a unit of the module keeps memory canonical and touches no crew. -/
theorem spanWrite_keeps (s : State) (ctx : Option Nat) (k n : Nat) (x : Mem) (hx : x.wf = true) : Keeps s (s.spanWrite ctx k n x) := by
  unfold State.spanWrite
  refine (Keeps.foldl (fun s (u : Nat × CkUnit) => liftProtection s u.1 u.2) (fun s u => liftProtection_keeps s u.1 u.2) (s.spanUnits k n) s).trans ?_
  generalize List.foldl (fun s (u : Nat × CkUnit) => liftProtection s u.1 u.2) s (s.spanUnits k n) = t
  refine (Keeps.foldl (fun s (p : Nat × Nat) => revokeSpan (ownSpan (breakLock s p.1 p.2) ctx p.1 p.2) p.1 p.2)
    (fun s p => (breakLock_keeps s p.1 p.2).trans ((ownSpan_keeps _ ctx p.1 p.2).trans ⟨id, rfl⟩)) (t.pieces k n) t).trans ?_
  have put (u : State) (r : Ras) (bs : List Byte) : Keeps u ({ u with ras := r }.putBytes k bs) :=
    Keeps.trans (t := { u with ras := r }) ⟨id, rfl⟩ (putBytes_keeps _ k bs)
  simp only
  split
  · exact ⟨fun h => Mem.overwrite_wf _ k n x h hx, rfl⟩
  · exact put _ _ _
/-- So does one that is kept back. -/
theorem writeFor_keeps (s : State) (ctx : Option Nat) (k n : Nat) (x : Mem) (hx : x.wf = true) : Keeps s (s.writeFor ctx k n x) := by
  unfold State.writeFor
  split
  · exact ⟨id, rfl⟩
  · exact spanWrite_keeps s ctx k n x hx
theorem blockWrite_keeps (s : State) (k n : Nat) (x : Mem) (hx : x.wf = true) : Keeps s (s.blockWrite k n x) := writeFor_keeps s none k n x hx
/-- Writes that waited keep memory canonical where their bytes are. -/
theorem settleWrites_keeps (s : State) (hx : ∀ h ∈ s.lateWrites, h.data.wf = true) : Keeps s (settleWrites s) := by
  unfold settleWrites
  split
  · exact Keeps.rfl' s
  · have go : ∀ (l : List HeldWrite) (t : State), (∀ h ∈ l, h.data.wf = true) →
        Keeps t (l.foldl (fun s h => s.writeFor h.ctx h.key h.len h.data) t) := by
      intro l
      induction l with
      | nil => exact fun t _ => Keeps.rfl' t
      | cons h l ih => exact fun t hl => (writeFor_keeps t h.ctx h.key h.len h.data (hl h List.mem_cons_self)).trans (ih _ fun y hy => hl y (List.mem_cons_of_mem _ hy))
    exact Keeps.trans (t := { s with lateWrites := [] }) ⟨id, rfl⟩ (go s.lateWrites _ hx)
/-- A physical write keeps memory canonical and touches no crew. -/
theorem physWrite_keeps (s : State) (ctx vp core : Option Nat) (k : Nat) (bs : List Byte) : Keeps s (physWrite s ctx vp core k bs) := by
  have mid : ∀ (t : State) (a : Nat), Keeps t (match ctx with
      | some c =>
        let u := ownLine (logWrite t c (a / 128 * 128)) c (a / 128 * 128)
        match unitOf (u.ctx c) vp a with
        | some x => markDirty u c x
        | none => u
      | none => cleanLine t (a / 128 * 128)) := by
    intro t a
    split
    · rename_i c
      have h : Keeps t (ownLine (logWrite t c (a / 128 * 128)) c (a / 128 * 128)) := (logWrite_keeps t c _).trans (ownLine_keeps _ c _)
      simp only
      split
      · exact h.trans (markDirty_keeps _ _ _)
      · exact h
    · exact cleanLine_keeps t _
  exact (liftAll_keeps s k).trans ((mid _ _).trans ((breakLock_keeps _ _ _).trans ((revokeL1_keeps _ _ _ _).trans (putBytes_keeps _ _ _))))

end Sys2Proof.Machine
end

