-- ==== Sys2Proof/Machine/Omlyn.lean ====
section
/-! DEFINITION. The loader `omload`, which turns an Omlyn object into what a launch needs: code, data, priority map and
kernel descriptor (R54, R62, R69, R78 to R80, R83, R390). It is software of the host, which writes the result into memory
by `Move.hostWrite`; log entry 126 says what it chooses. -/
namespace Sys2Proof.Machine

/-! ### Placement of words: R54, R55 -/

/-- R54: the address of a word of `len` bytes when the assembler is at `at`. -/
def placeWord (pc len : Nat) : Nat :=
  let o := pc % 32
  if o + len ≤ 32 ∧ 32 - (o + len) ≠ 4 then pc else pc + (32 - o)
/-- R54: the addresses of words of the given lengths, and where the last one ends. -/
def placeWords : Nat → List Nat → List Nat × Nat
  | pc, [] => ([], pc)
  | pc, len :: r =>
    let a := placeWord pc len
    let x := placeWords (a + len) r
    (a :: x.1, x.2)
/-- R55: the canonical 64-bit `nop`. -/
def nopBytes : List Byte := leBytes 8 0x003FFFFFFFFDFC04
/-- R54: a fill of g bytes, g a multiple of 4 and not 4: one 96-bit `nop` first where g mod 8 is 4. -/
def nopFill (g : Nat) : List Byte :=
  let short (n : Nat) : List Byte := (List.replicate n nopBytes).flatten
  if g % 8 = 4 then leBytes 12 0x003FFFFFFFFDFC05 ++ short ((g - 12) / 8) else short (g / 8)
/-- The bytes of placed words, each after the fill before it, and the last block filled (`.end`). -/
def emitWords : Nat → List (Nat × Nat × Nat) → List Byte
  | pc, [] => nopFill ((32 - pc % 32) % 32)
  | pc, (a, len, w) :: r => nopFill (a - pc) ++ leBytes len w ++ emitWords (a + len) r

/-! ### Units: R79, R80 -/

/-- R79, R80: an instruction of an object: the index and the opcode of its unit, its Arben word before R62's rewrite, and the word's
length. -/
structure OmlynInstr where
  unit : Nat
  opc : Nat
  word : BitVec 128
  len : Nat
  deriving DecidableEq, Repr
/-- A word that raises cause 0x03: a `nop` with a reserved guard (R56, R68). -/
def reservedWord : BitVec 128 := 0x003FFFFFFFFD8004
/-- R79, R80: the Arben word of a unit, with its extension unit; `bad` for an extension whose upper half is not zero. -/
def omlynWord (sh : Shape) (u ext : Quad) (len : BitVec 2) (bad : Bool) : BitVec 128 × Nat :=
  let copy : BitVec 128 := ext ++ ((u <<< 2) ||| len.setWidth 64)
  let op := (u.extractLsb' 0 8).toNat
  if 0xE0 ≤ op ∧ op ≤ 0xE2 then (0, 8)
  else match decode sh 0 copy with
    | .error .opcode | .error .function => (copy, lenBytes len)
    | _ => if bad then (reservedWord, 8) else (copy, lenBytes len)
/-- R68, R80, R83: the word of a unit with XW 11: an opcode or a function that no length has comes before the reserved field. -/
def reservedUnit (u : Quad) : BitVec 128 × Nat :=
  let op := (u.extractLsb' 0 8).toNat
  if !opAssigned op ∨ (0xE0 ≤ op ∧ op ≤ 0xE2) then (0, 8)
  else match [0, 1, 2].find? fun l => lenLegal op l with
    | some l =>
      if [0, 1, 2].any fun l => lenLegal op l && fnLegal op l (u.extractLsb' 55 7).toNat 0 then (reservedWord, 8)
      else ((u <<< 2 ||| BitVec.ofNat 64 l).setWidth 128, lenBytes (BitVec.ofNat 2 l))
    | none => (0, 8)
/-- R79: the instructions of a list of units; none where a unit's extension is missing. -/
def omlynInstrs (sh : Shape) : Nat → List Quad → Option (List OmlynInstr)
  | _, [] => some []
  | n, [u] =>
    let op := (u.extractLsb' 0 8).toNat
    match (u.extractLsb' 62 2).toNat with
    | 0 => some [⟨n, op, (omlynWord sh u 0 0 false).1, (omlynWord sh u 0 0 false).2⟩]
    | 3 => some [⟨n, op, (reservedUnit u).1, (reservedUnit u).2⟩]
    | _ => none
  | n, u :: x :: r =>
    let put (p : BitVec 128 × Nat) (l : Option (List OmlynInstr)) : Option (List OmlynInstr) :=
      l.map (⟨n, (u.extractLsb' 0 8).toNat, p.1, p.2⟩ :: ·)
    match (u.extractLsb' 62 2).toNat with
    | 0 => put (omlynWord sh u 0 0 false) (omlynInstrs sh (n + 1) (x :: r))
    | 1 => put (omlynWord sh u (x &&& 0xFFFFFFFF) 1 (decide (2 ^ 32 ≤ x.toNat))) (omlynInstrs sh (n + 2) r)
    | 2 => put (omlynWord sh u x 2 false) (omlynInstrs sh (n + 2) r)
    | _ => put (reservedUnit u) (omlynInstrs sh (n + 1) (x :: r))
/-- The opcode of a word that decodes; none for one that raises a cause. -/
def omlynOp (sh : Shape) (i : OmlynInstr) : Option Nat :=
  match decode sh 0 i.word with | .ok _ => some (i.word.extractLsb' 2 8).toNat | .error _ => none
/-- R79, R62: `bra` and `call` name their destination by a count of instructions, from their own. -/
def omlynTarget (sh : Shape) (k : Nat) (i : OmlynInstr) : Option Int :=
  match omlynOp sh i with
  | some 2 | some 4 => some ((k : Int) + (i.word.extractLsb' 64 32).toInt)
  | _ => none

/-! ### Pair words: R65 to R67 -/

/-- R65: the half that reduces a word of format N: its destination and every used source name `v` registers. -/
def halfOf (w : BitVec 128) : Option PairHalf :=
  let r := Raw.ofBits w
  match Guard.ofCode r.gp r.gn with
  | none => none
  | some g =>
    let d := r.d.setWidth 8
    let q := PairHalf.roles ⟨g, r.op, r.fn, 0, d, d, d, d⟩
    let fits (u : Bool) (x : BitVec 9) : Bool := !u || decide (x.toNat < 256)
    let src (u : Bool) (x : BitVec 9) : BitVec 8 := if u then x.setWidth 8 else d
    if r.len ≠ 0 || !pairable r.op.toNat || decide (256 ≤ r.d.toNat) || !fits q.a.used r.a || !fits q.b.used r.b || !fits q.c.used r.c then none
    else some ⟨g, r.op, r.fn, r.e, d, src q.a.used r.a, src q.b.used r.b, src q.c.used r.c⟩
/-- R66, R67: the pair word of two instructions, where R66 allows one; the second may not read what the first writes. -/
def pairOf (sh : Shape) (a b : OmlynInstr) : Option (BitVec 128) :=
  match halfOf a.word, halfOf b.word with
  | some h, some k =>
    if k.sources.contains h.d.toNat || (check sh (.pairWord h k)).isSome || (omlynOp sh a).isNone || (omlynOp sh b).isNone then none
    else encode (.pairWord h k)
  | _, _ => none
/-- R67: neighbours of one basic block joined wherever they can be, from the first on; each word with the index of its first instruction.
`lead` marks the instructions that begin a block. -/
def pairUp (sh : Shape) (lead : Nat → Bool) : List (OmlynInstr × Nat) → List (OmlynInstr × Nat)
  | a :: b :: r =>
    match (if lead b.2 then none else pairOf sh a.1 b.1) with
    | some w => ({ a.1 with word := w, len := 16 }, a.2) :: pairUp sh lead r
    | none => a :: pairUp sh lead (b :: r)
  | l => l

/-! ### Priorities: R75, R78, R390 -/

/-- R390: runs that start at the same address leave the last, and neighbours of equal priority are merged. -/
def mergeRuns : List (Nat × Nat) → List (Nat × Nat)
  | [] => []
  | x :: r =>
    match mergeRuns r with
    | [] => [x]
    | y :: t => if y.1 = x.1 then y :: t else if y.2 = x.2 then (x.1, x.2) :: t else x :: y :: t
/-- R390: the priority map's runs, from the priority table (unit index, priority) and the basic-block starts (unit index, address). -/
def prioRuns (codeVA : Nat) (table starts : List (Nat × Nat)) : List (Nat × Nat) :=
  mergeRuns ((codeVA, 0) :: table.filterMap fun e => ((starts.filter fun b => decide (e.1 ≤ b.1)).head?).map fun b => (b.2, e.2))

/-! ### The object: R78 -/

/-- What `omload` writes: the code segment, the data segment, the priority map, the kernel descriptor, and the map from the
address of each word to the index of its unit (R80). -/
structure OmlynLoaded where
  code : List Byte
  data : List Byte
  prio : List Byte
  desc : List Byte
  unitOf : List (Nat × Nat)
  deriving DecidableEq, Repr

/-- R54, R78 to R80, R83, R390: an object loaded with its code, data and priority map at the given virtual addresses; none
where `omload` rejects it. Words keep the order of the object, and neighbours become pair words (R67, log entry 126). -/
def omload (obj : List Byte) (codeVA dataVA prioVA : Nat) : Option OmlynLoaded :=
  let n (a k : Nat) : Nat := sliceNat obj a k
  let absent := 0xFFFFFFFF
  match shapeOfBytes (obj.take 24) with
  | none => none
  | some sh =>
    let units := n 0x18 4
    let prios := n 0x2C 4
    let table := (List.range prios).map fun i => n (n 0x28 4 + 8 * i) 8
    let rising := (table.zip (table.drop 1)).all fun p => decide (p.1 % 2 ^ 32 < p.2 % 2 ^ 32)
    let tableEnd := if prios = 0 then 0x40 + 8 * units else n 0x28 4 + 8 * prios
    let fits := decide (0x40 + 8 * units ≤ obj.length) && n 0x38 8 == 0 && decide (n 0x24 4 < 2 ^ sh.tiles)
      && (prios == 0 || decide (0x40 + 8 * units ≤ n 0x28 4 ∧ n 0x28 4 + 8 * prios ≤ obj.length))
      && (n 0x34 4 == 0 || decide (tableEnd ≤ n 0x30 4 ∧ n 0x30 4 + n 0x34 4 ≤ obj.length))
      && rising && table.all (fun e => decide (e < 2 ^ 36 ∧ e % 2 ^ 32 < units))
      && (n 0x20 4 != absent || n 0x24 4 == 0) && (n 0x1C 4 == absent || sh.width != 0)
    if !fits then none
    else match omlynInstrs sh 0 ((List.range units).map fun i => BitVec.ofNat 64 (n (0x40 + 8 * i) 8)) with
    | none => none
    | some is =>
      let targets := is.zipIdx.filterMap fun x => omlynTarget sh x.2 x.1
      let control (i : OmlynInstr) : Bool := match omlynOp sh i with | some op => decide (2 ≤ op ∧ op ≤ 11) | none => false
      let lead (k : Nat) : Bool := k == 0 || targets.contains (k : Int) || ((is[k - 1]?).map control).getD false
        || ((is[k]?).map fun i => i.unit == n 0x1C 4 || i.unit == n 0x20 4).getD false
      let ws := pairUp sh lead is.zipIdx
      let addrs := (placeWords codeVA (ws.map (·.1.len))).1
      let addrIx (k : Int) : Nat := ((addrs.zip ws).find? fun x => (x.2.2 : Int) == k).elim 0 (·.1)
      let unitOf := addrs.zip (ws.map (·.1.unit))
      let addrOf (u : Nat) : Option Nat := (unitOf.find? fun x => x.2 == u).map (·.1)
      let named (ix : Nat) : Option Nat := if ix = absent then some 0 else addrOf ix
      let crossLane := sh.width == 0 && is.any fun i => crossLaneOp i.opc || i.opc == 0xE2
      if crossLane || targets.any (fun t => decide (t < 0 ∨ (is.length : Int) ≤ t)) then none
      else match named (n 0x1C 4), named (n 0x20 4) with
      | some trapVA, some rstVA =>
        let final (x : OmlynInstr × Nat) : Nat × Nat × Nat :=
          let a := addrIx x.2
          match omlynTarget sh x.2 x.1 with
          | some t =>
            let d : Int := ((addrIx t : Int) - a) / 4
            (a, x.1.len, ((BitVec.ofInt 64 d &&& 0xFFFFFFFF) ++ x.1.word.extractLsb' 0 64 : BitVec 128).toNat)
          | none => (a, x.1.len, x.1.word.toNat)
        let starts := ws.filterMap fun x => if lead x.2 then some (x.1.unit, addrIx x.2) else none
        let code := emitWords codeVA (ws.map final)
        let runs := prioRuns codeVA (table.map fun e => (e % 2 ^ 32, bitsOf e 35 32)) starts
        let desc := leBytes 8 codeVA ++ leBytes 4 code.length ++ leBytes 4 0 ++ leBytes 8 dataVA ++ leBytes 4 (n 0x34 4) ++ leBytes 4 0
          ++ obj.take 24 ++ leBytes 8 0 ++ leBytes 8 trapVA ++ leBytes 8 rstVA ++ leBytes 4 (n 0x24 4) ++ leBytes 2 runs.length
          ++ leBytes 2 0 ++ leBytes 8 prioVA ++ List.replicate 32 0
        if 256 < runs.length then none
        else some ⟨code, (obj.drop (n 0x30 4)).take (n 0x34 4), runs.flatMap fun r => leBytes 8 (r.1 + 2 ^ 56 * r.2), desc, unitOf⟩
      | _, _ => none

end Sys2Proof.Machine
end

