-- ==== Sys2Proof/Tests/Slice0.lean ====
section
/-! SUPPORT. Tests: ill-formed terms, words written out from the encoding tables, worked examples of the spec, and a witness for each
statement that has hypotheses. Expected values stand in the spec or follow from it by hand. -/
set_option Elab.async false
namespace Sys2Proof.Tests
open Sys2Proof Sys2Proof.Machine

/-! ### Well-formedness: R59 to R68, R386 -/

/-- An 8-lane kernel with 16 registers, 8 predicates, 4 links, 2 tiles and 4,096 bytes of scratchpad. -/
def sh : Shape := ⟨8, 16, 8, 4, 2, 8, 4096, 1, 1⟩
/-- A width-free one. -/
def sh0 : Shape := { sh with width := 0 }
def n0 : Fields := ⟨.always, 0, .z, .z, .z, .z, none⟩
def abd (d a b : BitVec 8) : Fields := { n0 with d := .v d, a := .v a, b := .v b }
def pl : MemExt := ⟨0, 0, .plain⟩

theorem test_wellFormed_add : (Instr.add .s32 false (abd 1 2 3)).WellFormed sh := by unfold Instr.WellFormed; decide
/-- R83, R121: no cross-lane instruction in a width-free kernel. -/
theorem test_ill_crossLane : check sh0 (.elect { n0 with d := .p 1 }) = some .opcode := by decide
/-- R82: `bra` has format I only, so it needs its immediate; a word without an opcode has no instruction. -/
theorem test_ill_length : check sh (.bra n0) = some .reserved ∧ check sh .timeExchange = some .opcode := by decide
/-- R85 to R91: a type that the opcode does not take. -/
theorem test_ill_type : check sh (.abs .n32 false (abd 1 2 3)) = some .function := by decide
/-- R86: `.sat` where the opcode has none. -/
theorem test_ill_sat : check sh (.min .s32 true (abd 1 2 3)) = some .function := by decide
/-- R60: guards 96 to 126. -/
theorem test_ill_guard : check sh (.add .s32 false { abd 1 2 3 with g := .pred 96 false }) = some .reserved := by decide
/-- R59: the guard predicate lies below `.preds`. -/
theorem test_ill_guard_kind : check sh (.add .s32 false { abd 1 2 3 with g := .pred 8 false }) = some .kind := by decide
/-- R59: an unused field holds `0x1FF`. -/
theorem test_ill_unused : check sh (.add .s32 false { abd 1 2 3 with c := .v 0 }) = some .reserved ∧
    check sh (.exit { n0 with d := .v 0 }) = some .reserved := by decide
/-- R59: an E bit of a source that is no full or empty register. -/
theorem test_ill_ebit : check sh (.add .s32 false { abd 1 2 3 with b := .k 0, e := 2 }) = some .reserved := by decide
/-- R62: an immediate that does not fit its type. -/
theorem test_ill_immediate : check sh (.add .s8 false { n0 with d := .v 1, a := .v 2, imm := some 128 }) = some .reserved ∧
    check sh (.add .s8 false { n0 with d := .v 1, a := .v 2, imm := some 127 }) = none := by decide
/-- R90: a load releases nothing, and a store acquires nothing. -/
theorem test_ill_order : check sh (.ldg .n32 .one ⟨0, 0, .rel⟩ { n0 with d := .v 1, a := .v 2 }) = some .reserved ∧
    check sh (.stg .n32 .one ⟨0, 0, .acq⟩ { n0 with a := .v 2, c := .v 1 }) = some .reserved := by decide
/-- R63: scales above 4. -/
theorem test_ill_scale : check sh (.lds .n32 .one ⟨0, 5, .plain⟩ { n0 with d := .v 1, b := .v 2 }) = some .reserved := by decide
/-- R129: a link producer has RMODE 000. -/
theorem test_ill_linkMode : check sh (.fadd .f32 .rtz { abd 1 2 3 with d := .l 0 }) = some .reserved := by decide
/-- R204: control registers that do not exist, and one that is read only. -/
theorem test_ill_csr : check sh (.csrr 0x0FF { n0 with d := .v 1 }) = some .reserved ∧ check sh (.csrw 0x030 { n0 with a := .v 2 }) = some .reserved := by decide
/-- R214: KIND values 101 to 111. -/
theorem test_ill_kindField : check sh (.lrd 5 { n0 with d := .s 0, a := .v 1, b := .k 0 }) = some .reserved := by decide
/-- R217: `lcpy` of no register. -/
theorem test_ill_lcpy : check sh (.lcpy 0 { n0 with d := .v 1, a := .v 2, b := .k 0 }) = some .reserved := by decide
/-- R59: registers at or above `.regs`, an odd pair, a link and a tile that the kernel does not have. -/
theorem test_ill_register : check sh (.add .s32 false (abd 16 2 3)) = some .kind ∧ check sh (.add .s64 false (abd 1 2 4)) = some .kind ∧
    check sh (.fadd .f32 .ctl { abd 1 2 3 with d := .l 4 }) = some .kind ∧ check sh (.tzero { n0 with d := .t 2 }) = some .kind := by decide
/-- R97: no `s` destination in a width-free kernel. -/
theorem test_ill_scalarDest : check sh0 (.add .s32 false { abd 1 2 3 with d := .s 0 }) = some .kind := by decide
/-- R129: two fields that name one link. -/
theorem test_ill_linkTwice : check sh (.fma .f32 .ctl { abd 1 2 3 with a := .l 1, c := .l 1 }) = some .kind := by decide
/-- R109, R204: a predicate group, and a tile shape register, that the kernel does not have. -/
theorem test_ill_restKind : check sh (.ppack 1 { n0 with d := .v 1 }) = some .kind ∧ check sh (.csrr 0x102 { n0 with d := .v 1 }) = some .kind := by decide
/-- R66: both halves on one pipe; two destinations of one bank; a word that no half may hold. -/
theorem test_ill_pair : checkPair sh ⟨.always, 0x10, 0x10, 0, 1, 2, 3, 1⟩ ⟨.always, 0x11, 0x10, 0, 6, 2, 3, 6⟩ = some .pairing ∧
    checkPair sh ⟨.always, 0x10, 0x10, 0, 1, 2, 3, 1⟩ ⟨.always, 0x50, 0x60, 0, 5, 2, 3, 5⟩ = some .pairing ∧
    checkPair sh ⟨.always, 0x10, 0x10, 0, 1, 2, 3, 1⟩ ⟨.always, 0x2A, 0x10, 0, 2, 2, 3, 2⟩ = some .pairing := by decide
/-- R65: the unused source of a half holds its destination. -/
theorem test_ill_pairReserved : checkPair sh ⟨.always, 0x10, 0x10, 0, 1, 2, 3, 0⟩ ⟨.always, 0x50, 0x60, 0, 2, 2, 3, 2⟩ = some .reserved := by decide
/-- R59, R85 for a half: a register the kernel does not have, an FN that the opcode does not take, no opcode, no guard. -/
theorem test_ill_pairHalf : checkPair sh ⟨.always, 0x10, 0x10, 0, 17, 2, 3, 17⟩ ⟨.always, 0x50, 0x60, 0, 2, 2, 3, 2⟩ = some .kind ∧
    checkPair sh ⟨.always, 0x10, 0x11, 0, 1, 2, 3, 1⟩ ⟨.always, 0x50, 0x60, 0, 2, 2, 3, 2⟩ = some .function ∧
    checkPair sh ⟨.always, 0xFF, 0x10, 0, 1, 2, 3, 1⟩ ⟨.always, 0x50, 0x60, 0, 2, 2, 3, 2⟩ = some .opcode ∧
    checkPair sh ⟨.pred 99 false, 0x10, 0x10, 0, 1, 2, 3, 1⟩ ⟨.always, 0x50, 0x60, 0, 2, 2, 3, 2⟩ = some .reserved := by decide
/-- A pair word that is well formed: an integer and a floating half of different banks. -/
theorem test_pair_wellFormed : checkPair sh ⟨.always, 0x10, 0x10, 0, 1, 2, 3, 1⟩ ⟨.always, 0x50, 0x60, 0, 2, 2, 3, 2⟩ = none := by decide
/-- R386: what the words of Sorrel bytecodes may not hold. -/
theorem test_ill_sorrel : ¬(Instr.sorrelPkw 1 0).WellFormed sh ∧ ¬(Instr.sorrelLdw 0 0 0 4).WellFormed sh ∧ ¬(Instr.sorrelShr 0 0 64).WellFormed sh ∧
    ¬(Instr.sorrelBz 0 0).WellFormed sh ∧ ¬(Instr.sorrelRep 65 1).WellFormed sh ∧ ¬(Instr.sorrelRep 1 0).WellFormed sh ∧
    ¬(Instr.sorrelCond 0 0 2).WellFormed sh ∧ (Instr.sorrelRep 64 31).WellFormed sh := by
  unfold Instr.WellFormed; decide
/-- R53, R68: a word that crosses its fetch block; R82: an unassigned opcode. -/
theorem test_ill_word : decode sh 28 0x283FF9102811FC40 = .error .boundary ∧ decode sh 0 0x003FFFFFFFFDFFFC = .error .opcode := by decide

/-! ### Words written out from the encoding tables: R56, R62 to R65, R82 to R92 -/

/-- R56: FN, E, C, B, A, D, GN, GP, OP and LEN at their places. -/
def hd (fn e c b a d gn gp op len : Nat) : Nat :=
  fn * 2 ^ 57 + e * 2 ^ 54 + c * 2 ^ 45 + b * 2 ^ 36 + a * 2 ^ 27 + d * 2 ^ 18 + gn * 2 ^ 17 + gp * 2 ^ 10 + op * 4 + len
/-- R63: DISP, SCALE, ORD and XF of format M. -/
def mx (disp scale ord xf : Nat) : Nat := disp * 2 ^ 24 + scale * 2 ^ 21 + ord * 2 ^ 19 + xf

/-- R112: `(p3) bri s5`; R119: `jwait j6`. -/
theorem test_word_control : decodeTableWord 64 (hd 0 0 0x1FF 0x1FF 0x115 0x1FF 0 3 0x03 0) = some (.bri { n0 with g := .pred 3 false, a := .s 5 }) ∧
    decodeTableWord 64 (hd 6 0 0x1FF 0x1FF 0x1FF 0x1FF 0 127 0x0A 0) = some (.jwait 6 n0) := by decide
/-- R99: `sub.sat.n16 v4, v5, 300` in format I; R101: `rot.b64 v4, v6, v3`; R102: `bfi.b32 v1, v2, 9, v3` with E of C set. -/
theorem test_word_integer :
    decodeTableWord 96 (300 * 2 ^ 64 + hd 0b0101100 0 0x1FF 0x1FF 5 4 0 127 0x11 1) = some (.sub .n16 true { n0 with d := .v 4, a := .v 5, imm := some 300 }) ∧
    decodeTableWord 64 (hd 0b1001000 0 0x1FF 3 6 4 0 127 0x1E 0) = some (.rot .b64 false (abd 4 6 3)) ∧
    decodeTableWord 64 (hd 0b1000000 4 3 0x189 2 1 0 127 0x24 0) = some (.bfi .b32 false { n0 with d := .v 1, a := .v 2, b := .k 9, c := .v 3, e := 4 }) := by decide
/-- R104: `cmp.lt.s32 p3, v4, v5`, as chapter 05 writes it out; R105: `sel.b32 v1, v2, v3, p4`. -/
theorem test_word_compare : decodeTableWord 64 (hd 0x12 0 0x1FF 5 4 3 0 127 0x2A 0) = some (.cmp .s32 .lt { n0 with d := .p 3, a := .v 4, b := .v 5 }) ∧
    decodeTableWord 64 (hd 0x40 0 4 3 2 1 0 127 0x2B 0) = some (.sel .b32 { abd 1 2 3 with c := .p 4 }) := by decide
/-- R106: `movi.b64 v2, 0x123456789` in format W; R107: `cvt.sat.s8.n32 v1, v2`. -/
theorem test_word_move : decodeTableWord 128 (0x123456789 * 2 ^ 64 + hd 0x48 0 0x1FF 0x1FF 0x1FF 2 0 127 0x2C 2) = some (.moviB64W 0x123456789 { n0 with d := .v 2 }) ∧
    decodeTableWord 64 (hd 0b0000100 0 0x1FF 0x1FF 2 1 0 127 0x76 0) = some (.cvt .s8 .n32 true { n0 with d := .v 1, a := .v 2 }) := by decide
/-- R108: `por p1, !p2, p3`; R109: `punpack.g2 v4`. -/
theorem test_word_predicate : decodeTableWord 64 (hd 1 0 0x1FF 3 2 1 0 127 0x31 0) = some (.por true false { n0 with d := .p 1, a := .p 2, b := .p 3 }) ∧
    decodeTableWord 64 (hd 2 0 0x1FF 0x1FF 4 0x1FF 0 127 0x36 0) = some (.punpack 2 { n0 with a := .v 4 }) := by decide
/-- R122, R124: `ballot v4, p1, s6`; R125: `shfl.down.b32 v1, v2, 1`. -/
theorem test_word_crossLane : decodeTableWord 64 (hd 0 0 0x116 0x1FF 1 4 0 127 0x41 0) = some (.ballot { n0 with d := .v 4, a := .p 1, c := .s 6 }) ∧
    decodeTableWord 64 (hd 0b1000010 0 0x1FF 0x181 2 1 0 127 0x42 0) = some (.shfl .b32 .down { n0 with d := .v 1, a := .v 2, b := .k 1 }) := by decide
/-- R130: `fdiv.rtz.f64 v2, v4, v6`; R134: `fcmp.un.f32 p1, v2, v3`; R136: `fsin.f32 v1, v2`; R137: `fcvt.f32.s32 v1, v2`. -/
theorem test_word_float : decodeTableWord 64 (hd 0b1101101 0 0x1FF 6 4 2 0 127 0x56 0) = some (.fdiv .f64 .rtz (abd 2 4 6)) ∧
    decodeTableWord 64 (hd 0b1100110 0 0x1FF 3 2 1 0 127 0x58 0) = some (.fcmp .f32 .un { n0 with d := .p 1, a := .v 2, b := .v 3 }) ∧
    decodeTableWord 64 (hd 0b1100000 0 0x1FF 0x1FF 2 1 0 127 0x66 0) = some (.fsin .f32 .ctl { n0 with d := .v 1, a := .v 2 }) ∧
    decodeTableWord 64 (hd 0b1100000 0 0x1FF 0x1FF 2 1 0 127 0x82 0) = some (.fcvt .f32 .s32 .ctl { n0 with d := .v 1, a := .v 2 }) := by decide
/-- R90: `stg.v2.b32 [v6 + 4 * v3 - 8], v4` with `.rel`; `atmv.cas.b64 v2, [v8], v4`; R170: `swarrive`. -/
theorem test_word_memory :
    decodeTableWord 128 (mx (2 ^ 40 - 8) 2 2 0 * 2 ^ 64 + hd 0b1000001 0 4 3 6 0x1FF 0 127 0x97 2) =
      some (.stg .b32 .two ⟨0xFFFFFFFFF8, 2, .rel⟩ { n0 with a := .v 6, b := .v 3, c := .v 4 }) ∧
    decodeTableWord 128 (mx 0 0 0 7 * 2 ^ 64 + hd 0b1001000 0 4 0x1FF 8 2 0 127 0xA1 2) = some (.atmv .b64 .cas pl { n0 with d := .v 2, a := .v 8, c := .v 4 }) ∧
    decodeTableWord 128 (mx 0x80 0 0 0 * 2 ^ 64 + hd 0 0 0x181 0x1FF 0x1FF 3 0 127 0xA5 2) = some (.swarrive ⟨0x80, 0, .plain⟩ { n0 with d := .v 3, c := .k 1 }) := by decide
/-- R167: `fence.ar`; R168: `bar`. -/
theorem test_word_fence : decodeTableWord 64 (hd 3 0 0x1FF 0x1FF 0x1FF 0x1FF 0 127 0x9D 0) = some (.fenceAr n0) ∧
    decodeTableWord 64 (hd 0 0 0x1FF 0x1FF 0x1FF 0x1FF 0 127 0x9E 0) = some (.bar n0) := by decide
/-- R174: `cpy.q2 v1, 4`; R191: `tld` from a vault with stride 3 and displacement 64; R196: `mmq`. -/
theorem test_word_engines : decodeTableWord 128 (2 * 2 ^ 64 + hd 0 0 0x1FF 0x1FF 0x184 1 0 127 0xB0 2) = some (.cpy 2 { n0 with d := .v 1, a := .k 4 }) ∧
    decodeTableWord 128 ((64 + 1 * 2 ^ 32 + 3 * 2 ^ 34) * 2 ^ 64 + hd 0 0 0x1FF 0x1FF 4 0x161 0 127 0xB2 2) = some (.tld .vt 3 64 { n0 with d := .t 1, a := .v 4 }) ∧
    decodeTableWord 128 (hd 0 0 0x1FF 0x1FF 3 2 0 127 0xB6 2) = some (.mmq { n0 with d := .v 2, a := .v 3 }) := by decide
/-- R205: `csrw fpctl, v2`; R207: `time.ord v2`; R209: `trap 7`; R214: `lrd.pair s1, v2, 3`; R217: `lcpy 4`. -/
theorem test_word_system : decodeTableWord 128 (0x010 * 2 ^ 64 + hd 0 0 0x1FF 0x1FF 2 0x1FF 0 127 0xC1 2) = some (.csrw 0x010 { n0 with a := .v 2 }) ∧
    decodeTableWord 128 (1 * 2 ^ 64 + hd 0 0 0x1FF 0x1FF 0x1FF 2 0 127 0xC8 2) = some (.timeOrd { n0 with d := .v 2 }) ∧
    decodeTableWord 128 (7 * 2 ^ 64 + hd 0 0 0x1FF 0x1FF 0x1FF 0x1FF 0 127 0xC2 2) = some (.trap 7 n0) ∧
    decodeTableWord 128 (1 * 2 ^ 64 + hd 0 0 0x1FF 0x183 2 0x111 0 127 0xC6 2) = some (.lrd 1 { n0 with d := .s 1, a := .v 2, b := .k 3 }) ∧
    decodeTableWord 128 (4 * 2 ^ 64 + hd 0 0 0x1FF 0x180 4 8 0 127 0xE2 2) = some (.lcpy 4 { n0 with d := .v 8, a := .v 4, b := .k 0 }) := by decide
/-- R65: `add.s32 v1, v2, v3 || fadd.f32 v2, v2, v3`: the halves of 58 bits, C of each its D. -/
theorem test_word_pair :
    let x : Nat := 0x10 * 2 ^ 51 + 0 * 2 ^ 48 + 1 * 2 ^ 40 + 3 * 2 ^ 32 + 2 * 2 ^ 24 + 1 * 2 ^ 16 + 127 * 2 ^ 8 + 0x10
    let y : Nat := 0x60 * 2 ^ 51 + 0 * 2 ^ 48 + 2 * 2 ^ 40 + 3 * 2 ^ 32 + 2 * 2 ^ 24 + 2 * 2 ^ 16 + 127 * 2 ^ 8 + 0x50
    decodeTableWord 128 (y * 2 ^ 66 + x * 4 + 3) = some (.pairWord ⟨.always, 0x10, 0x10, 0, 1, 2, 3, 1⟩ ⟨.always, 0x50, 0x60, 0, 2, 2, 3, 2⟩) := by decide
/-- R385: `ldw k2, w1[k3 + 16]`, `cst 5, k4`, `emit w2, 64`: OPC, KA, KB and IMM at their places. -/
theorem test_word_sorrel : decodeTableWord 32 (3 * 2 ^ 27 + 2 * 2 ^ 24 + 3 * 2 ^ 21 + 1 * 2 ^ 19 + 16) = some (.sorrelLdw 2 3 1 16) ∧
    decodeTableWord 32 (0x0C * 2 ^ 27 + 4 * 2 ^ 24 + 5) = some (.sorrelCst 5 4) ∧
    decodeTableWord 32 (0x0F * 2 ^ 27 + 2 * 2 ^ 19 + 64) = some (.sorrelEmit 2 64) := by decide

/-! ### The machine of the tests -/

/-- A kernel of the shape `sh`, with no code: the tests name the instruction themselves. -/
def ker : Kernel := { oneBlock 0 with shape := sh, codeLen := 0x1000 }
def crewOf (k : Kernel) : Crew := { freshCrew 0 1 0 0 0 0 k 0 8192 (List.replicate 64 0) with started := true }
def ctx0 : Ctx := { Ctx.clear 0 with bound := true, quadMap := [0], kernel := some ker, groups := 1, privSize := 8192 }
/-- One started crew of 8 threads in one warp, which issues at 0x8000. -/
def base : State :=
  { State.reset with uid := 100, crews := [crewOf ker], ctxs := [ctx0], icache := [(0, 0, 0x400)], cur := some ⟨0, 0, 1, 0x8000, 0⟩ }
/-- Registers of a thread set. -/
def regs (s : State) (tid : Nat) (ws : List (Nat × Word)) : State := s.modCrew 0 fun c => c.modThread tid fun t => t.setRegs ws
def preds (s : State) (tid : Nat) (ps : List Nat) : State := s.modCrew 0 fun c => c.modThread tid fun t => ps.foldl (fun t p => t.setPred p true) t
def allRegs (s : State) (ws : List (Nat × Word)) : State := (List.range 8).foldl (fun s i => regs s i ws) s
def modTh (s : State) (tid : Nat) (g : Thread → Thread) : State := s.modCrew 0 fun c => c.modThread tid g
def modW (s : State) (g : Warp → Warp) : State := s.modCrew 0 fun c => c.modWarp 0 g
def modC (s : State) (g : Crew → Crew) : State := s.modCrew 0 g
/-- A state as data: evaluated once. -/
def run (i : Instr) (s : State) : State := match exec i s with | .next t => t | _ => State.reset
def rg (s : State) (tid n : Nat) : Word := (s.thread 0 tid).reg n
def pr (s : State) (tid n : Nat) : Bool := (s.thread 0 tid).pred n
/-- One instruction of sources v2, v3, v4 in thread 0. -/
def t3 (x y z : Word) : State := regs base 0 [(2, x), (3, y), (4, z)]
def f4 : Fields := { n0 with d := .v 1, a := .v 2, b := .v 3, c := .v 4 }
def res3 (i : Instr) (x y z : Word) : Word := rg (run i (t3 x y z)) 0 1
def fl3 (i : Instr) (x y z : Word) : Word := ((run i (t3 x y z)).thread 0 0).fpflags
/-- The class and cause of the trap that stopped the context. -/
def trapOf (s : State) : Option Word := (s.ctx 0).primary.map fun x => x.1.tcause

/-! ### Integer instructions: R96 to R107 -/

/-- R28, R99: wrap and clamp. -/
theorem test_add : res3 (.add .s32 false (abd 1 2 3)) 0x7FFFFFFF 1 0 = 0x80000000 ∧ res3 (.add .s32 true (abd 1 2 3)) 0x7FFFFFFF 1 0 = 0x7FFFFFFF := by decide +kernel
theorem test_sub : res3 (.sub .n32 true (abd 1 2 3)) 1 2 0 = 0 ∧ res3 (.sub .s8 false (abd 1 2 3)) 0x80 1 0 = 0x7F := by decide +kernel
/-- R27: an s8 result is sign-extended, an n8 one zero-extended. -/
theorem test_add_extends : res3 (.add .s8 false (abd 1 2 3)) 0x7F 1 0 = 0xFFFFFF80 ∧ res3 (.add .n8 false (abd 1 2 3)) 0x7F 1 0 = 0x80 := by decide +kernel
theorem test_minMax : res3 (.min .s32 false (abd 1 2 3)) 0xFFFFFFFF 1 0 = 0xFFFFFFFF ∧ res3 (.min .n32 false (abd 1 2 3)) 0xFFFFFFFF 1 0 = 1 ∧
    res3 (.max .s32 false (abd 1 2 3)) 0xFFFFFFFF 1 0 = 1 ∧ res3 (.max .n32 false (abd 1 2 3)) 0xFFFFFFFF 1 0 = 0xFFFFFFFF := by decide +kernel
theorem test_absNeg : res3 (.abs .s32 true { n0 with d := .v 1, a := .v 2 }) 0x80000000 0 0 = 0x7FFFFFFF ∧ res3 (.neg .s32 false { n0 with d := .v 1, a := .v 2 }) 5 0 0 = 0xFFFFFFFB := by decide +kernel
theorem test_mul : res3 (.mul .s32 false (abd 1 2 3)) 0x10000 0x10001 0 = 0x10000 ∧ res3 (.mulh .n32 false (abd 1 2 3)) 0xFFFFFFFF 2 0 = 1 ∧
    res3 (.mulh .s32 false (abd 1 2 3)) 0xFFFFFFFF 2 0 = 0xFFFFFFFF ∧ res3 (.mad .s32 false f4) 3 4 5 = 17 := by decide +kernel
theorem test_logic : res3 (.and .b32 false (abd 1 2 3)) 0xFF00 0x0FF0 0 = 0x0F00 ∧ res3 (.or .b32 false (abd 1 2 3)) 0xFF00 0x0FF0 0 = 0xFFF0 ∧
    res3 (.xor .b32 false (abd 1 2 3)) 0xFF00 0x0FF0 0 = 0xF0F0 ∧ res3 (.andn .b32 false (abd 1 2 3)) 0xFF00 0x0FF0 0 = 0xF000 ∧
    res3 (.not .b32 false { n0 with d := .v 1, a := .v 2 }) 0xFF00 0 0 = 0xFFFF00FF := by decide +kernel
/-- R101: a shift by 32 or more moves every bit out; `rot` takes the count modulo the width. -/
theorem test_shift : res3 (.shl .s32 true (abd 1 2 3)) 0x40000000 1 0 = 0x7FFFFFFF ∧ res3 (.shr .n32 false (abd 1 2 3)) 0x80000000 32 0 = 0 ∧
    res3 (.sar .s32 false (abd 1 2 3)) 0x80000000 40 0 = 0xFFFFFFFF ∧ res3 (.rot .b32 false (abd 1 2 3)) 0x80000001 33 0 = 0x3 := by decide +kernel
/-- R102: `bfx.s32 v1, v2, 0x0804` is bits [11:4], sign-extended; `bfi` puts them back. -/
theorem test_bitField : res3 (.bfx .s32 false (abd 1 2 3)) 0xF9A7 0x0804 0 = 0xFFFFFF9A ∧ res3 (.bfi .b32 false f4) 0xFFFFFFFF 0x0804 0x00 = 0xFFFFF00F := by decide +kernel
theorem test_counts : res3 (.popc .b32 false { n0 with d := .v 1, a := .v 2 }) 0xF0000001 0 0 = 5 ∧ res3 (.clz .b32 false { n0 with d := .v 1, a := .v 2 }) 0 0 0 = 32 ∧
    res3 (.ctz .b32 false { n0 with d := .v 1, a := .v 2 }) 0x30 0 0 = 4 ∧ res3 (.fnth .b32 false (abd 1 2 3)) 0x30 1 0 = 5 ∧
    res3 (.fnth .b32 false (abd 1 2 3)) 0x30 2 0 = 0xFFFFFFFF ∧ res3 (.brev .b32 false { n0 with d := .v 1, a := .v 2 }) 1 0 0 = 0x80000000 := by decide +kernel
theorem test_moves : res3 (.mov .b32 false { n0 with d := .v 1, a := .v 2 }) 7 0 0 = 7 ∧ res3 (.cvt .s8 .n32 true { n0 with d := .v 1, a := .v 2 }) 300 0 0 = 127 ∧
    res3 (.cvt .n8 .s32 true { n0 with d := .v 1, a := .v 2 }) 0xFFFFFFFF 0 0 = 0 ∧ res3 (.sel .b32 { f4 with c := .p 0 }) 8 9 0 = 9 ∧
    res3 (.moviB32 { n0 with d := .v 1, imm := some 0xABCD }) 0 0 0 = 0xABCD := by decide +kernel
/-- R27, R62, R106: a 64-bit immediate fills a pair, the low half in the named register. -/
theorem test_movi64 : (run (.moviB64I { n0 with d := .v 2, imm := some 0x80000000 }) base |> fun s => (rg s 0 2, rg s 0 3)) = (0x80000000, 0xFFFFFFFF) ∧
    (run (.moviB64W 0x123456789 { n0 with d := .v 2 }) base |> fun s => (rg s 0 2, rg s 0 3)) = (0x23456789, 1) := by decide +kernel
theorem test_compare : pr (run (.cmp .s32 .lt { n0 with d := .p 3, a := .v 2, b := .v 3 }) (t3 0xFFFFFFFF 1 0)) 0 3 = true ∧
    pr (run (.cmp .n32 .lt { n0 with d := .p 3, a := .v 2, b := .v 3 }) (t3 0xFFFFFFFF 1 0)) 0 3 = false := by decide +kernel
/-- R108: FN inverts sources; R109: a group of 32. -/
theorem test_predicates : pr (run (.pand true false { n0 with d := .p 3, a := .p 1, b := .p 2 }) (preds base 0 [2])) 0 3 = true ∧
    pr (run (.por false false { n0 with d := .p 3, a := .p 1, b := .p 2 }) (preds base 0 [2])) 0 3 = true ∧
    pr (run (.pxor false false { n0 with d := .p 3, a := .p 1, b := .p 2 }) (preds base 0 [1, 2, 3])) 0 3 = false ∧
    pr (run (.pnot { n0 with d := .p 3, a := .p 1 }) base) 0 3 = true ∧ pr (run (.pmov { n0 with d := .p 3, a := .p 1 }) (preds base 0 [1])) 0 3 = true := by decide +kernel
theorem test_predicateGroups : rg (run (.ppack 0 { n0 with d := .v 1 }) (preds base 0 [0, 5])) 0 1 = 0x21 ∧
    (run (.punpack 0 { n0 with a := .v 2 }) (t3 0xFFFFFF12 0 0) |> fun s => (s.thread 0 0).p) = 0x12 := by decide +kernel
/-- R60: a lane whose guard is false keeps its register, and the entry moves on. -/
theorem test_guard : rg (run (.add .s32 false { abd 1 2 3 with g := .pred 1 false }) (t3 1 2 3)) 0 1 = 0 ∧
    (run (.add .s32 false { abd 1 2 3 with g := .pred 1 false }) (t3 1 2 3)).laneAt 0 0 0 0x8008 .none := by
  constructor
  · decide +kernel
  · exact ⟨_, rfl, by unfold Warp.laneAt; decide +kernel⟩
/-- R65: both halves read before either writes: the halves swap v2 and v3. -/
theorem test_pair : (run (.pairWord ⟨.always, 0x1F, 0x40, 0, 2, 3, 2, 2⟩ ⟨.always, 0x1F, 0x40, 0, 3, 2, 3, 3⟩) (t3 5 6 0) |> fun s => (rg s 0 2, rg s 0 3)) = (6, 5) := by decide +kernel

/-! ### Cross-lane: R121 to R126 -/

/-- Lane l holds 10 + l in v2 and 20 + l in v3. -/
def lanes8 : State := (List.range 8).foldl (fun s i => regs s i [(2, BitVec.ofNat 32 (10 + i)), (3, BitVec.ofNat 32 (20 + i))]) base
/-- With the member mask m in s6. -/
def masked (m : Quad) (s : State) : State := modW s fun w => { w with s := w.s.set 6 m }
theorem test_vote : pr (run (.voteAll { n0 with d := .p 1, a := .p 0, c := .s 6 }) (masked 7 (preds lanes8 0 [0]))) 0 1 = false ∧
    pr (run (.voteAny { n0 with d := .p 1, a := .p 0, c := .s 6 }) (masked 7 (preds lanes8 0 [0]))) 2 1 = true ∧
    pr (run (.voteUni { n0 with d := .p 1, a := .p 0, c := .s 6 }) (masked 6 (preds lanes8 0 [0]))) 2 1 = true := by decide +kernel
/-- Members 0 to 2 of the mask: only they write. -/
theorem test_ballotElect : (run (.ballot { n0 with d := .v 1, a := .p 0, c := .s 6 }) (masked 7 (preds (preds lanes8 0 [0]) 5 [0])) |> fun s => (rg s 2 1, rg s 5 1)) = (1, 0) ∧
    (run (.elect { n0 with d := .p 1, c := .s 6 }) (masked 6 lanes8) |> fun s => (pr s 0 1, pr s 1 1, pr s 2 1)) = (false, true, false) := by decide +kernel
/-- R125: beyond the width a lane keeps its own A; a lane that is no participant supplies 0. -/
theorem test_shfl : (run (.shfl .b32 .down { abd 1 2 0 with b := .k 1 }) lanes8 |> fun s => (rg s 0 1, rg s 7 1)) = (11, 17) ∧
    (run (.shfl .b32 .up { abd 1 2 0 with b := .k 2 }) lanes8 |> fun s => (rg s 0 1, rg s 7 1)) = (10, 15) ∧
    (run (.shfl .b32 .xor { abd 1 2 0 with b := .k 4 }) lanes8 |> fun s => (rg s 1 1, rg s 6 1)) = (15, 12) ∧
    (run (.lmov .b32 { abd 1 2 0 with b := .k 11 }) lanes8 |> fun s => rg s 0 1) = 13 := by decide +kernel
theorem test_redux : (run (.redux .s32 0 { n0 with d := .v 1, a := .v 2 }) lanes8 |> fun s => rg s 3 1) = 108 ∧
    (run (.redux .s32 2 { n0 with d := .v 1, a := .v 2 }) lanes8 |> fun s => rg s 3 1) = 17 ∧
    (run (.redux .b32 5 { n0 with d := .v 1, a := .v 2, c := .s 6 }) (masked 7 lanes8) |> fun s => rg s 1 1) = 13 := by decide +kernel
/-- R126: `zip2` of the structures (10, 20), (11, 21), …: D of lane 0 to 7 is 10, 20, 11, 21, …, and `unzip2` takes them apart. -/
theorem test_zip : (run (.zip2 .b32 { n0 with d := .v 6, a := .v 2 }) lanes8 |> fun s => (rg s 0 6, rg s 1 6, rg s 2 6, rg s 0 7)) = (10, 20, 11, 14) ∧
    (run (.unzip2 .b32 { n0 with d := .v 6, a := .v 2 }) lanes8 |> fun s => (rg s 0 6, rg s 0 7, rg s 1 6, rg s 4 6)) = (10, 11, 12, 20) := by decide +kernel

/-! ### Floating point: R29 to R38, R130 to R137 -/

/-- 1 + 2^-60 is 1 in RNE and the next number up in RUP, with NX: the last row of the example of chapter 02. -/
theorem test_fadd : res3 (.fadd .f32 .rne (abd 1 2 3)) 0x3F800000 0x21800000 0 = 0x3F800000 ∧ res3 (.fadd .f32 .rup (abd 1 2 3)) 0x3F800000 0x21800000 0 = 0x3F800001 ∧
    fl3 (.fadd .f32 .rup (abd 1 2 3)) 0x3F800000 0x21800000 0 = 1 := by decide +kernel
theorem test_fsubFmul : res3 (.fsub .f32 .rne (abd 1 2 3)) 0x40400000 0x3F800000 0 = 0x40000000 ∧ res3 (.fmul .f32 .rne (abd 1 2 3)) 0x40400000 0x40000000 0 = 0x40C00000 ∧
    res3 (.fma .f32 .rne f4) 0x40400000 0x40000000 0x3F800000 = 0x40E00000 := by decide +kernel
/-- R33, R36: 1 / 0 is an infinity with DZ; 0 / 0 and the root of -1 are the canonical NaN with NV; overflow gives an infinity with OF and NX. -/
theorem test_fdiv : res3 (.fdiv .f32 .rne (abd 1 2 3)) 0x3F800000 0 0 = 0x7F800000 ∧ fl3 (.fdiv .f32 .rne (abd 1 2 3)) 0x3F800000 0 0 = 8 ∧
    res3 (.fdiv .f32 .rne (abd 1 2 3)) 0 0 0 = 0x7FC00000 ∧ fl3 (.fdiv .f32 .rne (abd 1 2 3)) 0 0 0 = 16 ∧
    fl3 (.fmul .f32 .rne (abd 1 2 3)) 0x7F000000 0x7F000000 0 = 5 := by decide +kernel
theorem test_fsqrt : res3 (.fsqrt .f32 .rne { n0 with d := .v 1, a := .v 2 }) 0x40800000 0 0 = 0x40000000 ∧ res3 (.fsqrt .f32 .rne { n0 with d := .v 1, a := .v 2 }) 0xBF800000 0 0 = 0x7FC00000 := by decide +kernel
theorem test_fminFmax : res3 (.fmin .f32 (abd 1 2 3)) 0x3F800000 0x40000000 0 = 0x3F800000 ∧ res3 (.fmax .f32 (abd 1 2 3)) 0x3F800000 0x40000000 0 = 0x40000000 := by decide +kernel
theorem test_fcmp : pr (run (.fcmp .f32 .lt { n0 with d := .p 3, a := .v 2, b := .v 3 }) (t3 0xBF800000 0x3F800000 0)) 0 3 = true ∧
    pr (run (.fcmp .f32 .un { n0 with d := .p 3, a := .v 2, b := .v 3 }) (t3 0x7FC00000 0 0)) 0 3 = true := by decide +kernel
/-- R38: 2.5 rounds to 2, with NX; a NaN gives 0 with NV. -/
theorem test_fcvt : res3 (.fcvt .s32 .f32 .rne { n0 with d := .v 1, a := .v 2 }) 0x40200000 0 0 = 2 ∧ fl3 (.fcvt .s32 .f32 .rne { n0 with d := .v 1, a := .v 2 }) 0x40200000 0 0 = 1 ∧
    res3 (.fcvt .s32 .f32 .rne { n0 with d := .v 1, a := .v 2 }) 0x7FC00000 0 0 = 0 ∧ res3 (.fcvt .f32 .s32 .rne { n0 with d := .v 1, a := .v 2 }) 3 0 0 = 0x40400000 := by decide +kernel
theorem test_frnd : res3 (.frnd .f32 .rup { n0 with d := .v 1, a := .v 2 }) 0x3FC00000 0 0 = 0x40000000 ∧ res3 (.fscale .f32 .rne (abd 1 2 3)) 0x3F800000 3 0 = 0x41000000 := by decide +kernel
/-- R39, R40: 1.25 and 0.75 in `t8`, as chapter 11 derives them. -/
theorem test_tapered : (taperedDecode 8 2 0x42).dy.eq ⟨5, -2⟩ = true ∧ (taperedDecode 8 2 0x3C).dy.eq ⟨3, -2⟩ = true ∧ taperedEncode 8 2 (.fin ⟨5, -2⟩) = 0x42 := by decide +kernel
/-- R48, R50: the end of the worked dot product of chapter 02: 4 and then 0 in the wide partial. -/
theorem test_widePartial : wpEncode (.fin ⟨4, 0⟩) = 0x10060000000000000000000000000000 ∧ wpEncode (.fin ⟨1, 0⟩) = 0x0FFE0000000000000000000000000000 ∧
    (trunc114 ⟨2 ^ 122 + 1, -120⟩).eq ⟨4, 0⟩ = true := by decide +kernel
/-- R44, R137: the worked chain of chapter 02: the link carries 1.0 after its 48 digits, and no flag rises in RUP. -/
def chained : State :=
  let s := run (.fadd .f32 .ctl { abd 0 2 3 with d := .l 0 }) (modTh (t3 0x3F800000 0x21800000 0) 0 fun t => { t with fpctl := 2 })
  modTh (run (.linkDigitDelivery 0 0 0) s) 0 fun t => match t.chain with | r :: _ => (deliverDigits 48 r 0 t).1 | [] => t
theorem test_chain : ((chained.thread 0 0).link 0 |> fun x => (x.st, x.e, x.digits.length)) = (.full, 2, 48) ∧ ((chained.thread 0 0).link 0).value.dy.eq ⟨1, 0⟩ = true := by decide +kernel
theorem test_chainRead : (run (.fmul .f32 .ctl { n0 with g := .pred 1 false, d := .v 4, a := .l 0, b := .v 5 }) (preds (regs chained 0 [(5, 0x3F800000)]) 0 [1]) |> fun s =>
    (rg s 0 4, (s.thread 0 0).fpflags, ((s.thread 0 0).link 0).st)) = (0x3F800000, 0, .consumed) := by decide +kernel

/-! ### Control: R110 to R120 -/

def pcs (s : State) : List (BitVec 56 × Mask) := match s.warp? 0 0 with | some w => w.entries.map fun x => (x.pc, x.mask) | none => []
/-- R112: `(p1) bra -2 words`: four times the immediate from the branch on; the others go on. -/
theorem test_bra : pcs (run (.bra { n0 with g := .pred 1 false, imm := some 0xFFFFFFF4 }) (preds (preds base 0 [1]) 3 [1])) = [(0x7FD0, 0x09), (0x800C, 0xF6)] := by decide +kernel
/-- R112, R297: an address that is no multiple of 4 traps with class 4, cause 2. -/
theorem test_bri : pcs (run (.bri { n0 with a := .v 2 }) (allRegs base [(2, 0x8100)])) = [(0x8100, 0xFF)] ∧ trapOf (run (.bri { n0 with a := .v 2 }) (allRegs base [(2, 0x8102)])) = some 0x04020000 := by decide +kernel
theorem test_call : (run (.call { n0 with imm := some 0x40 }) base |> fun s => (pcs s, (s.thread 0 5).rsdepth, (s.thread 0 5).rstack)) = ([(0x8100, 0xFF)], 1, [0x800C]) := by decide +kernel
theorem test_calliRet : pcs (run (.ret n0) ((List.range 8).foldl (fun s i => modTh s i fun t => { t with rsdepth := 1, rstack := [0x9000] }) base)) = [(0x9000, 0xFF)] ∧ trapOf (run (.ret n0) base) = some 0x04040000 ∧
    pcs (run (.calli { n0 with a := .v 2 }) (allRegs base [(2, 0x8100)])) = [(0x8100, 0xFF)] := by decide +kernel
theorem test_exit : (run (.exit { n0 with g := .pred 1 false }) (preds base 0 [1]) |> fun s => (pcs s, (s.thread 0 0).exited, (s.thread 0 1).exited)) = ([(0x8008, 0xFE)], true, false) := by decide +kernel
/-- R118: the parked lanes yield to the other entry. -/
theorem test_park : (run (.park { n0 with g := .pred 1 false }) (preds base 0 [1]) |> fun s => pcs s) = [(0x8008, 0xFF)] := by decide +kernel
/-- R119: the rows of the worked join: members, then the first group held, then both free. -/
def joined : State := modW base fun w => { w with joins := w.joins.set 0 ⟨0xFC, 0x3C⟩, entries := [⟨7, 0x200, 0x3C, 0, .jwait 0, [], 0⟩, ⟨1, 0x8000, 0xC0, 0, .none, [], 0⟩] }
theorem test_join : (run (.jset 0 n0) base |> fun s => (s.warp? 0 0).map fun w => w.joins.head?) = some (some ⟨0xFF, 0⟩) ∧
    (run (.jwait 0 n0) joined |> fun s => (pcs s, (s.warp? 0 0).map fun w => w.joins.head?)) = ([(0x208, 0x3C), (0x8008, 0xC0)], some (some ⟨0, 0⟩)) := by decide +kernel

/-! ### Memory: R151 to R173 -/

/-- A vault byte of the quad that the context's logical quad 0 stands for. -/
theorem test_loadScratch : (run (.lds .b32 .one ⟨8, 2, .plain⟩ { n0 with d := .v 1, b := .v 2 }) (modC (t3 3 0 0) fun c => { c with scratch := [(20, 0x12), (23, 0x34)] }) |> fun s =>
    (s.rets.filter fun r => r.tid == 0).map (·.writes)) = [[(1, 0x34000012)]] := by decide +kernel
theorem test_storeScratch : (run (.sts .b32 .one ⟨8, 2, .plain⟩ { n0 with g := .pred 1 false, b := .v 2, c := .v 3 }) (preds (t3 3 0x11223344 0) 0 [1]) |> fun s => (s.crew? 0).map (·.scratch)) =
    some [(20, 0x44), (21, 0x33), (22, 0x22), (23, 0x11)] := by decide +kernel
/-- R164: lanes 0, 2 and 4 add to one word in that order: the rows of the example of chapter 07. -/
def bins : State := modC ([3, 5, 3, 1, 3].zipIdx.foldl (fun s x => preds (regs s x.2 [(2, BitVec.ofNat 32 x.1)]) x.2 [1]) base) fun c => { c with scratch := [(12, 7)] }
theorem test_atomicOrder : (run (.atms .n32 .add ⟨0, 2, .plain⟩ { n0 with g := .pred 1 false, d := .v 9, b := .v 2, c := .k 1 }) bins |> fun s =>
    (s.rets.map (·.writes), (s.crew? 0).map (·.scratch))) = ([[(9, 7)], [(9, 0)], [(9, 8)], [(9, 0)], [(9, 9)]], some [(4, 1), (12, 10), (20, 1)]) := by decide +kernel
theorem test_memoryReturn : (run (.memoryReturn 9) { base with rets := [⟨9, 0, 3, [(1, 5)], true, none⟩] } |> fun s => (rg s 3 1, s.rets)) = (5, []) := by decide +kernel
/-- R151: misaligned; R150: outside the scratchpad. -/
theorem test_accessTraps : trapOf (run (.lds .b32 .one ⟨2, 0, .plain⟩ { n0 with d := .v 1 }) base) = some 0x06010000 ∧
    trapOf (run (.lds .b32 .one ⟨4096, 0, .plain⟩ { n0 with d := .v 1 }) base) = some 0x06030000 := by decide +kernel
/-- R170: TARGET 2,048, ARRIVED 1,984, GEN 5 and a count of 200: ARRIVED 136, GEN 6, OVERRUN 0. -/
theorem test_swarrive : swBump ⟨2048, 1984, 5, false, false⟩ 200 = ⟨2048, 136, 6, false, false⟩ := by decide +kernel
theorem test_fence : ((run (.fenceRel n0) base).thread 0 0).frel = some [] := by decide +kernel
theorem test_bar : (run (.bar { n0 with g := .pred 1 false }) (preds base 0 [1]) |> fun s => (s.crew? 0).map fun c => (c.barrier.arrived, c.barrier.mask)) = some (1, 1) ∧
    (run (.bar n0) base |> fun s => (pcs s, (s.crew? 0).map fun c => c.barrier.arrived)) = ([(0x8008, 0xFF)], some 0) := by decide +kernel

/-! ### System: R186 to R214 -/

/-- R205: `tid`. -/
theorem test_csrr : rg (run (.csrr 0x000 { n0 with d := .v 1 }) base) 5 1 = 5 := by decide +kernel
/-- R204: each lane its own value; R206: reserved bits read zero. -/
theorem test_csrw : (run (.csrw 0x010 { n0 with a := .v 2 }) (t3 0xFFFFFFFF 0 0) |> fun s => ((s.thread 0 0).fpctl, (s.thread 0 3).fpctl)) = (0x1F03, 0) := by decide +kernel
/-- R208: the leader's single register. -/
theorem test_cstep : ((run (.cstep { n0 with a := .v 2 }) (t3 5 9 0)).ctx 0).stepcount = 5 := by decide +kernel
/-- R209, R210: class 10 with the code as TVAL, to return after it; class 11 with the message's address. -/
theorem test_trap : (((run (.trap 7 n0) base).ctx 0).primary.map fun x => (x.1.tcause, x.1.tval, x.1.tpc, x.1.tmask)) = some (0x0A000000, 7, 0x8010, 0xFF) ∧
    trapOf (run (.assert 64 { n0 with a := .p 1 }) base) = some 0x0B000000 := by decide +kernel
/-- R301, R213: with a handler address the trap enters it, and `rte` goes on after the `trap`. -/
def handlerKer : Kernel := { ker with trapVA := 0x8200 }
def hbase : State := { base with crews := [crewOf handlerKer], ctxs := [{ ctx0 with kernel := some handlerKer }] }
theorem test_handler : ((run (.trap 7 n0) hbase).warp? 0 0).map (fun w => w.handler.map fun h => (h.pc, h.record.tpc)) = some (some (0x8200, 0x8010)) ∧
    (run (.rte n0) (run (.trap 7 n0) hbase) |> fun s => (pcs s, (s.warp? 0 0).map (·.handler))) = ([(0x8010, 0xFF)], some none) := by decide +kernel
theorem test_lrdLwr : (run (.lrd 0 { n0 with d := .s 2, a := .v 2, b := .k 1 }) (run (.trap 7 n0) (regs hbase 1 [(2, 9)])) |> fun s => (s.warp? 0 0).map fun w => w.s.getD 2 0) = some 9 ∧
    rg (run (.lwr 0 { n0 with d := .v 2, a := .s 3, b := .k 1 }) (modW (run (.trap 7 n0) hbase) fun w => { w with s := w.s.set 3 6 })) 1 2 = 6 := by decide +kernel
/-- R68, R297: an illegal word stops the context with class 1 and the check's cause. -/
theorem test_illegal : trapOf (run (.illegalInstruction 0x06 0x283FF9102811FC40) base) = some 0x01060000 := by decide +kernel
/-- R217: a step moves a register of the source lane to every lane. -/
theorem test_lcpy : rg (run (.microStep 0 0) (run (.lcpy 1 { n0 with d := .v 1, a := .v 2, b := .k 0 }) (t3 42 0 0))) 7 1 = 42 := by decide +kernel

/-! ### The module: R16 to R22, R268 to R402 -/

/-- R22: the home slice of PA 0x12345680 is slice 31, and its granule lies in stack 10, channel 2. -/
theorem test_homeSlice : homeSlice 0x12345680 = 31 := by decide +kernel
/-- R385: the program of chapter 21. -/
theorem test_sorrelProgram : [0x10000001, 0x11000002, 0x60000001, 0x61000003, 0x78000000].map decodeSorrel =
    [some (.sorrelPkw 0 1), some (.sorrelPkw 1 2), some (.sorrelCst 1 0), some (.sorrelCst 3 1), some (.sorrelEmit 0 0)] := by decide +kernel
/-- The digest of the three bytes `abc`, as the standard that R386 names gives it. -/
theorem test_sha256 : leNat (sha256 [0x61, 0x62, 0x63]).reverse = 0xBA7816BF8F01CFEA414140DE5DAE2223B00361A396177A9CB410FF61F20015AD := by decide +kernel

/-! ### Witnesses: the hypotheses of every statement are met, at boundary values -/

/-- `Ready`, as a check, with a condition on what is issued. -/
def rdy (i : Instr) (s : State) (P : Env → Prop) [DecidablePred P] : Bool :=
  match envOf i s with | some e => decide (preCheck e = .pass) && decide (P e) | none => false
theorem rdy_ready {i : Instr} {s : State} {P : Env → Prop} [DecidablePred P] (h : rdy i s P = true) : ∃ e, Ready i s e ∧ P e := by
  unfold rdy at h
  split at h
  next e he => simp only [Bool.and_eq_true, decide_eq_true_eq] at h; exact ⟨e, ⟨he, h.1⟩, h.2⟩
  next => cases h
/-- The same for every instruction of a list, each in its state. -/
theorem rdy_all {L : List (Instr × State)} {P : Instr × State → Env → Prop} [∀ x, DecidablePred (P x)]
    (h : (L.all fun x => rdy x.1 x.2 (P x)) = true) : ∀ x ∈ L, ∃ e, Ready x.1 x.2 e ∧ P x e :=
  fun x hx => rdy_ready (List.all_eq_true.mp h x hx)
/-- `Quiet`, as a check. -/
abbrev quietly (s : State) (e : Env) : Prop :=
  e.c.log = [] ∧ e.c.transfers = [] ∧ (∀ x ∈ s.fabOut, x.crew ≠ e.c.id) ∧ ∀ l ∈ e.lanes, (e.th l.2).facq = none ∧ (e.th l.2).frel = none
theorem rdy_quiet {L : List (Instr × State)} {P : Instr × State → Env → Prop} [∀ x, DecidablePred (P x)]
    (h : (L.all fun x => rdy x.1 x.2 (fun e => quietly x.2 e ∧ P x e)) = true) : ∀ x ∈ L, ∃ e, Ready x.1 x.2 e ∧ Quiet x.2 e ∧ P x e :=
  fun x hx => by
    obtain ⟨e, h1, h2, h3⟩ := rdy_ready (List.all_eq_true.mp h x hx)
    exact ⟨e, h1, ⟨h2.1, h2.2.1, h2.2.2.1, h2.2.2.2⟩, h3⟩
abbrev calmly (e : Env) : Prop :=
  e.w.handler = none ∧ e.w.away = none ∧ e.c.log = [] ∧ e.c.transfers = [] ∧ ∀ l ∈ e.w.lanesIn e.mask, (e.th l.2).chain = []
theorem calm_of {i : Instr} {s : State} {P : Env → Prop} [DecidablePred P]
    (h : (match envOf i s with | some e => decide (calmly e ∧ P e) | none => false) = true) : ∃ e, Calm i s e ∧ P e := by
  split at h
  next e he => simp only [decide_eq_true_eq] at h; exact ⟨e, ⟨he, h.1.1, h.1.2.1, h.1.2.2.1, h.1.2.2.2.1, h.1.2.2.2.2⟩, h.2⟩
  next => cases h

/-! Encodings. -/

/-- A word that ends with its fetch block. -/
theorem witness_ArbenRoundTrip : ∃ r, (Instr.add .s32 false (abd 1 2 3)).raw = some r ∧ check sh (.add .s32 false (abd 1 2 3)) = none ∧
    24 + (Instr.add .s32 false (abd 1 2 3)).bytes ≤ 32 := ⟨_, rfl, by decide, by decide⟩
theorem witness_PairAndSorrelRoundTrip :
    (∃ w, encode (.pairWord ⟨.always, 0x10, 0x10, 0, 1, 2, 3, 1⟩ ⟨.always, 0x50, 0x60, 0, 2, 2, 3, 2⟩) = some w) ∧ 16 + 16 ≤ 32 ∧
    checkPair sh ⟨.always, 0x10, 0x10, 0, 1, 2, 3, 1⟩ ⟨.always, 0x50, 0x60, 0, 2, 2, 3, 2⟩ = none ∧
    (∃ w, encodeSorrel (.sorrelRep 64 31) = some w) ∧ ∃ i, decodeSorrel 0x61000003 = some i := ⟨⟨_, rfl⟩, by decide, by decide, ⟨_, rfl⟩, ⟨_, rfl⟩⟩

/-! The step. -/

/-- A crew stands at a word, and its issue is next. -/
def stepAt (w : Nat) : State := State.reset.withFetchWord 64 w
abbrev stepHyps (s : State) (c : Crew) (w : Warp) : Prop :=
  let u : State := { tick s with agenda := [] }
  s.agenda = [.issue c.id w.wid] ∧ (tick s).agenda = s.agenda ∧ (tick s).plat.standby = false ∧ u.crew? c.id = some c ∧ c.warp? w.wid = some w ∧ Crew.runs u c = true ∧
    w.trap = none ∧ w.handler = none ∧ w.micro = none ∧ w.stall = none ∧ w.place = some (w.wid + 1, 0x8000, 0xFF) ∧ c.kernel.codeVA ≤ 0x8000 ∧
    0x8000 < c.kernel.codeVA + c.kernel.codeLen ∧ blockHeld u c (c.warpCore w) 0x8000 = true
/-- R239: in the cycle of its issue a ready warp has waited 1. -/
def crewAt (w : Nat) : Crew := let c := crewOf (oneBlock w); { c with warps := c.warps.map fun w => { w with waiting := 1 } }
def warpAt : Warp := { freshWarp (oneBlock 0) 0 1 (List.replicate 64 0) with waiting := 1 }
theorem witness_StepRunsDecodedInstruction :
    stepHyps (stepAt 0x283FF9102811FC40) (crewAt 0x283FF9102811FC40) warpAt ∧
    decode (crewAt 0x283FF9102811FC40).kernel.shape (0x8000 % 32) (codeBits (crewAt 0x283FF9102811FC40).kernel 0x8000) =
      .ok (.add .s32 true { n0 with d := .v 4, a := .v 5, b := .k 17 }) := by decide +kernel
theorem witness_StepRunsTrapsBytecodesAndEvents :
    (∃ p, (State.reset.withFetchWord 32 0x61000003).agenda = [.sorrel] ∧ (tick (State.reset.withFetchWord 32 0x61000003)).agenda = [.sorrel] ∧
      (tick (State.reset.withFetchWord 32 0x61000003)).plat.standby = false ∧ (tick (State.reset.withFetchWord 32 0x61000003)).islandOff 62 = false ∧ (tick (State.reset.withFetchWord 32 0x61000003)).sorrel = some p ∧
      decodeSorrel (p.prog.getD p.pc 0) = some (.sorrelCst 3 1)) ∧
    ((tick { State.reset with agenda := [.event .timeExchange] }).agenda = [.event .timeExchange] ∧ Instr.isEvent .timeExchange = true ∧
      (tick { State.reset with agenda := [.event .timeExchange] }).powers (.event .timeExchange) = true ∧
      (tick { State.reset with agenda := [.event .timeExchange] }).plat.standby = false) ∧
    ((tick { State.reset with agenda := [.event .timeExchange], plat := { State.reset.plat with standby := true } }).agenda = [.event .timeExchange] ∧
      (tick { State.reset with agenda := [.event .timeExchange], plat := { State.reset.plat with standby := true } }).plat.standby = true) ∧
    stepHyps (stepAt 0x003FFFFFFFFDFFFC) (crewAt 0x003FFFFFFFFDFFFC) warpAt ∧
    decode (crewAt 0x003FFFFFFFFDFFFC).kernel.shape (0x8000 % 32) (codeBits (crewAt 0x003FFFFFFFFDFFFC).kernel 0x8000) = .error .opcode := by
  refine ⟨⟨_, rfl, rfl, rfl, rfl, rfl, by decide +kernel⟩, ?_, ?_, ?_⟩ <;> decide +kernel
/-- The state after reset keeps its memories, and a step of it is a next state. -/
theorem witness_MemoryCanonicalKept : State.reset.Wf ∧ completes (step State.reset) := ⟨⟨by decide, by decide⟩, ⟨_, rfl⟩⟩
theorem witness_MemoryAtResetAndReadAfterWrite : Mem.wf [(3, 1)] = true ∧ (2 : Nat) < 3 ∧ 3 + 4 ≤ (7 : Nat) := by decide

/-! Settled warps. -/

theorem witness_SettledWarps : ∃ e, Settled (.mov .b32 false { n0 with d := .v 15, a := .v 2 }) base e ∧ (∀ p ∈ e.parts, noLinks p.f) ∧
    handlerOnly (.mov .b32 false { n0 with d := .v 15, a := .v 2 }) = false := by
  obtain ⟨e, h, h2⟩ := calm_of (i := .mov .b32 false { n0 with d := .v 15, a := .v 2 }) (s := base)
    (P := fun e => (∀ l ∈ e.w.lanesIn e.mask, ∀ b ∈ (e.th l.2).full, b = true) ∧ (∀ p ∈ e.parts, e.parts.length = 1 ∧ p.f = { n0 with d := .v 15, a := .v 2 })) (by decide +kernel)
  refine ⟨e, ⟨h, h2.1⟩, fun p hp => ?_, rfl⟩
  rw [(h2.2 p hp).2]; intro o ho n; fin_cases ho <;> simp [n0]
/-- Register v2 of lane 3 is empty; E of A is 0, and 1. -/
def emptied : State := modTh base 3 fun t => t.setEmpty 2 1
theorem witness_EmptySources : ∀ x ∈ [(0 : BitVec 3), 1], ∃ e, Calm (.mov .b32 false { n0 with d := .v 15, a := .v 2, e := x }) emptied e ∧
    (e.lanes.filter fun l => !(e.th l.2).isFull 2 1) ≠ [] := by
  intro x hx; fin_cases hx <;> exact calm_of (by decide +kernel)

/-! Integer, predicate and floating-point instructions. -/

def fA : Fields := { n0 with d := .v 14, a := .v 2 }
def fAB : Fields := abd 14 2 4
def fABC : Fields := { abd 14 2 4 with c := .v 6 }
def fP : Fields := { n0 with d := .p 7, a := .p 1 }
def fPP : Fields := { fP with b := .p 2 }
def on (L : List Instr) (s : State) : List (Instr × State) := L.map fun i => (i, s)
theorem witness_IntegerArithmetic : ∀ x ∈ on [.add .s64 true fAB, .sub .n8 true fAB, .min .n64 false fAB, .max .s16 false fAB, .abs .s64 true fA, .neg .s8 true fA, .mul .s32 true fAB,
    .mulh .n64 false fAB, .mad .s32 true fABC] base, ∃ e, Ready x.1 x.2 e ∧ e.lanes ≠ [] := rdy_all (by decide +kernel)
theorem witness_BitwiseAndShiftResults : Ty.whole .b64 = true ∧ Ty.whole .s64 = true ∧ ∀ x ∈ on [.and .b64 false fAB, .or .b32 false fAB, .xor .b64 false fAB, .andn .b64 false fAB, .not .b64 false fA,
    .brev .b64 false fA, .rot .b64 false fAB, .mov .b64 false fA, .sel .b64 { fAB with c := .p 7 }, .shl .s64 true fAB, .shr .n64 false fAB, .sar .s64 false fAB] base,
    ∃ e, Ready x.1 x.2 e ∧ e.lanes ≠ [] := ⟨by decide, by decide, rdy_all (by decide +kernel)⟩
theorem witness_FieldAndCountResults : ∀ x ∈ on [.bfx .s64 false fAB, .bfi .b64 false fABC, .popc .b64 false fA, .clz .b64 false fA, .ctz .b64 false fA, .fnth .b64 false fAB,
    .moviB32 { n0 with d := .v 15, imm := some 0xFFFFFFFF }, .moviB64I { n0 with d := .v 14, imm := some 0x80000000 }, .moviB64W 1 { n0 with d := .v 14 }, .cvt .s8 .n64 true fA] base,
    ∃ e, Ready x.1 x.2 e ∧ e.lanes ≠ [] := rdy_all (by decide +kernel)
theorem witness_PredicateResults : ∀ x ∈ on [.cmp .s64 .lt { fAB with d := .p 7 }, .pand true true fPP, .por false true fPP, .pxor true false fPP, .pnot fP, .pmov fP, .ppack 0 { n0 with d := .v 15 },
    .punpack 0 { n0 with a := .v 15 }] base, ∃ e, Ready x.1 x.2 e ∧ e.lanes ≠ [] ∧ e.sh.preds ≤ 96 := rdy_all (by decide +kernel)
/-- Results to the last register and to s63; the last lane of the entry. -/
theorem witness_ResultsAndNextWord : ∃ e, Ready (.add .s8 false (abd 14 2 3)) base e ∧ (base.crew? e.c.id = some e.c ∧ (e.lanes.map (·.2)).Nodup ∧ (∀ l ∈ e.lanes, l.2 < e.c.threads.length ∧
    14 + 1 < (e.th l.2).v.length) ∧ (0, 0) ∈ e.lanes ∧ e.lanes.head? = some (0, 0) ∧ e.c.warp? e.w.wid = some e.w ∧ (63 : BitVec 6).toNat < e.w.s.length ∧ e.w.handler = none ∧
    (∃ x ∈ e.w.entries, x.eid = e.eid ∧ x.pc = e.pc ∧ x.hold = .none) ∧ e.mask.getLsbD 7 = true) := rdy_ready (by decide +kernel)
theorem witness_RegisterWritesFrame : ∃ e, envOf (.add .s64 false (abd 14 2 4)) base = some e ∧ (∀ l ∈ e.lanes.take 3, l ∈ e.lanes) ∧ e.destReg 2 15 ∧ ¬ e.destReg 2 13 := by
  obtain ⟨e, h, h1, h2⟩ := rdy_ready (i := .add .s64 false (abd 14 2 4)) (s := base) (P := fun e => e.f = abd 14 2 4 ∧ ∀ l ∈ e.lanes.take 3, l ∈ e.lanes) (by decide +kernel)
  exact ⟨e, h.1, h2, by simp [Env.destReg, h1, abd], by simp [Env.destReg, h1, abd]⟩
/-- Every lane a participant; and one member of the mask in another entry. -/
def fM (d a : Opd) : Fields := { n0 with d := d, a := a, c := .s 6 }
def allMasked : State := masked 0xFF base
def splitWarp : State := modW allMasked fun w => { w with entries := [⟨1, 0x8000, 0x7F, 0, .none, [], 0⟩, ⟨2, 0x8100, 0x80, 0, .none, [], 0⟩] }
theorem witness_VotesMovesAndAbsentMembers : (∀ x ∈ on [.voteAll (fM (.p 7) (.p 1)), .voteAny (fM (.p 7) (.p 1)), .voteUni (fM (.p 7) (.p 1)), .elect (fM (.p 7) .z), .ballot (fM (.v 15) (.p 1)),
      .lmov .b64 { fM (.v 14) (.v 2) with b := .k 7 }, .shfl .b64 .idx { fM (.v 14) (.v 2) with b := .k 8 }, .shfl .b32 .up { fM (.v 15) (.v 2) with b := .k 7 },
      .shfl .b32 .down { fM (.v 15) (.v 2) with b := .k 8 }, .shfl .b32 .xor { fM (.v 15) (.v 2) with b := .k 7 }] allMasked, ∃ e, Ready x.1 x.2 e ∧ e.lanes ≠ [] ∧ e.absent = 0) ∧
    (∃ e, Ready (.elect (fM (.p 7) .z)) splitWarp e ∧ e.lanes ≠ [] ∧ e.absent ≠ 0) ∧ ∃ e, Ready (.elect { fM (.p 7) .z with g := .pred 1 false }) allMasked e ∧ e.lanes = [] :=
  ⟨rdy_all (by decide +kernel), rdy_ready (by decide +kernel), rdy_ready (by decide +kernel)⟩
theorem witness_ReductionsAndPermutations : ∀ x ∈ on ((List.range 6).map (fun n => .redux .s64 (BitVec.ofNat 3 n) (fM (.v 14) (.v 2))) ++
    [.zip2 .b32 (fM (.v 14) (.v 2)), .zip3 .b32 (fM (.v 13) (.v 2)), .zip4 .b64 (fM (.v 8) (.v 0)), .unzip2 .b64 (fM (.v 12) (.v 2)), .unzip3 .b32 (fM (.v 13) (.v 2)), .unzip4 .b32 (fM (.v 12) (.v 2))])
    allMasked, ∃ e, Ready x.1 x.2 e ∧ e.lanes ≠ [] ∧ e.absent = 0 := rdy_all (by decide +kernel)
/-- The least and the greatest number that rounding meets. -/
theorem witness_RoundingIsCorrect : fmtF16 ∈ [fmtF16, fmtBf16, fmtF32, fmtF64] ∧ (⟨1, -5000⟩ : Dy).m ≠ 0 ∧ (⟨-1, 5000⟩ : Dy).m ≠ 0 := by decide
theorem witness_ArithmeticIsExact : fmtF32.holds 0 ∧ fmtF32.holds 1 ∧ fmtF32.holds 0xFF7FFFFF := by unfold Fmt.holds; decide +kernel
theorem witness_SpecialValues : (Fl.ofBits fmtF16 0x7C01).isSnan = true ∧ Fl.ofBits fmtF16 0xFC00 = .inf true ∧ Fl.ofBits fmtF16 0x7C00 = .inf false ∧ (Fl.ofBits fmtF16 0x8000).isZero = true ∧
    Fl.ofBits fmtF16 0x8000 = .zero true ∧ (Fl.ofBits fmtF16 0x0001).finite = true ∧ (Fl.ofBits fmtF16 0xFBFF).finite = true ∧ (Fl.ofBits fmtF16 0xFBFF).neg = true ∧
    (64 : Nat) ∈ [8, 16, 32, 64] := by decide +kernel
/-- Every floating-point instruction, with and without a lane whose enable for NX is set. -/
def trapping : State := modTh (regs base 2 [(2, 0x3F800000), (4, 0x21800000)]) 2 fun t => { t with fpctl := 0x1F00 }
theorem witness_FloatInstructionsComplete : (∀ x ∈ on [.fadd .f32 .ctl fAB, .fsub .f64 .rtz fAB, .fmul .f16 .rup fAB, .fma .bf16 .rdn fABC, .fdiv .f32 .rne fAB, .fsqrt .f32 .rne fA, .fmin .f32 fAB,
      .fmax .f16x2 fAB, .fsel .f64 { fAB with c := .p 7 }, .fclass .f32 { n0 with d := .v 15, a := .v 2 }, .frcp .f32 .ctl fA, .frsq .f32 .ctl fA, .fexp2 .f32 .ctl fA, .flog2 .f32 .ctl fA, .fscale .f32 .ctl fAB,
      .frnd .f32 .rne fA, .fsin .f32 .ctl fA, .fcos .f32 .ctl fA, .fcvt .f32 .s32 .ctl fA, .fcvt .s32 .f32 .ctl fA] base,
      ∃ e, Ready x.1 x.2 e ∧ usesLink e.f = false ∧ (∀ l ∈ e.lanes, (e.th l.2).anyEnable = false) ∧ e.lanes ≠ []) ∧
    (∃ e, Ready (.fadd .f32 .ctl fAB) trapping e ∧ usesLink e.f = false ∧ (e.lanes.filter fun l => (e.th l.2).enabled (evalFadd .f32 .ctl e (e.th l.2)).2 != 0) ≠ []) ∧
    ∃ e, Ready (.pairWord ⟨.always, 0x10, 0x10, 0, 15, 2, 3, 15⟩ ⟨.pred 7 true, 0x50, 0x60, 0, 2, 2, 3, 2⟩) base e ∧ (∀ l ∈ e.lanes, (e.th l.2).anyEnable = false) ∧ e.lanes ≠ [] :=
  ⟨rdy_all (by decide +kernel), rdy_ready (by decide +kernel), rdy_ready (by decide +kernel)⟩
/-- A signalling NaN, and two numbers whose sum is inexact, in lanes with every enable set. -/
def enabled : State := (List.range 8).foldl (fun s i => modTh (regs s i [(2, if i = 0 then 0x7F800001 else 0x3F800001), (4, 0x21800000)]) i fun t => { t with fpctl := 0x1F00 }) allMasked
theorem witness_FloatCompareAndReduce : (∃ e, Ready (.fcmp .f32 .un { fAB with d := .p 7 }) base e ∧ usesLink e.f = false ∧
      (∀ l ∈ e.lanes, (e.th l.2).enabled (evalFcmp .f32 .un e (e.th l.2)).2 = 0) ∧ e.lanes ≠ []) ∧
    (∃ e, Ready (.fcmp .f32 .eq { fAB with d := .p 7 }) enabled e ∧ usesLink e.f = false ∧ (e.lanes.filter fun l => (e.th l.2).enabled (evalFcmp .f32 .eq e (e.th l.2)).2 != 0) ≠ []) ∧
    (∃ e, Ready (.redux .f32 0 (fM (.v 15) (.v 4))) (modTh enabled 1 fun t => t.setRegs [(4, 0x3F800001)]) e ∧ e.lanes ≠ [] ∧ e.absent = 0 ∧
      (e.participants.filter fun l => (e.th l.2).enabled (flRedux .f32 0 0 ((List.range e.sh.width).map fun i => (e.participants.find? fun l => l.1 == i).map fun l => bitsA .f32 e (e.th l.2))).2 != 0) ≠ []) ∧
    (Fl.ofBits (fmtOf .f32) 0x7FC00000).isNan = true ∧ (Fl.ofBits (fmtOf .f32) 0x80000001).finite = true ∧
    ∀ n ∈ [0, 1, 2, 4, 7], ∃ e, Ready (.redux .f32 (BitVec.ofNat 3 n) (fM (.v 15) (.v 2))) allMasked e ∧ Ty.isFloat .f32 = true ∧ e.lanes ≠ [] ∧ e.absent = 0 ∧
      ∀ l ∈ e.participants, (e.th l.2).anyEnable = false :=
  ⟨rdy_ready (by decide +kernel), rdy_ready (by decide +kernel), rdy_ready (by decide +kernel), by decide +kernel, by decide +kernel, by intro n hn; fin_cases hn <;> exact rdy_ready (by decide +kernel)⟩

/-! Links. -/

def fL : Fields := { fAB with d := .l 3 }
/-- A thread with eight producers in flight; and one where all eight have ended. -/
def producing (k : Nat) : State := modTh base 7 fun t => { t with chain := List.replicate k ⟨0x50, 0x60, 0x100, .value 0x3F800000, .value 0x3F800000, .unused, 0, false⟩
                                                                  links := t.links.set 0 ⟨false, .empty, .finite, 0, 2, []⟩ }
theorem witness_LinkProducers :
    (∀ x ∈ on [.fadd .f32 .ctl fL, .fsub .f64 .ctl fL, .fmul .f32 .ctl fL, .fma .f64 .ctl { fL with c := .v 6 }, .fdiv .f32 .ctl fL, .fsqrt .f64 .ctl { fA with d := .l 3 }] (producing 7),
      ∃ e, Ready x.1 x.2 e ∧ (∀ l ∈ e.lanes, (e.th l.2).producers < 8) ∧ (e.lanes.map (·.2)).Nodup ∧ (∀ l ∈ e.lanes, l.2 < e.c.threads.length ∧ (3 : BitVec 4).toNat < (e.th l.2).links.length) ∧ e.lanes ≠ []) ∧
    ∃ e, Ready (.fadd .f32 .ctl fL) (producing 8) e ∧ ∃ l ∈ e.lanes, 8 ≤ (e.th l.2).producers := ⟨rdy_all (by decide +kernel), rdy_ready (by decide +kernel)⟩
/-- One producer in flight whose link can settle; every link 0 full. -/
def settling : State := run (.fadd .f32 .ctl { abd 0 2 3 with d := .l 0, g := .pred 1 false }) (preds (t3 0x3F800000 0x21800000 0) 0 [1])
def fulls : State := (List.range 8).foldl (fun s i => modTh s i fun t => t.setLink 0 ⟨false, .full, .finite, 0, 2, [1] ++ List.replicate 47 0⟩) base
/-- The link of that producer, partial with 47 of its 48 digits. -/
def parted : State := modTh settling 0 fun t => t.setLink 0 ⟨false, .part, .finite, 0, 2, [1, -1] ++ List.replicate 45 0⟩
/-- A link of 47 digits, one before the last. -/
def lateLink : Thread := { (settling.thread 0 0) with links := (settling.thread 0 0).links.set 0 ⟨false, .part, .finite, 0, 2, [1, -1] ++ List.replicate 45 0⟩ }
def lateRec : ChainRec := lateLink.chain.headD ⟨0, 0, 0, .unused, .unused, .unused, 0, false⟩
theorem witness_LinksDeliverAndConvert :
    (∀ s ∈ [settling, parted], ∃ c r, s.crew? 0 = some c ∧ Crew.runs s c = true ∧ 0 < c.threads.length ∧ (c.thread 0).chain = [r] ∧ r.d = BitVec.ofNat 9 0x100 ∧ r.linkNums = [] ∧ 0 < (c.thread 0).links.length) ∧
    ((settling.thread 0 0).link 0).st = .empty ∧ ((parted.thread 0 0).link 0).st = .part ∧ ((parted.thread 0 0).link 0).digits.length + 1 = linkN false ∧
    (∃ c u, settling.crew? 0 = some c ∧ Crew.runs settling c = true ∧ deliverLink 0 (c.thread 0) = some u ∧ (c.thread 0).anyEnable = false ∧ 0 < c.threads.length) ∧
    (∃ e, Ready (.fcvt .f64 .f32 .rup { n0 with d := .v 14, a := .l 0 }) fulls e ∧ (e.lanes.map (·.2)).Nodup ∧ ∀ l ∈ e.lanes, l.2 < e.c.threads.length ∧ (e.th l.2).chain = [] ∧
      (e.th l.2).anyEnable = false ∧ 0 < (e.th l.2).links.length ∧ ((e.th l.2).link 0).st = .full ∧ 14 + 1 < (e.th l.2).v.length) ∧
    (lateLink.link 0).st = .part ∧ (lateLink.link 0).digits.length < linkN (lateLink.link 0).wide ∧ 0 < lateLink.links.length ∧
    (∀ m ∈ List.range 16, ChainSrc.link m ∉ [lateRec.a, lateRec.b, lateRec.c]) ∧ ∃ u, deliverDigits 1 lateRec 0 lateLink = (u, true) := by
  refine ⟨?_, ?_, ?_, ?_, ⟨(settling.crew? 0).get (by decide +kernel), (deliverLink 0 (settling.thread 0 0)).get (by decide +kernel), ?_, ?_, ?_, ?_, ?_⟩, rdy_ready (by decide +kernel), ?_, ?_, ?_, ?_, ⟨(deliverDigits 1 lateRec 0 lateLink).1, ?_⟩⟩
  · intro s hs
    fin_cases hs
    · exact ⟨(settling.crew? 0).get (by decide +kernel), (settling.thread 0 0).chain.head (by decide +kernel), by decide +kernel⟩
    · exact ⟨(parted.crew? 0).get (by decide +kernel), (parted.thread 0 0).chain.head (by decide +kernel), by decide +kernel⟩
  all_goals decide +kernel

/-! Control. -/

/-- Every lane jumps, half of them elsewhere. -/
def jumping : State := (List.range 8).foldl (fun s i => regs s i [(2, if i < 4 then 0x8100 else 0xFFFFFFFC), (3, if i < 4 then 0 else 0x00FFFFFF)]) base
def inHandler : State := { (run (.trap 7 n0) hbase) with cur := some ⟨0, 0, 1, 0x8200, 0⟩ }
/-- The entry stands at an address: a branch from the last word of the address space goes past its end, one from a low address goes below 0. -/
def standing (pc : BitVec 56) : State := { (modW base fun w => { w with entries := w.entries.map fun x => { x with pc := pc } }) with cur := base.cur.map fun c => { c with pc := pc } }
theorem witness_BranchesAndNop :
    (∀ x ∈ on [.bra { n0 with imm := some 0xFFFFE000, g := .pred 7 true }, .bri { n0 with a := .v 2 }] jumping, ∃ e, Ready x.1 x.2 e ∧ e.w.handler = none ∧ e.room 1 ∧ (x.1 = .bra { n0 with imm := some 0xFFFFE000, g := .pred 7 true } → badTarget (branchTo e) = false) ∧
      (∀ l ∈ e.lanes, srcBits e.w (e.th l.2) .b64 (.v 2) % 4 = 0 ∧ srcBits e.w (e.th l.2) .b64 (.v 2) < 2 ^ 56) ∧
      e.room (destinations e fun l => BitVec.ofNat 56 (srcBits e.w (e.th l.2) .b64 (.v 2))).length) ∧
    (∀ x ∈ on [.nopN n0, .nopI { n0 with imm := some 0 }, .nopW n0] base, ∃ e, Ready x.1 x.2 e ∧ e.lanes ≠ []) ∧
    (∀ y ∈ [0x8002, 0x8001], ∃ e, Ready (.bri { n0 with a := .v 2 }) (allRegs base [(2, y)]) e ∧
      ((e.lanes.map fun l => (l.1, srcBits e.w (e.th l.2) .b64 (.v 2))).filter fun x => x.2 % 4 != 0 || decide (2 ^ 56 ≤ x.2)) ≠ []) ∧
    (∃ e, Ready (.bri { n0 with a := .v 2 }) (allRegs base [(3, 0x01000000)]) e ∧
      ((e.lanes.map fun l => (l.1, srcBits e.w (e.th l.2) .b64 (.v 2))).filter fun x => x.2 % 4 != 0 || decide (2 ^ 56 ≤ x.2)) ≠ []) ∧
    (∀ x ∈ [((4 : Word), (0xFFFFFFFFFFFFF8 : BitVec 56)), (0x80000000, 0x8000)], ∃ e, Ready (.bra { n0 with imm := some x.1 }) (standing x.2) e ∧ e.lanes ≠ [] ∧ 2 ^ 56 ≤ ((e.pc.toNat : Int) + 4 * (e.f.imm.getD 0).toInt) % 2 ^ 64) ∧
    ∃ e, Ready (.bra { n0 with imm := some 4 }) inHandler e ∧ badTarget (branchTo e) = false ∧ e.w.handler.isSome ∧ e.lanes ≠ [] ∧ e.w.entries ≠ [] := by
  refine ⟨rdy_all (by decide +kernel), rdy_all (by decide +kernel), ?_, rdy_ready (by decide +kernel), ?_, rdy_ready (by decide +kernel)⟩
  · intro y hy; fin_cases hy <;> exact rdy_ready (by decide +kernel)
  · intro x hx; fin_cases hx <;> exact rdy_ready (by decide +kernel)
/-- Return stacks of a depth. -/
def deepAs (d : Nat) (s : State) : State := (List.range 8).foldl (fun s i => modTh s i fun t => { t with rsdepth := d, rstack := (List.range (Nat.min d 8)).map fun k => BitVec.ofNat 64 (0x9000 + 8 * k) }) s
/-- The spill area of thread 0 lies in the tensor window, over DRAM at the same addresses. -/
def windowed : State := { base with ctxs := [{ ctx0 with xlat := [0, 0, 0, 0x40000000, 0] ++ List.replicate 8 0 }] }
theorem witness_CallsPush :
    (∀ d ∈ [0, 7], ∃ e, Ready (.call { n0 with imm := some 0x7FFFFFFF }) (deepAs d base) e ∧ badTarget (branchTo e) = false ∧ e.w.handler = none ∧
      e.room (destinations e fun _ => e.pc + (((e.f.imm.getD 0).signExtend 56) <<< 2)).length ∧
      (∀ l ∈ e.lanes, (e.th l.2).rsdepth < 8 ∧ l.2 < e.c.threads.length) ∧ (e.lanes.map (·.2)).Nodup) ∧
    (∃ e, Ready (.calli { n0 with a := .v 2 }) (deepAs 7 jumping) e ∧ e.w.handler = none ∧ (∀ l ∈ e.lanes, srcBits e.w (e.th l.2) .b64 (.v 2) % 4 = 0 ∧ srcBits e.w (e.th l.2) .b64 (.v 2) < 2 ^ 56) ∧
      e.room (destinations e fun l => BitVec.ofNat 56 (srcBits e.w (e.th l.2) .b64 (.v 2))).length ∧
      (∀ l ∈ e.lanes, (e.th l.2).rsdepth < 8 ∧ l.2 < e.c.threads.length) ∧ (e.lanes.map (·.2)).Nodup) ∧
    (∃ e, Ready (.call { n0 with imm := some 4 }) (deepAs 512 base) e ∧ e.w.handler = none ∧ (e.lanes.filter fun l => decide (512 ≤ (e.th l.2).rsdepth)) ≠ []) ∧
    (∃ e, Ready (.calli { n0 with a := .v 2 }) (deepAs 512 (allRegs base [(2, 1)])) e ∧ e.w.handler = none ∧ (e.lanes.filter fun l => decide (512 ≤ (e.th l.2).rsdepth)) ≠ []) ∧
    ∀ d ∈ [8, 511], ∃ e, Ready (.call { n0 with g := .pred 1 false, imm := some 4 }) (preds (deepAs d windowed) 0 [1]) e ∧ badTarget (branchTo e) = false ∧ e.w.handler = none ∧ e.lanes = [(0, 0)] ∧ e.room 1 ∧ 0 < e.c.threads.length ∧
      (e.th 0).rsdepth = d ∧ e.c.log = [] ∧ e.c.transfers = [] ∧ e.w.stall = none ∧ (e.th 0).facq = none ∧ (e.th 0).frel = none ∧ windowed.fabOut = [] ∧
      xlate (preds (deepAs d windowed) 0 [1]) (dieOf (e.c.warpCore e.w)) (some (e.c.warpCore e.w)) e.c.ctx (((e.th 0).rsbase.toNat / 8 * 8 + 8 * ((e.th 0).rsdepth - 8)) % 2 ^ 56) .write =
        (preds (deepAs d windowed) 0 [1], .ok (0x1040 + 8 * (d - 8)) 0) ∧
      (preds (deepAs d windowed) 0 [1]).poisoned (0x1040 + 8 * (d - 8)) 8 = false ∧ (preds (deepAs d windowed) 0 [1]).writesBlocked [0x1040 + 8 * (d - 8)] = false := by
  refine ⟨?_, rdy_ready (by decide +kernel), rdy_ready (by decide +kernel), rdy_ready (by decide +kernel), ?_⟩
  · intro d hd; fin_cases hd <;> exact rdy_ready (by decide +kernel)
  · intro d hd; fin_cases hd <;> exact rdy_ready (by decide +kernel)

def fG : Fields := { n0 with g := .pred 1 false }
theorem witness_ReturnsPop :
    (∀ d ∈ [1, 8], ∃ e, Ready (.ret n0) (deepAs d base) e ∧ e.w.handler = none ∧ e.room (destinations e fun l => ((e.th l.2).rstack.headD 0).setWidth 56).length ∧ (e.lanes.map (·.2)).Nodup ∧
      (∀ l ∈ e.lanes, 1 ≤ (e.th l.2).rsdepth ∧ (e.th l.2).rsdepth ≤ 8 ∧ l.2 < e.c.threads.length ∧ ((e.th l.2).rstack.headD 0).toNat % 4 = 0 ∧ ((e.th l.2).rstack.headD 0).toNat < 2 ^ 56)) ∧
    ∃ e, Ready (.ret n0) (modTh (deepAs 1 base) 7 fun t => { t with rsdepth := 0 }) e ∧ e.w.handler = none ∧ (e.lanes.filter fun l => (e.th l.2).rsdepth == 0) ≠ [] :=
  ⟨by intro d hd; fin_cases hd <;> exact rdy_ready (by decide +kernel), rdy_ready (by decide +kernel)⟩
/-- A width-free crew of 32 threads whose pool has formed one warp. -/
def freeKer : Kernel := { ker with shape := { sh0 with crew := 32 } }
def pooled : State := { base with crews := [startCrew 0 { freshCrew 0 1 0 0 0 0 freeKer 0 8192 (List.replicate 64 0) with started := true }], ctxs := [{ ctx0 with kernel := some freeKer }] }
def formed : State := let s := run (.poolCycle 0) { pooled with cycle := 64 }
  { s with cur := (s.warp? 0 0).bind fun w => w.entries.head?.map fun x => ⟨0, 0, x.eid, 0x8000, 0⟩ }
theorem witness_ExitsAndParks : (∀ x ∈ on [.exit fG, .park fG] (preds splitWarp 0 [1]) ++ on [.exit n0, .park n0] formed, ∃ e, Ready x.1 x.2 e ∧ e.w.handler = none ∧ e.w.entries.length ≤ 8 ∧ e.lanes ≠ []) ∧
    (∃ e, Ready (.park n0) splitWarp e ∧ e.sh.width ≠ 0) ∧ ∃ e, Ready (.park n0) formed e ∧ e.sh.width = 0 ∧ e.lanes.length = 32 :=
  ⟨rdy_all (by decide +kernel), rdy_ready (by decide +kernel), rdy_ready (by decide +kernel)⟩
/-- Lanes 0 to 3 wait at join 7; the members of join 0 are all others. -/
def waiting7 : State := modW base fun w => { w with entries := [⟨2, 0x8000, 0x0F, 0, .jwait 7, [], 0⟩, ⟨1, 0x8000, 0xF0, 0, .none, [], 0⟩], joins := (w.joins.set 7 ⟨0xFF, 0x0F⟩).set 0 ⟨0x30, 0⟩ }
theorem witness_Joins : (∃ e, Ready (.jset 0 n0) waiting7 e ∧ e.w.handler = none ∧ e.w.joins.length = 8 ∧ (∀ x ∈ e.w.entries, x.hold ≠ .jwait 0) ∧ e.w.entries.length ≤ 8 ∧ e.mask ≠ 0) ∧
    (∃ e, Ready (.jset 7 n0) waiting7 e ∧ e.w.handler = none ∧ e.w.joins.length = 8 ∧ ∃ x ∈ e.w.entries, x.hold = .jwait 7) ∧
    ∀ x ∈ on [.jwait 0 n0, .jwait 0 fG, .jwait 7 n0, .jwait 7 fG] (preds waiting7 4 [1]), ∃ e, Ready x.1 x.2 e ∧ Quiet x.2 e ∧ e.w.handler = none ∧ e.w.joins.length = 8 ∧ e.room 1 ∧
      (∀ y ∈ e.w.entries, y.hold = .jwait 0 ∨ y.hold = .jwait 7 → y.pc = e.pc) ∧ (4, 4) ∈ e.lanes :=
  ⟨rdy_ready (by decide +kernel), rdy_ready (by decide +kernel), rdy_quiet (by decide +kernel)⟩
/-- The word of `mig v2` at 0x8000, waiting for a landing slot. -/
def migWord : Nat := hd 0 0 0x1FF 0x1FF 2 0x1FF 0 127 0x0B 0
def migrant (k : Kernel) : State := { windowed with crews := [{ crewOf k with warps := (crewOf k).warps.map fun w => { w with entries := w.entries.map fun x => { x with pc := 0x8000 } } }] }
def migKer : Kernel := { oneBlock migWord with shape := sh }
theorem witness_Migration :
    (∀ y ∈ [0x0, 0x800], ∃ e, Ready (.mig { n0 with a := .v 2 }) (allRegs (migrant ker) [(2, y)]) e ∧ e.w.handler = none ∧ e.lanes.head? = some (0, 0) ∧ e.w.live = e.execMask ∧ partnerLive e.c e.w = false ∧
      e.w.stall = none ∧ e.c.log = [] ∧ settled e.c e.w = true ∧ srcBits e.w (e.th 0) .b64 (.v 2) < 2 ^ 56 ∧ xlate (allRegs (migrant ker) [(2, y)]) (dieOf (e.c.warpCore e.w)) (some (e.c.warpCore e.w)) e.c.ctx (srcBits e.w (e.th 0) .b64 (.v 2)) .read =
        (allRegs (migrant ker) [(2, y)], .ok y.toNat 0) ∧ (∃ x ∈ e.w.entries, e.w.entries = [x] ∧ x.pc = e.pc ∧ x.hold = .none) ∧
      (migPlace (allRegs (migrant ker) [(2, y)]) e.c e.w y.toNat ((e.w.migWait.map (·.1)).getD (migrant ker).cycle)).isSome) ∧
    (∃ e, Ready (.mig { n0 with a := .v 2 }) splitWarp e ∧ e.w.handler = none ∧ e.lanes ≠ [] ∧ 1 < e.w.entries.length) ∧
    (∃ e, Ready (.mig { fG with a := .v 2 }) (preds base 0 [1]) e ∧ e.w.handler = none ∧ e.lanes ≠ [] ∧ e.w.live ≠ e.execMask) := by
  refine ⟨?_, rdy_ready (by decide +kernel), rdy_ready (by decide +kernel)⟩
  intro y hy; fin_cases hy <;> exact rdy_ready (by decide +kernel)
def migWaiting : State := modW (allRegs (migrant migKer) [(2, 0x800)]) fun w => { w with migWait := some (0, 1) }
abbrev migHyps (s : State) (c : Crew) (w : Warp) : Prop :=
  s.crew? 0 = some c ∧ c.warp? 0 = some w ∧ w.migWait = some (0, 1) ∧ (∃ x ∈ w.entries, w.entries = [x] ∧ decode c.kernel.shape (x.pc.toNat % 32) (codeBits c.kernel x.pc) = .ok (.mig { n0 with a := .v 2 }) ∧
    (w.lanesIn x.mask).head? = some (0, 0)) ∧ settled c w = true ∧
    xlate s (dieOf (c.warpCore w)) (some (c.warpCore w)) c.ctx (srcBits w (c.thread 0) .b64 (.v 2) % 2 ^ 56) .read = (s, .ok 0x800 0) ∧ (migPlace s c w 0x800 0).isSome
theorem witness_MigCommit : ∃ c w, migHyps migWaiting c w :=
  ⟨(migWaiting.crew? 0).get (by decide +kernel), (migWaiting.warp? 0 0).get (by decide +kernel), by decide +kernel⟩

/-! Memory. -/

theorem unmoved {s u : State} (h : { u with crews := s.crews, uid := s.uid } = s) : u = { s with crews := u.crews, uid := u.uid } := by
  cases u; cases s; simp only [State.mk.injEq] at h ⊢; simp [h]
/-- Every access lies in the tensor window, over memory that answers; or in a vault in service. -/
abbrev inReach (s : State) (e : Env) (o : MemOp) (m : MemExt) (k : Nat × Nat → Nat × Nat) : Prop :=
  ∀ l ∈ e.lanes, (k l).1 % o.bytes = 0 ∧ s.poisoned (k l).1 o.bytes = false ∧ s.busError (k l).1 = false ∧
    if o.space = .vault then vaultOf (s.ctx e.c.ctx) (e.addr m l) = (k l).1 ∧ (k l).2 = 0
    else
      let va := logAddr e.c o.space l.2 (e.addr m l) % 2 ^ 56
      logSpace o.space = .global ∧ o.kind ≠ .fetch ∧ (s.ctx e.c.ctx).inWindow va = true ∧ 0 ≤ ((va : Int) + sInt 64 ((s.ctx e.c.ctx).xl 4)) ∧
        (((va : Int) + sInt 64 ((s.ctx e.c.ctx).xl 4))).toNat = (k l).1 ∧ s.cached (k l).1 = true ∧ (k l).2 = va / 2 ^ 15
theorem granted_of {s : State} {e : Env} {o : MemOp} {m : MemExt} {k : Nat × Nat → Nat × Nat} (h : inReach s e o m k) : Granted s e o m k := by
  intro l hl
  obtain ⟨h1, h2, h3, h4⟩ := h l hl
  refine ⟨h1, h2, fun u w hu => ?_⟩
  have hc : u.ctx e.c.ctx = s.ctx e.c.ctx := by rw [unmoved hu]; rfl
  have hb : u.busError (k l).1 = s.busError (k l).1 := by rw [unmoved hu]; rfl
  have hk : u.cached (k l).1 = s.cached (k l).1 := by rw [unmoved hu]; rfl
  by_cases hv : o.space = .vault
  · rw [if_pos hv] at h4
    have h5 : logAddr e.c o.space l.2 (e.addr m l) = e.addr m l := by rw [hv]; rfl
    have h6 : logSpace o.space = .vault := by rw [hv]; rfl
    rw [h5, h6]
    simp only [laneGo, hc, h4.1, hb, h3]
    simp [← h4.2]
  · rw [if_neg hv] at h4
    obtain ⟨h5, h6, h7, h8, h9, h10, h11⟩ := h4
    rw [h5]
    simp only [laneGo, xlate, hc, h7, h9, hk, h10, hb, h3]
    have h12 : (o.kind == Access.fetch) = false := by cases hq : o.kind <;> first | rfl | exact absurd hq h6
    have h13 : ¬ ((((logAddr e.c o.space l.2 (e.addr m l) % 2 ^ 56 : Nat) : Int) + sInt 64 ((s.ctx e.c.ctx).xl 4)) < 0) := by omega
    rw [if_pos trivial, h12]
    simp only [Bool.false_eq_true, if_false, if_neg h13]
    simpa using h11.symm
/-- The place of an access. -/
def placeOf (s : State) (e : Env) (o : MemOp) (m : MemExt) (l : Nat × Nat) : Nat × Nat :=
  if o.space = .vault then (vaultOf (s.ctx e.c.ctx) (e.addr m l), 0)
  else (((logAddr e.c o.space l.2 (e.addr m l) % 2 ^ 56 : Nat) + sInt 64 ((s.ctx e.c.ctx).xl 4)).toNat, logAddr e.c o.space l.2 (e.addr m l) % 2 ^ 56 / 2 ^ 15)
/-- What the statements about an access ask of it, as a check. -/
abbrev accesses (s : State) (e : Env) (o : MemOp) (m : MemExt) : Prop := e.lanes ≠ [] ∧ e.proper ∧ e.legal s o m
def reaches (i : Instr) (s : State) (p : MemOp → Bool) : Bool :=
  match memOf i with | none => false | some (o, m) => p o && rdy i s (fun e => quietly s e ∧ accesses s e o m ∧ inReach s e o m (placeOf s e o m))
theorem reach_all {L : List (Instr × State)} {p : MemOp → Bool} (h : (L.all fun x => reaches x.1 x.2 p) = true) :
    ∀ x ∈ L, ∃ o m e k, memOf x.1 = some (o, m) ∧ p o = true ∧ Ready x.1 x.2 e ∧ Quiet x.2 e ∧ (e.lanes ≠ [] ∧ e.proper ∧ e.legal x.2 o m) ∧ Granted x.2 e o m k := by
  intro x hx
  have h1 := List.all_eq_true.mp h x hx
  unfold reaches at h1
  split at h1
  · cases h1
  · rename_i o m hm
    simp only [Bool.and_eq_true] at h1
    obtain ⟨e, h2, h3, h4, h5⟩ := rdy_ready h1.2
    exact ⟨o, m, e, _, hm, h1.1, h2, ⟨h3.1, h3.2.1, h3.2.2.1, h3.2.2.2⟩, h4, granted_of h5⟩
def scratches (i : Instr) (s : State) : Bool :=
  match memOf i with | none => false | some (o, m) => o.space == .scratch && rdy i s (fun e => quietly s e ∧ accesses s e o m ∧ e.c.scratch.wf = true)
theorem scratch_all {L : List (Instr × State)} (h : (L.all fun x => scratches x.1 x.2) = true) :
    ∀ x ∈ L, ∃ o m e, memOf x.1 = some (o, m) ∧ o.space = .scratch ∧ Ready x.1 x.2 e ∧ Quiet x.2 e ∧ (e.lanes ≠ [] ∧ e.proper ∧ e.legal x.2 o m) ∧ e.c.scratch.wf = true := by
  intro x hx
  have h1 := List.all_eq_true.mp h x hx
  unfold scratches at h1
  split at h1
  · cases h1
  · rename_i o m hm
    simp only [Bool.and_eq_true, beq_iff_eq] at h1
    obtain ⟨e, h2, h3, h4, h5⟩ := rdy_ready h1.2
    exact ⟨o, m, e, hm, h1.1, h2, ⟨h3.1, h3.2.1, h3.2.2.1, h3.2.2.2⟩, h4, h5⟩
/-- Each lane at 64 bytes of its own, the last at the end of what `base` gives. -/
def spread (s : State) : State := (List.range 8).foldl (fun s i => regs s i [(2, BitVec.ofNat 32 (64 * i)), (6, BitVec.ofNat 32 (0xA0 + i)), (7, 0x11111111), (8, 0x22222222), (9, 0x33333333)]) s
def memState : State := { spread windowed with mem := [(0, 7), (64, 9), (8192, 5), (2 ^ 52, 3)] }
def fLd : Fields := { n0 with d := .v 12, a := .v 2 }
def fSt : Fields := { n0 with a := .v 2, c := .v 6 }
def fAt : Fields := { n0 with d := .v 12, a := .v 2, c := .v 6 }
theorem plain_memState : PlainMemory memState := ⟨by decide +kernel, by decide +kernel, by decide +kernel⟩
theorem witness_ScratchpadAccesses : ∀ x ∈ on ([.lds .b32 .four pl fLd, .lds .n64 .one ⟨4096 - 456, 0, .plain⟩ fLd, .sts .b64 .two pl fSt, .sts .n8 .one pl fSt] ++
      [AOp.add, .min, .max, .and, .or, .xor, .xchg, .incw, .decw].map (fun o => .atms .n32 o pl fAt) ++ [.atms .b64 .cas pl fAt]) memState,
    ∃ o m e, memOf x.1 = some (o, m) ∧ o.space = .scratch ∧ Ready x.1 x.2 e ∧ Quiet x.2 e ∧ (e.lanes ≠ [] ∧ e.proper ∧ e.legal x.2 o m) ∧ e.c.scratch.wf = true := scratch_all (by decide +kernel)
/-- Data on its way to the last registers of the last thread. -/
def returning : State := { base with rets := [⟨9, 0, 7, [(15, 5), (14, 6)], true, none⟩] }
theorem witness_LoadsBringMemory : (∀ x ∈ on [.ldg .b32 .four pl fLd, .ldg .b64 .one ⟨0, 0, .acq⟩ fLd, .ldv .n8 .one pl fLd, .ldv .b64 .two pl { fLd with d := .v 12 }, .ldp .s16 .one pl fLd] memState, ∃ o m e k, memOf x.1 = some (o, m) ∧
      (o.kind == .read && [Space.priv, .vault, .global].contains o.space) = true ∧ Ready x.1 x.2 e ∧ Quiet x.2 e ∧ (e.lanes ≠ [] ∧ e.proper ∧ e.legal x.2 o m) ∧ Granted x.2 e o m k) ∧
    ∃ r, returning.rets.find? (fun x => x.id == 9) = some r ∧ (r.writes.map (·.1)).Nodup ∧ (∀ x ∈ r.writes, x.1 < (base.thread r.crew r.tid).v.length) :=
  ⟨reach_all (by decide +kernel), _, rfl, by decide, by decide +kernel⟩
theorem witness_StoresReachMemory : memState.mem.wf = true ∧ PlainMemory memState ∧ ∀ x ∈ on [.stg .b64 .four ⟨0, 0, .rel⟩ fSt, .stg .n8 .one pl fSt, .stv .b32 .two pl fSt, .stp .b64 .one pl fSt] memState, ∃ o m e k, memOf x.1 = some (o, m) ∧
      (o.kind == .write && [Space.priv, .vault, .global].contains o.space) = true ∧ Ready x.1 x.2 e ∧ Quiet x.2 e ∧ (e.lanes ≠ [] ∧ e.proper ∧ e.legal x.2 o m) ∧ Granted x.2 e o m k :=
  ⟨by decide, plain_memState, reach_all (by decide +kernel)⟩
theorem witness_AtomicsUpdateMemory : ∀ x ∈ on ([AOp.add, .min, .max, .and, .or, .xor, .xchg, .incw, .decw].map (fun o => .atmg .s32 o ⟨0, 0, .ar⟩ fAt) ++ [.atmg .b64 .cas pl fAt, .atmv .n64 .add pl fAt, .atmv .b32 .cas pl fAt]) memState,
    ∃ o m e k, memOf x.1 = some (o, m) ∧ (o.kind == .atomic && [Space.vault, .global].contains o.space) = true ∧ Ready x.1 x.2 e ∧ Quiet x.2 e ∧ (e.lanes ≠ [] ∧ e.proper ∧ e.legal x.2 o m) ∧ Granted x.2 e o m k :=
  reach_all (by decide +kernel)

/-- A job with the fabric number 5 behind port 35. -/
def fabState : State :=
  { (spread base) with ctxs := [{ ctx0 with job := 0x80007, dwin := [0xF000000000001, 0x40000000, 0xF001900000001, 0x1000, 0, 0, 0, 0] }], dev := [(devAddr 0 0x800030, 0x1000)], routes := [(5, 35)]
                       ports := State.reset.ports.map fun p => if p.num = 35 then { p with up := true } else p }
def toPeer (n : Word) (s : State) : State := allRegs s [(3, n <<< 12)]
def fFab : Fields := { n0 with a := .v 2, d := .v 12 }
def fFabSt : Fields := { n0 with a := .v 2, c := .v 6 }
def fFabAt : Fields := { n0 with a := .v 2, c := .v 6, d := .v 12 }
def fabrics (i : Instr) (s : State) (q : State → Env → MemOp → MemExt → Bool) : Bool :=
  match memOf i with | none => false | some (o, m) => o.space == .fabric && rdy i s (fun e => quietly s e ∧ accesses s e o m ∧ q s e o m = true)
theorem fabric_all {L : List (Instr × State)} {q : State → Env → MemOp → MemExt → Bool} (h : (L.all fun x => fabrics x.1 x.2 q) = true) :
    ∀ x ∈ L, ∃ o m e, memOf x.1 = some (o, m) ∧ o.space = .fabric ∧ Ready x.1 x.2 e ∧ Quiet x.2 e ∧ (e.lanes ≠ [] ∧ e.proper ∧ e.legal x.2 o m) ∧ q x.2 e o m = true := by
  intro x hx
  have h1 := List.all_eq_true.mp h x hx
  unfold fabrics at h1
  split at h1
  · cases h1
  · rename_i o m hm
    simp only [Bool.and_eq_true, beq_iff_eq] at h1
    obtain ⟨e, h2, h3, h4, h5⟩ := rdy_ready h1.2
    exact ⟨o, m, e, hm, h1.1, h2, ⟨h3.1, h3.2.1, h3.2.2.1, h3.2.2.2⟩, h4, h5⟩
def fabRoom (s : State) (e : Env) (o : MemOp) (m : MemExt) : Bool :=
  (s.ctx e.c.ctx).jobV && !s.gangHolds (s.ctx e.c.ctx).jobId && s.roomFor (e.lanes.flatMap fun l => (List.range o.elems).map fun j =>
    (fabPeer (e.addr m l), (fabPacket s (s.ctx e.c.ctx) o (e.addr m l) j (captured e o (e.th l.2))).size))
def fabRouted (s : State) (e : Env) (m : MemExt) (b : Bool) : Bool := e.lanes.all fun l => (s.route (fabPeer (e.addr m l))).isSome == b
def fabInstrs : List Instr := [.ldf .b32 .four pl fFab, .ldf .b64 .one pl fFab, .stf .n8 .one pl fFabSt, .stf .b64 .two pl fFabSt, .atmf .n32 .add pl fFabAt, .atmf .b64 .cas pl fFabAt]
/-- A register of the host die, at the end of the granted window; the last address before it ends. -/
def toDevice (a : Nat) (s : State) : State := preds (regs s 0 [(2, BitVec.ofNat 32 a), (3, BitVec.ofNat 32 (a / 2 ^ 32))]) 0 [1]
/-- Of a reserved die too. -/
def devicesOk (i : Instr) (s : State) : Bool :=
  match memOf i with
  | none => false
  | some (o, m) => o.space == .device && rdy i s (fun e => quietly s e ∧ e.lanes = [(0, 0)] ∧ e.legal s o m ∧ (s.dieFenced (e.addr m (0, 0)) = false ∨ dieReserved (e.addr m (0, 0)) = true))
theorem witness_FabricAndDeviceAccesses :
    (∀ x ∈ on fabInstrs (toPeer 5 fabState), ∃ o m e, memOf x.1 = some (o, m) ∧ o.space = .fabric ∧ Ready x.1 x.2 e ∧ Quiet x.2 e ∧ (e.lanes ≠ [] ∧ e.proper ∧ e.legal x.2 o m) ∧
      (fabRoom x.2 e o m && fabRouted x.2 e m true) = true) ∧
    (∀ x ∈ on fabInstrs (toPeer 4095 fabState), ∃ o m e, memOf x.1 = some (o, m) ∧ o.space = .fabric ∧ Ready x.1 x.2 e ∧ Quiet x.2 e ∧ (e.lanes ≠ [] ∧ e.proper ∧ e.legal x.2 o m) ∧
      (fabRoom x.2 e o m && fabRouted x.2 e m false) = true) ∧
    (∀ x ∈ on fabInstrs (toPeer 5 (spread base)), ∃ o m e, memOf x.1 = some (o, m) ∧ o.space = .fabric ∧ Ready x.1 x.2 e ∧ Quiet x.2 e ∧ (e.lanes ≠ [] ∧ e.proper ∧ e.legal x.2 o m) ∧
      (!(x.2.ctx e.c.ctx).jobV) = true) ∧
    dieReserved 0xF001900000000 = true ∧ ∀ a ∈ [0xF000000000000, 0xF00003FFFFFF8, 0xF001900000000], devicesOk (.ldd .b64 pl { fFab with g := .pred 1 false }) (toDevice a fabState) = true ∧ devicesOk (.std .b32 pl { fFabSt with g := .pred 1 false }) (toDevice a fabState) = true := by
  refine ⟨fabric_all (q := fun s e o m => fabRoom s e o m && fabRouted s e m true) (by decide +kernel), fabric_all (q := fun s e o m => fabRoom s e o m && fabRouted s e m false) (by decide +kernel),
    fabric_all (q := fun s e _ _ => !(s.ctx e.c.ctx).jobV) (by decide +kernel), by decide +kernel, by decide +kernel⟩
theorem witness_PrefetchesAndFences : ∀ x ∈ on [.pfg pl { n0 with a := .v 2 }, .pfgLlc pl { n0 with a := .v 2 }, .fenceAcq n0, .fenceRel n0, .fenceAr n0] memState, ∃ e, Ready x.1 x.2 e ∧ e.proper ∧ e.lanes ≠ [] :=
  rdy_all (by decide +kernel)
/-- R166: an empty source with its E bit set is dropped too. -/
theorem witness_Prefetches : noLinks { n0 with a := .v 2, e := 1 } ∧ ∀ x ∈ on [.pfg pl { n0 with a := .v 2, e := 1 }, .pfgLlc pl { n0 with a := .v 2, e := 1 }] emptied,
    ∃ e ∈ envOf x.1 x.2, e.w.handler = none ∧ (e.lanes.filter fun l => !(e.th l.2).isFull 2 1) ≠ [] := by
  refine ⟨by intro o ho n; fin_cases ho <;> simp [n0], fun x hx => ?_⟩
  fin_cases hx
  · exact ⟨(envOf (.pfg pl { n0 with a := .v 2, e := 1 }) emptied).get (by decide +kernel), Option.get_mem _, by decide +kernel⟩
  · exact ⟨(envOf (.pfgLlc pl { n0 with a := .v 2, e := 1 }) emptied).get (by decide +kernel), Option.get_mem _, by decide +kernel⟩

/-! Barriers and sync words. -/

/-- A sync word at 0x80 of the scratchpad. -/
def swState (w : SyncWord) : State := modC (preds base 0 [1]) fun c => { c with scratch := Mem.store [] 0x80 (leBytes 16 (swNat w)) }
def sw80 : MemExt := ⟨0x80, 0, .plain⟩
def fSw (d : Opd) (n : BitVec 6) : Fields := { n0 with g := .pred 1 false, d := d, c := .k n }
abbrev swHyps (s : State) (e : Env) (a : Nat) : Prop := quietly s e ∧ e.lanes = [(0, 0)] ∧ e.proper ∧ e.w.away = none ∧ e.w.handler = none ∧ e.addr sw80 (0, 0) = a ∧ swCheck e.c (s.ctx e.c.ctx) a = none ∧
  swLost s e.c a = false ∧ s.mem.wf = true ∧ e.c.scratch.wf = true
theorem plain_sw (w : SyncWord) : PlainMemory (swState w) :=
  ⟨rfl, ⟨rfl, (by decide +kernel : bitsOf (base.host 0x910018).toNat 63 61 ≠ 1), (by decide +kernel : bitsOf (base.host 0x910018).toNat 63 61 ≠ 2)⟩,
    (by decide +kernel : ∀ x ∈ base.ctxs, x.ckpt.protect = [] ∧ x.logOn = false)⟩
theorem witness_Barriers : (∀ k ∈ [7, 6], ∃ e, Ready (.bar fG) (modC (preds base 0 [1]) fun c => { c with barrier := { c.barrier with arrived := k } }) e ∧ e.w.handler = none ∧ e.lanes ≠ [] ∧ e.sh.width ≠ 0 ∧
      (e.c.barrier.arrived + e.lanes.length = e.c.barrier.expect ↔ k = 7)) := by
  intro k hk; fin_cases hk <;> exact rdy_ready (by decide +kernel)
theorem witness_SyncWords :
    (∀ n ∈ [(0 : BitVec 6), 1, 63], ∃ e, Ready (.swinit sw80 (fSw .z n)) (swState ⟨0, 0, 5, false, false⟩) e ∧ swHyps (swState ⟨0, 0, 5, false, false⟩) e 0x80 ∧ e.countC (e.th 0) = n.toNat) ∧
    (∀ w ∈ [(⟨1, 0, 5, false, false⟩ : SyncWord), ⟨2048, 2047, 0xFFFFFFFF, false, false⟩, ⟨0, 0, 5, false, false⟩], ∀ n ∈ [(0 : BitVec 6), 40],
      ∃ e, Ready (.swarrive sw80 (fSw (.v 15) n)) (swState w) e ∧ swHyps (swState w) e 0x80 ∧ swRead (swState w) 0 0x80 = w ∧ e.countC (e.th 0) = n.toNat) ∧
    (∀ g ∈ [(5 : Nat), 6], ∃ e, Ready (.swait sw80 (fSw (.v 14) 5)) (swState ⟨2, 1, g, false, false⟩) e ∧ swHyps (swState ⟨2, 1, g, false, false⟩) e 0x80 ∧ (swRead (swState ⟨2, 1, g, false, false⟩) 0 0x80).faulted = false ∧
      e.sh.width ≠ 0 ∧ (∀ x ∈ e.w.entries, x.eid = e.eid → x.pc = e.pc ∧ x.hold = .none) ∧ (swRead (swState ⟨2, 1, g, false, false⟩) 0 0x80).gen = g ∧ ∀ x ∈ e.c.copies, x = none) := by
  refine ⟨?_, ?_, ?_⟩
  · intro n hn; fin_cases hn <;> exact rdy_ready (by decide +kernel)
  · intro w hw n hn; fin_cases hw <;> fin_cases hn <;> exact rdy_ready (by decide +kernel)
  · intro g hg; fin_cases hg <;> exact rdy_ready (by decide +kernel)

/-! Engines. -/

/-- A copy of two rows of 64 bytes, from 0x200 to 0x400 of the scratchpad; its descriptor at 0x40. -/
def copyBytes : List Byte :=
  leBytes 8 0x200 ++ leBytes 8 0x400 ++ leBytes 8 (2 ^ 64 - 1) ++ leBytes 2 2 ++ leBytes 2 64 ++ [0, 0x22, 0, 0] ++ leBytes 8 64 ++ leBytes 8 128 ++ List.replicate 16 0
def copyState : State := modC (preds base 0 [1]) fun c => { c with scratch := Mem.store (Mem.store [] 0x40 copyBytes) 0x200 ((List.range 128).map fun n => BitVec.ofNat 8 (n + 1)) }
def copying (prog : Nat) : State :=
  modC copyState fun c => { c with copies := [some ⟨BitVec.ofNat 32 ((2 ^ 28 - 1) * 16), 3, .running, 0, 0, prog, 0, copyBytes, false, none⟩] ++ List.replicate 15 none }
abbrev copyHyps (s : State) (c : Crew) (x : CopyEnt) : Prop := s.crew? 0 = some c ∧ Crew.runs s c = true ∧ c.copies.getD 0 none = some x ∧ x.st = .running ∧ x.wait = none ∧ x.pmask = 0 ∧
  (copyDesc x.desc).sfmt = 0 ∧ (copyDesc x.desc).dfmt = 0 ∧ (copyDesc x.desc).ssp = 2 ∧ (copyDesc x.desc).dsp = 2 ∧ (copyDesc x.desc).swz = 0 ∧ (copyDesc x.desc).mcast = 0 ∧ (copyDesc x.desc).swa = 2 ^ 64 - 1 ∧
  0 < (copyDesc x.desc).perRow ∧ (copyDesc x.desc).elems = 32 * (copyDesc x.desc).perRow ∧ c.scratch.wf = true ∧
  ((copyDesc x.desc).srcRow (x.prog / (copyDesc x.desc).perRow) + 32 * (x.prog % (copyDesc x.desc).perRow)) % 2 ^ 64 + 32 ≤ c.kernel.shape.scratch ∧
  ((copyDesc x.desc).dstRow (x.prog / (copyDesc x.desc).perRow) + 32 * (x.prog % (copyDesc x.desc).perRow)) % 2 ^ 64 + 32 ≤ c.kernel.shape.scratch
/-- A copy that has faulted and was not reported. -/
def faultedCopy : State := modC (copying 3) fun c => { c with copies := c.copies.map fun x => x.map fun x => { x with st := .faulted, cause := 0x84, reported := false } }
theorem witness_CopiesRun :
    (∃ e, Ready (.cpy 3 { fG with d := .v 15, a := .v 2 }) (regs copyState 0 [(2, 0x40)]) e ∧ quietly copyState e ∧ e.w.cpy = none ∧ e.lanes = [(0, 0)] ∧ e.proper ∧ e.c.copies.length = 16 ∧ srcBits e.w (e.th 0) .n32 (.v 2) = 0x40 ∧
      0x40 + 64 ≤ e.sh.scratch ∧ descFault e.sh.qgroup (e.c.scratch.bytes 0x40 64) = none ∧ rowFault e.c (copyState.ctx e.c.ctx) (copyDesc (e.c.scratch.bytes 0x40 64)) = none ∧ freeCopy e.c = some 0) ∧
    (∀ k ∈ [0, 3], ∃ c x, copyHyps (copying k) c x ∧ x.prog = k ∧ (copyStep (copying k) 0 0).isSome) ∧
    (∀ h ∈ [0, 0xFFFFFFF0], ∃ e, Ready (.cpyq { fG with d := .v 14, a := .v 2 }) (regs (copying 3) 0 [(2, h)]) e ∧ e.lanes = [(0, 0)] ∧ e.proper) ∧
    (∃ e, Ready (.cpyq { fG with d := .v 14, a := .v 2 }) (regs faultedCopy 0 [(2, 0xFFFFFFF0)]) e ∧ e.lanes = [(0, 0)] ∧ e.proper ∧ 14 + 1 < (e.th 0).v.length ∧
      ∃ x ∈ e.c.copies.getD 0 none, x.handle.toNat = 0xFFFFFFF0 ∧ x.st = .faulted ∧ x.reported = false) := by
  refine ⟨rdy_ready (by decide +kernel), ?_, ?_, rdy_ready (by decide +kernel)⟩
  · intro k hk
    have w (k : Nat) (h1 : ((copying k).crew? 0).isSome = true) (h2 : (((copying k).crew? 0).bind fun c => c.copies.getD 0 none).isSome = true)
        (h3 : copyHyps (copying k) (((copying k).crew? 0).get h1) ((((copying k).crew? 0).bind fun c => c.copies.getD 0 none).get h2) ∧
          ((((copying k).crew? 0).bind fun c => c.copies.getD 0 none).get h2).prog = k ∧ (copyStep (copying k) 0 0).isSome) : ∃ c x, copyHyps (copying k) c x ∧ x.prog = k ∧ (copyStep (copying k) 0 0).isSome :=
      ⟨_, _, h3⟩
    fin_cases hk
    · exact w 0 (by decide +kernel) (by decide +kernel) (by decide +kernel)
    · exact w 3 (by decide +kernel) (by decide +kernel) (by decide +kernel)
  · intro h hh; fin_cases hh <;> exact rdy_ready (by decide +kernel)

/-- Three tiles: an f32 accumulator, an operand by rows and one transposed, each of 16 rows; K = 64. -/
def tileKer : Kernel := { ker with shape := { sh with tiles := 3, scratch := 16384 } }
def tileCrew : Crew := { crewOf tileKer with tiles := [⟨[], 0x7C80, [], 0⟩, ⟨[], 0x3D00, [], 0⟩, ⟨[], 0x43D00, [], 0⟩] }
def tileState : State := { base with crews := [tileCrew], ctxs := [{ ctx0 with kernel := some tileKer }] }
def moving (i : Instr) : State := run i tileState
abbrev moveHyps (s : State) (c : Crew) (x : Transfer) : Prop := s.crew? 0 = some c ∧ Crew.runs s c = true ∧ c.transfers = [x] ∧ x.dead = false ∧ x.wait = none ∧ x.tile < c.tiles.length ∧
  x.base.toNat + 16 * tileRL x.cfg * tileRows x.cfg ≤ 2 ^ 64
def tldInstr (spc : TSpace) : Instr := .tld spc 0 0x100 { n0 with d := .t 2, a := .v 2 }
def tstInstr (spc : TSpace) (st : BitVec 16) : Instr := .tst spc st 0x100 { n0 with a := .t 2, b := .v 2 }
theorem witness_TilesMove :
    (∃ e, Ready (.tzero { n0 with d := .t 2 }) tileState e ∧ e.lanes ≠ [] ∧ 2 < e.c.tiles.length ∧ tileRL (e.c.tile 2).cfg ≠ 0 ∧ (e.c.tile 2).idle = true ∧ (e.c.tile 2).data.wf = true) ∧
    (∀ spc ∈ [TSpace.sp, .vt, .gl], ∃ e, Ready (tldInstr spc) tileState e ∧ quietly tileState e ∧ e.lanes.head? = some (0, 0) ∧ 2 < e.c.tiles.length ∧ tileRL (e.c.tile 2).cfg ≠ 0 ∧ (e.c.tile 2).idle = true ∧
      rowsCheck e.c (tileState.ctx e.c.ctx) spc 0 (tileSpans (tileBase e (e.th 0) (.v 2) 0x100) 0 (e.c.tile 2).cfg) = .pass) ∧
    (∀ spc ∈ [TSpace.sp, .vt, .gl], ∃ e, Ready (tstInstr spc 9) tileState e ∧ quietly tileState e ∧ e.lanes.head? = some (0, 0) ∧ 2 < e.c.tiles.length ∧ tileRL (e.c.tile 2).cfg ≠ 0 ∧ (e.c.tile 2).writers = [] ∧
      (e.c.tile 2).lends < 63 ∧ rowsCheck e.c (tileState.ctx e.c.ctx) spc 0 (tileSpans (tileBase e (e.th 0) (.v 2) 0x100) 9 (e.c.tile 2).cfg) = .pass) ∧
    (∃ c x, moveHyps (moving (tldInstr .sp)) c x ∧ x.instr = tldInstr .sp ∧ (c.tile x.tile).writers.head? = some x.id ∧ (c.tile x.tile).data.wf = true) ∧
    ∃ c x, moveHyps (moving (tstInstr .sp 0)) c x ∧ x.instr = tstInstr .sp 0 ∧ c.scratch.wf = true := by
  refine ⟨rdy_ready (by decide +kernel), ?_, ?_, ?_, ?_⟩
  · intro x hx; fin_cases hx <;> exact rdy_ready (by decide +kernel)
  · intro x hx; fin_cases hx <;> exact rdy_ready (by decide +kernel)
  · exact ⟨((moving (tldInstr .sp)).crew? 0).get (by decide +kernel), (((moving (tldInstr .sp)).crew? 0).bind fun c => c.transfers.head?).get (by decide +kernel), by decide +kernel⟩
  · exact ⟨((moving (tstInstr .sp 0)).crew? 0).get (by decide +kernel), (((moving (tstInstr .sp 0)).crew? 0).bind fun c => c.transfers.head?).get (by decide +kernel), by decide +kernel⟩
/-- One pass of K = 64 into tile 0 from tiles 1 and 2; its block at 0x40; C[0][0] = 1, and the products of the example of chapter 02 in row 0 and column 0. -/
def matBlock : List Byte := [1, 0, 0, 0] ++ leBytes 4 0x400 ++ List.replicate 8 0 ++ leBytes 8 (1 * 2 ^ 54 + 2 * 2 ^ 49 + 8 * 2 ^ 44)
def matData (c : Crew) : Crew :=
  let put (t r k n x : Nat) (c : Crew) : Crew := { c with tiles := c.tiles.modify t fun y => { y with data := y.data.store (tileByte y.cfg r k) (leBytes n x) } }
  put 0 0 0 4 0x3F800000 (put 1 0 0 2 0x3FC0 (put 1 0 1 2 0x2180 (put 1 0 32 2 0xC000 (put 2 0 0 2 0x4000 (put 2 0 1 2 0x2180 (put 2 0 32 2 0x4000 c))))))
def matState : State := modC tileState fun c => matData { c with scratch := Mem.store [] 0x40 matBlock }
def queued : State := run (.mmx 3 { n0 with d := .v 15, a := .v 2 }) (regs matState 0 [(2, 0x40)])
def granted : State := run (.matrixPassGrant 0) { queued with cycle := 1 }
def beaten : State := { granted with cycle := 3 }
theorem witness_MatrixRequestsRun :
    (∃ e, Ready (.mmx 3 { n0 with d := .v 15, a := .v 2 }) (regs matState 0 [(2, 0x40)]) e ∧ quietly matState e ∧ e.lanes.head? = some (0, 0) ∧ e.proper ∧ e.c.mats.length = 32 ∧
      srcBits e.w (e.th 0) .n32 (.v 2) = 0x40 ∧ blockFault e.c 0x40 (readBlock e.c 0x40) = none ∧ tableUsed matState (quadOf e.c.core) < 32 ∧ (∀ t ∈ readTiles (readBlock e.c 0x40).passes, (e.c.tile t).lends < 63) ∧
      freeMat e.c = some 0) ∧
    (∃ c m, (∀ x ∈ quadMats queued 0, x.2.st ≠ .running) ∧ grantPick queued 0 = some (c, m) ∧ queued.crew? c.id = some c ∧ c.mats.getD m.num none = some m) ∧
    (∃ c m, (quadMats beaten 0).find? (fun x => x.2.st == .running) = some (c, m) ∧ passBeats m.pass ≤ m.beat + (beaten.cycle - m.start) ∧ beaten.crew? c.id = some c ∧ c.mats.getD m.num none = some m ∧
      passCT m.pass < c.tiles.length ∧ (c.tile (passCT m.pass)).data.wf = true ∧ m.w.length = 256 ∧ accShape (shapeOf m (passCT m.pass)) = true ∧ tcfgFault (shapeOf m (passCT m.pass)) = none) ∧
    ∀ h ∈ [0, 32], ∃ e, Ready (.mmq { n0 with d := .v 14, a := .v 2 }) (regs granted 0 [(2, h)]) e ∧ e.lanes ≠ [] := by
  refine ⟨rdy_ready (by decide +kernel), ⟨((grantPick queued 0).get (by decide +kernel)).1, ((grantPick queued 0).get (by decide +kernel)).2, by decide +kernel⟩,
    ⟨(((quadMats beaten 0).find? fun x => x.2.st == .running).get (by decide +kernel)).1, (((quadMats beaten 0).find? fun x => x.2.st == .running).get (by decide +kernel)).2, by decide +kernel⟩, ?_⟩
  intro h hh; fin_cases hh <;> exact rdy_ready (by decide +kernel)
/-- R48: the example's pass delivers +0. -/
theorem test_matrixPass : ((quadMats beaten 0).head?).map (fun x => (passBeatsDo x.1 x.2 (x.2.w.take 1) 0 2).map fun w => (roundFl fmtF32 .rne (wpDecode w)).1) = some [0] := by decide +kernel

/-! Control registers and traps. -/

/-- The warp's handler, entered by `trap 7`; what lane 7 of the trapping entry holds. -/
def handling : State := { (run (.trap 7 n0) hbase) with cur := some ⟨0, 0, 1, 0x8200, 0⟩ }
/-- Data on its way to lane 7. -/
def busyLane : State := { base with rets := [⟨9, 0, 7, [(15, 5)], true, none⟩] }
theorem witness_ControlRegisterReads :
    (∀ x ∈ on ([0x000, 0x011, 0x030, 0x031, 0x101].map fun n => .csrr n { n0 with d := .v 14 }) base ++ on [.csrr 0x040 { n0 with d := .s 60 }, .csrr 0x044 { n0 with d := .s 62 }] handling, ∃ e, Ready x.1 x.2 e ∧ e.lanes ≠ []) ∧
    (∀ n ∈ [(0x040 : BitVec 12), 0x044], ∃ e ∈ envOf (.csrr n { n0 with d := .s 62 }) base, e.w.handler = none ∧ issueHeld e = false ∧ surfaced e = .pass ∧ e.lanes ≠ []) ∧
    (∃ e, Ready (.timeOrd { n0 with d := .v 12 }) busyLane e ∧ (7, 7) ∈ e.lanes ∧ e.c.log = [] ∧ e.c.transfers = []) ∧
    (∃ w ∈ handling.warp? 0 0, ∃ h ∈ w.handler, h.record.tmask = 0xFF) ∧
    (∀ x ∈ on [.time { n0 with d := .v 14 }, .timeOrd { n0 with d := .s 63 }] base, ∃ e, Ready x.1 x.2 e ∧ Quiet x.2 e ∧ (∀ l ∈ e.lanes, (e.th l.2).chain = []) ∧ (∀ r ∈ x.2.rets, r.crew ≠ e.c.id) ∧ e.lanes ≠ []) := by
  refine ⟨rdy_all (by decide +kernel), ?_, rdy_ready (by decide +kernel), ?_, rdy_quiet (by decide +kernel)⟩
  · intro n hn
    fin_cases hn
    · exact ⟨(envOf (.csrr 0x040 { n0 with d := .s 62 }) base).get (by decide +kernel), Option.get_mem _, by decide +kernel⟩
    · exact ⟨(envOf (.csrr 0x044 { n0 with d := .s 62 }) base).get (by decide +kernel), Option.get_mem _, by decide +kernel⟩
  exact ⟨(handling.warp? 0 0).get (by decide +kernel), Option.get_mem _, ((handling.warp? 0 0).bind (·.handler)).get (by decide +kernel), by rw [Option.mem_def]; decide +kernel, by decide +kernel⟩
/-- A legal shape of tile 1, the least and the greatest row length; an illegal one. -/
def shaping (x : Word) : State := regs base 0 [(2, x)]
def heldTile (x : Word) : State := modC (shaping x) fun c => { c with tiles := c.tiles.modify 1 fun t => { t with lends := 1 } }
def consumes : State := modTh base 7 fun t => { t with chain := [⟨0x52, 0x60, 0x00E, .link 0, .value 0, .unused, 0, false⟩], links := t.links.set 0 ⟨false, .part, .finite, 0, 2, []⟩ }
theorem witness_ControlRegisterWrites :
    (∀ x ∈ on ([0x010, 0x011, 0x019].map fun n => .csrw n { n0 with a := .v 2 }) base, ∃ e, Ready x.1 x.2 e ∧ e.lanes ≠ [] ∧ e.proper ∧ ∀ k ∈ e.lanes, (e.th k.2).consuming = false) ∧
    (∀ x ∈ on ([0x010, 0x011].map fun n => .csrw n { n0 with a := .v 2 }) consumes, ∃ e, Ready x.1 x.2 e ∧ e.lanes ≠ [] ∧ e.proper ∧ ¬ ∀ k ∈ e.lanes, (e.th k.2).consuming = false) ∧
    (∃ e, Ready (.csrw 0x041 { n0 with a := .s 0 }) handling e ∧ e.lanes ≠ [] ∧ e.proper ∧ e.w.handler.isSome) ∧
    (∀ x ∈ [(0x20 : Word), 0x300], ∃ e, Ready (.csrw 0x101 { n0 with a := .v 2 }) (shaping x) e ∧ e.lanes ≠ [] ∧ e.proper ∧ 1 < e.c.tiles.length ∧ tcfgFault (x &&& 0x0007FFE0) = none ∧ (e.c.tile 1).idle = true) ∧
    (∀ x ∈ [(0x320 : Word), 0x28020], ∃ e, Ready (.csrw 0x101 { n0 with a := .v 2 }) (shaping x) e ∧ e.lanes ≠ [] ∧ e.proper ∧ 1 < e.c.tiles.length ∧ (tcfgFault (x &&& 0x0007FFE0)).isSome) ∧
    (∃ e, Ready (.csrw 0x101 { n0 with a := .v 2 }) (heldTile 0x20) e ∧ e.lanes ≠ [] ∧ e.proper ∧ 1 < e.c.tiles.length ∧ tcfgFault (0x20 &&& 0x0007FFE0) = none ∧ (e.c.tile 1).idle = false) ∧
    ∀ x ∈ on [.cstep { n0 with a := .k 0 }, .cstep { n0 with a := .v 15 }] base, ∃ e, Ready x.1 x.2 e ∧ Quiet x.2 e ∧ e.lanes ≠ [] ∧ ckEn x.2 e.c.ctx = false := by
  refine ⟨rdy_all (by decide +kernel), rdy_all (by decide +kernel), rdy_ready (by decide +kernel), ?_, ?_, rdy_ready (by decide +kernel), rdy_quiet (by decide +kernel)⟩
  · intro x hx; fin_cases hx <;> exact rdy_ready (by decide +kernel)
  · intro x hx; fin_cases hx <;> exact rdy_ready (by decide +kernel)
/-- A context that the debugger may halt. -/
def haltable : State := base.setHost (ctxOff 0 + 0x18) 1
theorem witness_SoftwareTraps :
    (∀ x ∈ on [.trap 7 n0, .assert 8 { n0 with a := .p 7 }, .brk 3 n0] base, ∃ e, Ready x.1 x.2 e ∧ e.lanes ≠ []) ∧
    (∀ x ∈ on [.trap 7 fG, .assert 8 { fG with a := .p 7 }, .brk 3 fG] base, ∃ e, Ready x.1 x.2 e ∧ e.lanes = []) ∧
    (∃ e, Ready (.assert 8 { n0 with a := .p 7 }) (preds base 0 [7]) e ∧ (e.lanes.filter fun l => !predOf (e.th l.2) (.p 7)).length = 7) ∧
    (∃ e, Ready (.assert 8 { fG with a := .p 1 }) (preds base 0 [1]) e ∧ e.lanes ≠ [] ∧ ∀ l ∈ e.lanes, predOf (e.th l.2) (.p 1) = true) ∧
    (∃ e, Ready (.brk 3 n0) haltable e ∧ e.lanes ≠ [] ∧ haltable.haltEn e.c.ctx = true) ∧ (envOf (.illegalInstruction 1 0) base).isSome :=
  ⟨rdy_all (by decide +kernel), rdy_all (by decide +kernel), rdy_ready (by decide +kernel), rdy_ready (by decide +kernel), rdy_ready (by decide +kernel), by decide +kernel⟩
/-- A trap with a handler, without one, under a stop, and in a trap stop with 3 and with 4 secondary traps. -/
def underStop : State := { base with ctxs := [{ ctx0 with stop := some ⟨0, 1, 0⟩ }] }
def inTrapStop (n : Nat) : State := { base with ctxs := [{ ctx0 with trapStop := true, nsecond := n, seconds := List.replicate (Nat.min n 4) (0, ⟨0, 0, 0, 0, 0, 0, .none⟩) }] }
abbrev trapHyps (s : State) (c : Crew) (w : Warp) : Prop := s.crew? 0 = some c ∧ c.warp? 0 = some w ∧ w.handler = none
theorem witness_TakingATrap :
    (trapHyps hbase (crewOf handlerKer) (freshWarp ker 0 1 (List.replicate 64 0)) ∧ (hbase.ctx 0).trapStop = false ∧ (hbase.ctx 0).holds 0 = false ∧ handlerKer.trapVA ≠ 0 ∧ handlerKer.shape.width ≠ 0) ∧
    (trapHyps base (crewOf ker) (freshWarp ker 0 1 (List.replicate 64 0)) ∧ (base.ctx 0).trapStop = false ∧ (base.ctx 0).holds 0 = false ∧ ker.trapVA = 0) ∧
    (trapHyps underStop (crewOf ker) (freshWarp ker 0 1 (List.replicate 64 0)) ∧ (underStop.ctx 0).trapStop = false ∧ (underStop.ctx 0).holds 0 = true) ∧
    ∀ n ∈ [3, 4], trapHyps (inTrapStop n) (crewOf ker) (freshWarp ker 0 1 (List.replicate 64 0)) ∧ ((inTrapStop n).ctx 0).trapStop = true := by decide +kernel
/-- Lane 7 has a full link; and one that is empty. -/
def linked (st : LState) : State := modTh handling 7 fun t => t.setLink 3 ⟨true, st, .finite, 0, 2, if st = .full then List.replicate 106 1 else []⟩
/-- The snapshot of that full link in s0 to s3, a malformed one, and one of an empty link. -/
def snapIn (x : Nat) : State := modW handling fun w => { w with s := (List.range 4).foldl (fun s i => s.set i (BitVec.ofNat 64 (x / 2 ^ (64 * i)))) w.s }
def snapOf (l : LinkReg) : Nat := l.snapshot
theorem witness_HandlerInstructions :
    (∃ e, Ready (.rte n0) handling e ∧ ∃ h ∈ e.w.handler, ∃ x ∈ e.w.entries, e.w.entries = [x] ∧ x.eid = h.eid ∧ x.hold = .none) ∧
    (∀ x ∈ on [.lrd 1 { n0 with d := .s 60, a := .v 14, b := .k 7 }, .lrd 0 { n0 with d := .s 60, a := .v 15, b := .k 7 }, .lrd 0 { n0 with d := .s 60, a := .p 7, b := .k 7 }] handling ++
        on [.lrd 3 { n0 with d := .s 60, a := .l 3, b := .k 7 }] (linked .full),
      ∃ e, Ready x.1 x.2 e ∧ e.w.handler.isSome = true ∧ laneThread e = some 7 ∧ (60 : BitVec 6).toNat + 3 < e.w.s.length) ∧
    (∀ x ∈ on [.lwr 1 { n0 with d := .v 14, a := .s 0, b := .k 7 }, .lwr 0 { n0 with d := .v 14, a := .s 0, b := .k 7 }, .lwr 0 { n0 with d := .p 7, a := .s 0, b := .k 7 },
        .lwr 3 { n0 with d := .l 3, a := .s 0, b := .k 7 }] handling,
      ∃ e, Ready x.1 x.2 e ∧ e.w.handler.isSome = true ∧ laneThread e = some 7 ∧ (e.th 7).chain = [] ∧ 7 < e.c.threads.length ∧ 14 + 1 < (e.th 7).v.length ∧ 3 < (e.th 7).links.length) ∧
    (∃ y ∈ LinkReg.ofSnapshot true (((linked .full).thread 0 7).link 3).snapshot, y.legal = true ∧ y.st = .full) ∧ (match LinkReg.ofSnapshot true (2 ^ 255) with | none => true | some y => !y.legal || (y.st != .full && y.st != .consumed)) = true := by
  refine ⟨rdy_ready (by decide +kernel), rdy_all (by decide +kernel), rdy_all (by decide +kernel), ?_, by decide +kernel⟩
  exact ⟨(LinkReg.ofSnapshot true (((linked .full).thread 0 7).link 3).snapshot).get (by decide +kernel), Option.get_mem _, by decide +kernel⟩

/-! Deprecated instructions and width-free warps. -/

def microState (k : Nat) : State := (List.range k).foldl (fun s _ => run (.microStep 0 0) s) (run (.lcpy 16 { n0 with d := .v 0, a := .v 0, b := .k 7 }) lanes8)
abbrev microHyps (s : State) (c : Crew) (w : Warp) (m : Micro) : Prop := s.crew? 0 = some c ∧ c.warp? 0 = some w ∧ w.micro = some m ∧ (∃ e ∈ microEnv c w m, (e.lanes.map (·.2)).Nodup ∧ ∀ l ∈ e.lanes, l.2 < c.threads.length ∧ 15 < (c.thread l.2).v.length) ∧ Crew.runs s c = true ∧ w.handler = none ∧ w.trap = none ∧
  (∃ x ∈ w.entries, x.eid = m.eid) ∧ w.entries.length ≤ 7
def microOf (s : State) : Option (Crew × Warp × Micro) := (s.crew? 0).bind fun c => (c.warp? 0).bind fun w => w.micro.map fun m => (c, w, m)
theorem microOf_wit {s : State} {P : Micro → Prop} [DecidablePred P] (h : (match microOf s with | some x => decide (microHyps s x.1 x.2.1 x.2.2 ∧ P x.2.2) | none => false) = true) : ∃ c w m, microHyps s c w m ∧ P m := by
  split at h
  next x _ => exact ⟨x.1, x.2.1, x.2.2, of_decide_eq_true h⟩
  next => cases h
theorem witness_MicrocodedInstructions :
    (∀ x ∈ on [.vgat { n0 with d := .v 12, a := .v 2, b := .v 4 }, .dmov { n0 with a := .v 2, b := .v 4 }, .lcpy 16 { n0 with d := .v 0, a := .v 0, b := .k 7 }] base, ∃ e, Ready x.1 x.2 e ∧ e.lanes ≠ [] ∧ e.proper) ∧
    (∃ c w m, microHyps (microState 0) c w m ∧ m.mstep = 1 ∧ m.mstep < 17 ∧ (m.vals[m.mstep - 1]?).isSome) ∧ (∃ c w m, microHyps (microState 15) c w m ∧ m.mstep = 16 ∧ (m.vals[m.mstep - 1]?).isSome) ∧
    ∃ c w m, microHyps (microState 16) c w m ∧ retireStep m.instr ≤ m.mstep :=
  ⟨rdy_all (by decide +kernel), microOf_wit (by decide +kernel), microOf_wit (by decide +kernel), microOf_wit (by decide +kernel)⟩
/-- A warp with a free lane whose record waits in a bin; an entry that issued nothing for 256 issues. -/
def holed : State := modC formed fun c => { c with warps := c.warps.map fun w => { w with lanes := w.lanes.set 31 none, entries := w.entries.map fun x => { x with mask := 0x7FFFFFFF } }
                                                   bins := c.bins.set 0 (some ⟨0x8000, [⟨0x8000, 0, 31, 5⟩]⟩) }
def idling : State := modW formed fun w => { w with entries := w.entries.map fun x => { x with idle := 256 } }
theorem witness_WidthFreeWarps :
    (∃ c ∈ pooled.crew? 0, c.kernel.shape.width = 0 ∧ Crew.runs { pooled with cycle := 64 } c = true ∧ freeSlot c = some 0 ∧ (pickBin 64 c).isSome) ∧
    (∃ c ∈ holed.crew? 0, ∃ w ∈ c.warp? 0, c.kernel.shape.width = 0 ∧ Crew.runs holed c = true ∧ w.away = none ∧ w.lanes.getD 31 none = none ∧ (oldest ((refillOf c w 31).map (·.2))).isSome ∧ 31 < w.lanes.length) ∧
    ∃ c ∈ idling.crew? 0, ∃ w ∈ c.warp? 0, ∃ x ∈ w.entries, w.entries = [x] ∧ c.kernel.shape.width = 0 ∧ Crew.runs idling c = true ∧ w.away = none ∧ x.hold = .none ∧ 256 ≤ x.idle ∧ none ∈ c.bins ∧ w.joined x.mask = false := by
  refine ⟨⟨(pooled.crew? 0).get (by decide +kernel), Option.get_mem _, by decide +kernel⟩, ⟨(holed.crew? 0).get (by decide +kernel), Option.get_mem _, ((holed.crew? 0).bind (·.warp? 0)).get (by decide +kernel), ?_, by decide +kernel⟩,
    ⟨(idling.crew? 0).get (by decide +kernel), Option.get_mem _, ((idling.crew? 0).bind (·.warp? 0)).get (by decide +kernel), ?_, by decide +kernel⟩⟩
  all_goals (rw [Option.mem_def]; decide +kernel)

/-! Translation. -/

def stores (s : State) (l : List (Nat × Nat)) : State := { s with mem := l.foldl (fun m x => m.store x.1 (leBytes 8 x.2)) s.mem }
def withCtx (s : State) (g : Ctx → Ctx) : State := { s with ctxs := s.ctxs.map g }
def rooted (x4 va : Nat) : State :=
  stores (withCtx base fun x => { x with xlat := x.xlat.set 0 0x10000 })
    [(0x10000 + 8 * bitsOf va 55 51, 0x20001), (0x20000 + 8 * bitsOf va 50 39, 0x30001), (0x30000 + 8 * bitsOf va 38 27, 0x48001), (0x48000 + 8 * bitsOf va 26 15, x4)]
/-- The last byte of the address space, and the first; a leaf of each permission. -/
abbrev walkHyps (s : State) (die ctx va : Nat) (kind : Access) (x1 x2 x3 x4 : Nat) : Prop :=
    va < 2 ^ 56 ∧ (s.ctx ctx).inWindow va = false ∧ (∀ t ∈ s.tlb, t.covers die none ctx va = false) ∧
    let a1 := bitsOf ((s.ctx ctx).xl 0) 51 8 * 2 ^ 8 + 8 * bitsOf va 55 51
    let a2 := entAddr x1 + 8 * bitsOf va 50 39
    let a3 := entAddr x2 + 8 * bitsOf va 38 27
    let a4 := entAddr x3 + 8 * bitsOf va 26 15
    (∀ a ∈ [a1, a2, a3, a4], s.busError a = false ∧ s.poisoned a 8 = false) ∧
    s.physNat a1 8 = x1 ∧ s.physNat a2 8 = x2 ∧ s.physNat a3 8 = x3 ∧ s.physNat a4 8 = x4 ∧
    (∀ p ∈ ([(x1, 1), (x2, 2), (x3, 3)] : List (Nat × Nat)), p.1 % 4 = 1 ∧ entMalformed p.1 p.2 = false) ∧ x4 % 4 = 3 ∧ entMalformed x4 4 = false ∧
    bitsOf x4 57 56 = 0 ∧ permits x4 kind = true ∧ s.busError (entAddr x4 + va % 2 ^ 15) = false
def topVa : Nat := 0xFFFFFFFFFFFFFF
/-- Two entries, the second not sent; one index left, which the allocation just allows. -/
def mergeE (vp : Nat) (i : Option Nat) : MergeEnt := ⟨0, 0, 0, vp, true, false, false, [.warp 0 0], i⟩
def asking : State := { base with merge := [mergeE 1 (some 3), mergeE 2 none], prgFree := [511], priAlloc := 512 }
def stalled (waiting : Bool) (va : Nat) (s : State) : State := modW s fun w => { w with stall := some ⟨va, .fetch, 0, 0, waiting⟩ }
def answered : State := stalled true 0x8000 { base with merge := [mergeE 1 (some 511)], prgFree := (List.range 511) }
/-- A warp waits for the ATS translation of a host page. -/
def atsOut : State := stalled true topVa { rooted 0x20000000006001F topVa with hostOut := [.queueSignal 1, .atsRequest 0 12] }
theorem ok_of {α β : Type} [DecidableEq β] {x : Except α β} {y : β} (h : (match x with | .ok z => decide (z = y) | .error _ => false) = true) : x = .ok y := by
  split at h
  next z => rw [of_decide_eq_true h]
  next => cases h
theorem witness_TranslationAndPageRequests :
    ((xlate base 0 none 0 (topVa % 2 ^ 56) .read).2 = .fault 5) ∧
    walkHyps (rooted 0x50007 topVa) 9 0 topVa .read 0x20001 0x30001 0x48001 0x50007 ∧ walkHyps (rooted 0x5001F 0) 0 0 0 .fetch 0x20001 0x30001 0x48001 0x5001F ∧
    (asking.merge.find? (fun y => y.prgi.isNone) = some (mergeE 2 none) ∧ asking.prgFree = 511 :: [] ∧ 512 - asking.prgFree.length < asking.priAlloc ∧ asking.priStopped = false ∧
      (mergeE 2 none).pasid = (asking.ctx 0).pasid) ∧
    (answered.noLog ∧ answered.merge.find? (fun y => y.prgi == some 511) = some (mergeE 1 (some 511)) ∧ (mergeE 1 (some 511)).waiters = [.warp 0 0] ∧
      answered.stallOf 0 0 = some ⟨0x8000, .fetch, 0, 0, true⟩ ∧ answered.merge = [mergeE 1 (some 511)]) ∧
    atsOut.noLog ∧ HostMsg.atsRequest (0 : BitVec 20).toNat 12 ∈ atsOut.hostOut ∧ (∃ c ∈ atsOut.crew? 0, ∃ w ∈ c.warp? 0, w.stall = some ⟨topVa, .fetch, 0, 0, true⟩ ∧
      (atsOut.ctx c.ctx).pasid = (0 : BitVec 20).toNat) ∧
    topVa < 2 ^ 56 ∧ walk atsOut topVa 4 1 (bitsOf ((atsOut.ctx 0).xl 0) 51 8 * 2 ^ 8) = .ok (0x20000000006001F, 4) ∧ entTgt 0x20000000006001F = 2 ∧ entAddr 0x20000000006001F / 2 ^ 15 = 12 := by
  refine ⟨by decide +kernel, by decide +kernel, by decide +kernel, by decide +kernel, by decide +kernel, by decide +kernel, by decide +kernel, ?_, by decide, ?_, by decide, by decide⟩
  · exact ⟨(atsOut.crew? 0).get (by decide +kernel), Option.get_mem _, ((atsOut.crew? 0).bind (·.warp? 0)).get (by decide +kernel), by rw [Option.mem_def]; decide +kernel, by decide +kernel⟩
  · exact ok_of (by decide +kernel)

/-! Invalidations, migration and channels. -/

/-- Translations of two contexts, one of them a leaf of 128 MiB, pages 0x1000 to 0x1FFF. -/
def inval (v : Inval) : State := withCtx { base with inval := [v, ⟨2, 0, 0, 0, none⟩], tlb := [⟨0, none, 0, 1, 4, 0, none⟩, ⟨0, some 3, 0, 0x1000, 3, 0, none⟩, ⟨0, none, 1, 1, 4, 0, none⟩, ⟨9, none, 0, 7, 4, 0x20000000006001F, some 0x8000⟩] }
  fun x => { x with xlat := x.xlat.set 2 5 }
theorem witness_Invalidations : (0xFFFFF : BitVec 20) ≠ 0 ∧ base.hostF 0x300008 63 63 = 0 ∧ (run (.invalidateAll) base).hostF 0x300008 63 63 = 1 ∧
    (∀ v ∈ [(⟨0, 0, 1, 1, none⟩ : Inval), ⟨0, 0, 0x1FFF, 1, none⟩, ⟨1, 0, 0, 0, none⟩, ⟨2, 0, 0, 0, none⟩], (inval v).inval = v :: [⟨2, 0, 0, 0, none⟩] ∧ v.ats = none) ∧
    ((inval ⟨1, 0, 0, 0, none⟩).ctx 0).bound = true ∧ (inval ⟨0, 0, 12, 1, some 0⟩).inval = ⟨0, 0, 12, 1, some 0⟩ :: [⟨2, 0, 0, 0, none⟩] := by decide +kernel
/-- Slot 15 names two frames; the same frame twice; a frame that another slot uses. -/
def frames (a b : Quad) (m : List MigSlot) : State := ({ base with mig := m }.setHost (migOff 15) a).setHost (migOff 15 + 8) b
/-- Line n of the first frame is the next one, and holds 1 in its last byte. -/
def migrating (n : Nat) : State := { (frames 0x8000 0x10000 [⟨15, 0x8000, 0x10000, n⟩]).setHostF (migOff 15 + 0x10) 63 61 1 with mem := [(0x8000 + 128 * n + 127, 1), (0x20000, 2)] }
def mirrored : State := { (frames 0x8000 0x10000 [⟨15, 0x8000, 0x10000, 256⟩]).setHostF (migOff 15 + 0x10) 63 61 2 with l1 := [⟨0, 0x8000, 1, 0, zeros 128⟩, ⟨0, 0x18000, 1, 0, zeros 128⟩] }
def poisonAt (g : Nat) (s : State) : State := { s with ras := { s.ras with poison := [g] } }
theorem witness_Migrations :
    (∀ s ∈ [frames 0x8000 0x10000 [], frames 0x8000 0x8000 [], frames 0x8000 0x100000000000000 [⟨3, 0x8000, 0x28000, 4⟩]],
      (15 : Nat) < 16 ∧ migState s 15 = 0 ∧ (migFrame s (s.host (migOff 15))).isSome ∧ (migFrame s (s.host (migOff 15 + 8))).isSome) ∧
    (∀ n ∈ [0, 255], (migrating n).mig.find? (fun x => x.slot == 15) = some ⟨15, 0x8000, 0x10000, n⟩ ∧ n < 256 ∧ (migrating n).mem.wf = true ∧ (migrating n).ras.stkLive = none ∧
      (migrating n).poisoned (0x8000 + 128 * n) 128 = false) ∧
    ((poisonAt 0xFFC0 (migrating 255)).mig.find? (fun x => x.slot == 15) = some ⟨15, 0x8000, 0x10000, 255⟩ ∧ (poisonAt 0xFFC0 (migrating 255)).mem.wf = true ∧
      (poisonAt 0xFFC0 (migrating 255)).ras.stkLive = none ∧ (poisonAt 0xFFC0 (migrating 255)).poisoned (0x8000 + 128 * 255) 128 = true) ∧
    migState (migrating 0) 15 = 1 ∧ migState mirrored 15 ≠ 0 ∧ (15 : Nat) < 16 ∧ mirrored.mig.find? (fun x => x.slot == 15) = some ⟨15, 0x8000, 0x10000, 256⟩ ∧ migState mirrored 15 = 2 := by decide +kernel
/-- The last channel: partition 15's slots, two of its requests wait and one of partition 0. -/
def channel (slot : Nat) (ctl : Quad) : State :=
  let s := { base with chans := [⟨11, 31, List.replicate 8 0x8F8F8F8F8F8F8F8F#64, slot, [⟨0, 0, 64⟩, ⟨15, 64, 64⟩, ⟨15, 128, 64⟩], 3⟩] }
  s.setDev (mcBase 11 31) ctl
theorem witness_Channels : (11 : Nat) < 12 ∧ (31 : Nat) < 32 ∧ ((channel 0 0x101).chan 11 31).slot = 0 ∧ ((channel 0 0x101).reg (mcBase 11 31)).getLsbD 8 = true ∧
    slotOwner (mcShadow (channel 0 0x101) 11 31) 0 = some 0 ∧ (((channel 0 0x101).chan 11 31).queue.filter fun r => r.part == 0).head? = some ⟨0, 0, 64⟩ ∧
    ¬(((channel 63 0).chan 11 31).slot = 0 ∧ ((channel 63 0).reg (mcBase 11 31)).getLsbD 8 = true) ∧ slotOwner ((channel 63 0).chan 11 31).live 63 = some 15 ∧
    (((channel 63 0).chan 11 31).queue.filter fun r => r.part == 15).head? = some ⟨15, 64, 64⟩ ∧
    ((channel 0 0x101).setChan { (channel 0 0x101).chan 11 31 with queue := [⟨3, 0, 64⟩] } |> fun s => (s.reg (mcBase 11 31)).getLsbD 0 = true ∧ ∀ r ∈ (s.chan 11 31).queue, r.part ≠ 0) := by decide +kernel

/-! Stops, halts and images. -/

/-- The machine with its context numbered n. -/
def numbered (n : Nat) (s : State) : State := { s with ctxs := s.ctxs.map fun x => { x with num := n }, crews := s.crews.map fun c => { c with ctx := n } }
/-- A warp whose trap is kept by a stop. -/
def kept : State := run (.trap 7 n0) (withCtx base fun x => { x with stop := some ⟨0, 1, 0⟩ })
abbrev free (s : State) (n : Nat) : Prop := n < 256 ∧ s.hostF (ctxOff n) 63 63 = 0 ∧ (s.ctx n).stop = none ∧ (s.ctx n).halted = false ∧ (s.ctx n).halting = false
def stopping (k : Nat) (s : State) : State := withCtx s fun x => { x with stop := some ⟨k, 15, 0⟩, trapStop := k == 4, halting := k == 5 }
/-- The save area of context 0: where, and how long. -/
def area (a n : Nat) (s : State) : State := (s.setHost (ctxOff 0 + 8) (BitVec.ofNat 64 a)).setHost (ctxOff 0 + 0x10) (BitVec.ofNat 64 n)
abbrev stops (s : State) (n : Nat) (j : StopJob) : Prop := (s.ctx n).stop = some j ∧ ckPhase s n ≠ 1 ∧ ((s.ctx n).halting = false ∨ j.kind = 5) ∧ s.idleUnits ∧ s.noLog
def bigArea : State := stopping 0 (area 0x100000 0x8000000 base)
def noArea : State := stopping 0 (area 0x100000 128 base)
def badArea : State := stopping 0 (area (Config.dramEnd - 128) 0x8000000 base)
theorem witness_Stops :
    (free base 0 ∧ (∃ c ∈ base.crews, c.ctx = 0 ∧ c.pos = (0 : BitVec 23).toNat) ∧ (base.ctx 0).bound = true ∧ (base.ctx 0).trapStop = false) ∧
    (free (numbered 255 base) 255 ∧ ((numbered 255 base).ctx 255).bound = true ∧ ((numbered 255 base).ctx 255).trapStop = false) ∧
    ((base.setHostF (ctxOff 0) 63 63 1).hostF (ctxOff 0) 63 63 = 1) ∧ (free base 255 ∧ (base.ctx 255).bound = false) ∧ (free (withCtx base fun x => { x with trapStop := true }) 0 ∧ ((withCtx base fun x => { x with trapStop := true }).ctx 0).trapStop = true) ∧
    (withCtx base (fun x => { x with inPlace := true }) |> fun s => s.hostF (ctxOff 0) 63 63 = 0 ∧ (s.ctx 0).bound = true ∧ (s.ctx 0).trapStop = false ∧ (s.ctx 0).stop = none ∧
      (s.ctx 0).inPlace = true ∧ s.noLog) ∧
    (∀ k ∈ [1, 2, 4, 5], stops (stopping k base) 0 ⟨k, 15, 0⟩) ∧ ((stopping 1 base).crewsOf 0).find? (fun c => c.pos == 0) = some (crewOf ker) ∧
    (stopping 4 base).hostF (ctxOff 0 + 0x20) 1 1 = 0 ∧ ((stopping 4 base).ctx 0).errStop = false := by decide +kernel
/-- The image that a stop of a context with a small kernel has left, with the launch that knows its kernel. -/
def tinyKer : Kernel := { ker with shape := ⟨8, 16, 8, 0, 0, 8, 0, 1, 1⟩ }
def imaged : State := run (.stopComplete 0) (stopping 0 (area 0x100000 0x8000000 { base with crews := [crewOf tinyKer], ctxs := [{ ctx0 with kernel := some tinyKer }] }))
def restorable : State :=
  { imaged with tokens := [(BitVec.ofNat 32 (imaged.physNat 0x10002C 4), 0)], launches := [⟨1, 0, 0, 1, 8192, 0, List.replicate 64 0, 0, false, 0, some tinyKer, 2⟩] }
/-- The image at an address is bound. -/
def binds (s : State) (a : Nat) : Bool := match parseImage (s.section a (s.physNat (a + 0x10) 8)) with
  | some (h, xs) => (match (if h.kind = 0 then bindImage s 0 h xs false else bindCrewImage s 0 h xs) with | .ok _ => true | .error _ => false)
  | none => false
theorem witness_ContextImageRestore : restorable.spanBad 0x100000 128 = false ∧ restorable.physNat 0x100010 8 < 2 ^ 52 ∧ restorable.spanBad 0x100000 (restorable.physNat 0x100010 8) = false ∧
    restorable.spanPoison 0x100000 (restorable.physNat 0x100010 8) = false ∧ binds restorable 0x100000 = true ∧ base.physNat 0x100010 8 = 0 ∧ parseImage (base.section 0x100000 0) = none := by
  refine ⟨?_, ?_, ?_, ?_, ?_, ?_, ?_⟩ <;> decide +kernel
theorem witness_Images :
    (stops bigArea 0 ⟨0, 15, 0⟩ ∧ imageSize (contextSects bigArea 0 true (awaitedSect bigArea 0 true)) ≤ (bigArea.host (ctxOff 0 + 0x10)).toNat ∧ bigArea.writeBad 0x100000 0x8000000 = false) ∧
    (stops noArea 0 ⟨0, 15, 0⟩ ∧ (noArea.host (ctxOff 0 + 0x10)).toNat < imageSize (contextSects noArea 0 true (awaitedSect noArea 0 true))) ∧
    (stops badArea 0 ⟨0, 15, 0⟩ ∧ badArea.writeBad (badArea.host (ctxOff 0 + 8)).toNat (imageSize (contextSects badArea 0 true (awaitedSect badArea 0 true))) = true) := by decide +kernel
def halted (d : Option StopJob) : State := withCtx haltable fun x => { x with halted := true, defer := d }
def dumping (a n : Nat) : State := ((halted none).setHost (ctxOff 0 + 0x20) (BitVec.ofNat 64 a)).setHostF (ctxOff 0 + 0x28) 47 12 (n / 4096)
/-- R300: the trap of a warp outside its handler is dropped where the context is halted. -/
theorem witness_DroppedTrap : ∃ w ∈ kept.warp? 0 0, ∃ x ∈ w.entries, w.entries = [x] ∧ w.trap.isSome ∧ w.handler = none ∧ w.trapEid = x.eid :=
  ⟨(kept.warp? 0 0).get (by decide +kernel), Option.get_mem _, by decide +kernel⟩
theorem witness_Halts :
    (haltable.haltEn 0 = true ∧ (haltable.ctx 0).bound = true ∧ (haltable.ctx 0).halted = false ∧ (haltable.ctx 0).stop = none) ∧ base.haltEn 0 = false ∧
    (∀ d ∈ [none, some (⟨0, 1, 0⟩ : StopJob)], ((halted d).ctx 0).halted = true ∧ (halted d).noLog ∧ ((halted d).ctx 0).defer = d) ∧ (base.ctx 0).halted = false ∧ (base.ctx 0).inPlace = false ∧
    (∀ s ∈ [dumping 0x100000 0x1000, dumping 0x100000 0, dumping Config.dramEnd 0x8000000], (s.ctx 0).bound = true ∧ ((s.ctx 0).halted = true ∨ (s.ctx 0).inPlace = true) ∧ (s.ctx 0).stop = none) ∧
    (dumping 0x100000 0).hostF (ctxOff 0 + 0x28) 47 12 * 4096 < 256 ∧ (dumping Config.dramEnd 0x8000000).writeBad (((dumping Config.dramEnd 0x8000000).host (ctxOff 0 + 0x20)).toNat / 4096 * 4096 % 2 ^ 52) 256 = true ∧
    ¬ ((dumping 0x100000 0x1000).hostF (ctxOff 0 + 0x28) 47 12 * 4096 < 256 ∨ (dumping 0x100000 0x1000).writeBad (((dumping 0x100000 0x1000).host (ctxOff 0 + 0x20)).toNat / 4096 * 4096 % 2 ^ 52) 256 = true) ∧
    base.spanBad (Config.dramEnd - 1) 128 = true ∧ base.spanBad 0x100000 128 = false := by decide +kernel

/-! Checkpoints. -/

/-- Context 0 checkpoints, in a phase; the timer is due exactly now. -/
def ckpting (phase : Nat) (s : State) : State := ((((s.setHostF (ckptOff 0) 0 0 1).setHostF (ckptOff 0) 1 1 1).setHost (ckptOff 0 + 8) 1000).setHostF (ckptOff 0) 61 59 phase).setHostF (ckptOff 0) 63 63 (if phase = 0 then 0 else 1)
def skipped (n : Nat) : State := ((ckpting 3 base).setHostF (ckptOff 0) 62 62 1).setHostF (ckptOff 0 + 0x18) 15 0 n
def fullCut : State := modC (withCtx ((ckpting 1 base).setHostF (ckptOff 0) 4 4 1) fun x => { x with quadMap := [], vres := 1 }) id
def deltaCut : State := withCtx (ckpting 1 base) fun x => { x with vres := 64, ckpt := { x.ckpt with next := 4, dirty := [.row 0 0 0, .vault 0 5, .vault 0 5, .page 7 0x8000] } }
theorem witness_CheckpointTriggers : (255 : Nat) < 256 ∧ ckEn base 255 = false ∧ ckEn (ckpting 0 base) 0 = true ∧
    (∀ s ∈ [ckpting 0 base, ckpting 3 base, skipped 5, skipped 0xFFFF], timerDue s 0 = true ∧ ckEn s 0 = true ∧ (s.ctx 0).bound = true ∧ (s.ctx 0).trapStop = false) ∧
    ckPhase (ckpting 0 base) 0 = 0 ∧ (∀ s ∈ [ckpting 3 base, skipped 5, skipped 0xFFFF], ckPhase s 0 = 3) ∧
    (∀ s ∈ [fullCut, deltaCut], ckPhase s 0 = 1 ∧ s.idleUnits ∧ s.noLog) ∧ ckFull fullCut 0 = true ∧ ckFull deltaCut 0 = false ∧
    ckEn (withCtx (ckpting 0 base) fun x => { x with bound := false }) 0 = true ∧ ((withCtx (ckpting 0 base) fun x => { x with bound := false }).ctx 0).bound = false := by decide +kernel
/-- R326: the one crew's object fits the reserve of its quad, and no other quad has a crew. -/
theorem witness_CutFits : ∀ s ∈ [fullCut, deltaCut], ∀ q,
    (((s.crewsOf 0).filter fun c => quadOf c.core == q).map fun c => (crewObject s (ckFull s 0) (s.ctx 0).ckpt.dirty c).length).sum ≤ 65536 * (s.ctx 0).vres := by
  intro s hs q
  by_cases hq : q = 0
  · subst hq; fin_cases hs <;> decide +kernel
  · have h : (s.crewsOf 0).filter (fun c => quadOf c.core == q) = [] := by
      have h1 : ∀ c ∈ s.crewsOf 0, quadOf c.core = 0 := by fin_cases hs <;> decide +kernel
      exact List.filter_eq_nil_iff.2 fun c hc => by simp [h1 c hc, Ne.symm hq]
    rw [h]; exact Nat.zero_le _
/-- Two protected units; the pool of one page is free, and is used. -/
def guarded : State := withCtx { ((base.setHost 0x700030 0x200000).setHostF 0x700038 31 0 1) with mem := [(0x8000, 7), (vaultKey 0 0x280, 9)] } fun x => { x with ckpt := { x.ckpt with protect := [.vault 0 5, .page 7 0x8000] } }
theorem witness_Protection : ∀ x ∈ [((0 : Nat), CkUnit.vault 0 5, (vaultKey 0 0x280, (128 : Nat))), (1, .page 7 0x8000, (0x8000, 32768))],
    (guarded.ctx 0).ckpt.protect[x.1]? = some x.2.1 ∧ guarded.canLift x.2.1 = true ∧ unitSpan (guarded.ctx 0) x.2.1 = some x.2.2 := by decide +kernel
/-- The store of 0x8000 bytes at the start of the CXL window, HEAD at 0x40, TAIL at a place; its one shard is a vault line. -/
def store (tail : Nat) (s : State) : State :=
  { (((s.setHost 0x700000 (BitVec.ofNat 64 Config.cxlBase)).setHost 0x700008 0x8000).setHost 0x700010 0x40).setHost 0x700018 (BitVec.ofNat 64 tail) with plat := { s.plat with cxl := [(Config.cxlBase, 0x10000)] } }
def shard (loc : Option Nat) : Shard := ⟨2, 0, 0, [.vault 0 5], [], loc, false, zeros 32, 8320, none⟩
def staged : Shard := ⟨1, 0, 0, [], zeros 64, none, false, [], 0, none⟩
def streaming (tail : Nat) (hs : List Shard) : State := store tail (withCtx (ckpting 3 guarded) fun x => { x with ckpt := { x.ckpt with shards := hs, closing := some 4, pauseTime := 9 } })
/-- The index of one slot, which another agent writes; its time is up. -/
def late : State := withCtx (stores ((streaming 0x80 [staged]).setHostF 0x700028 31 0 1 |>.setHost 0x700020 0x300000) [(0x300000, 2 ^ 62)]) fun x => { x with ckpt := { x.ckpt with waitUntil := some (0, 0) } }
/-- The index of one slot, which holds the object of the staged shard. -/
def indexed : State :=
  let d := sha256 (zeros 64)
  let s := ((streaming 0x80 [staged]).setHostF 0x700028 31 0 1).setHost 0x700020 0x300000
  { s with mem := s.mem.store 0x300000 (leBytes 8 (keyOf 2 d) ++ leBytes 8 (Config.cxlBase + 0x40) ++ leBytes 8 64 ++ zeros 8 ++ d) }
theorem witness_IndexHit : nextShard indexed 0 = some staged ∧ shardBytes indexed (indexed.ctx 0) staged = some (zeros 64) ∧ indexed.noLog ∧
    lookup indexed (sha256 (zeros 64)) (probeOn indexed 0 (sha256 (zeros 64))) = .hit 0 (Config.cxlBase + 0x40) := by decide +kernel
theorem witness_ShardStream :
    (nslot (streaming 0x7FC0 [staged]) = 0 ∧ nextShard (streaming 0x7FC0 [staged]) 0 = some staged ∧ shardBytes (streaming 0x7FC0 [staged]) ((streaming 0x7FC0 [staged]).ctx 0) staged = some (zeros 64) ∧
      (streaming 0x7FC0 [staged]).noLog ∧ storeRoom (streaming 0x7FC0 [staged]) 64 = some (0x7FC0, 0) ∧ (streaming 0x7FC0 [staged]).writeBad (storeBase (streaming 0x7FC0 [staged]) + 0x7FC0) 64 = false ∧
      isCxl (storeBase (streaming 0x7FC0 [staged]) + 0x7FC0) = true) ∧
    (indexLate late 0 = true ∧ nextShard late 0 = some staged ∧ shardBytes late (late.ctx 0) staged = some (zeros 64) ∧ late.noLog ∧ storeRoom late 64 = some (0x80, 0xC0) ∧
      late.writeBad (storeBase late + 0x80) 64 = false ∧ isCxl (storeBase late + 0x80) = true) := by decide +kernel
/-- An interval without a shard seals in any case; one with a shard needs its object. -/
def sealing : State := (streaming 0x80 [shard (some (Config.cxlBase + 0x4000))]).setHostF (ckptOff 0) 61 59 4
theorem padTo_length (n : Nat) (b : List Byte) : (padTo n b).length = n := by
  simp only [padTo, List.length_append, List.length_take, List.length_replicate]; omega
theorem sealing_length : (manifestBytes (sealing.ctx 0).ckpt).length = 0x180 + 64 + sigLen := by
  unfold manifestBytes
  rw [List.length_append, padTo_length, show (manifestBody (sealing.ctx 0).ckpt).length = 0x180 + 64 from by decide +kernel]
theorem witness_IntervalSeal : sealable sealing 0 = true ∧ storeRoom sealing (manifestBytes (sealing.ctx 0).ckpt).length = some (0x80, 0x2100) ∧
    sealing.writeBad (storeBase sealing + 0x80) (manifestBytes (sealing.ctx 0).ckpt).length = false ∧ isCxl (storeBase sealing + 0x80) = true ∧ sealing.hostF (ckptOff 0) 62 62 = 0 := by
  rw [sealing_length]; decide +kernel
theorem witness_CostsAndRestores : (∃ x ∈ base.ctxs, x.bound = true) ∧ (∀ x ∈ base.ctxs, x.bound = true → x.num < 256) ∧ (base.setHost 0x700048 (BitVec.ofNat 64 (Config.dramEnd - 0x17F))).spanBad (Config.dramEnd - 0x17F) 0x180 = true ∧
    (poisonAt 0x140 base).spanPoison 0 0x180 = true ∧ base.spanBad (base.host 0x700048).toNat 0x180 = false ∧ base.spanPoison (base.host 0x700048).toNat 0x180 = false ∧
    base.physNat (base.host 0x700048).toNat 4 ≠ 0x4E4D4B43 := by
  refine ⟨⟨ctx0, by decide +kernel⟩, ?_⟩; decide +kernel
/-- A full manifest of a context without crews: R332, R337. -/
def aloneCkpt : Ckpt :=
  { (Ctx.clear 0).ckpt with closing := some 0, fullNow := true, header := headBytes ⟨0, 0, 0, 0, 0, 0, 0, shapeBytes tinyKer.shape, 1, 0⟩ 0 0, xlat := xlatSection { ctx0 with kernel := some tinyKer } }
/-- It stands at 0x8000, signed; a launch knows its kernel. -/
def chainBase : State :=
  State.setHost { base with crews := [], ctxs := [], mem := Mem.store [] 0x8000 (manifestBytes aloneCkpt), tokens := [(0, 0)]
                            launches := [⟨1, 0, 0, 1, 8192, 0, List.replicate 64 0, 0, false, 0, some tinyKer, 2⟩] } 0x700048 0x8000
def chainState : State := (chainBase.setHostF 0x700050 15 8 0).setHostF 0x700050 62 62 0
theorem slice_append {a b : List Byte} {i n : Nat} (h : i + n ≤ a.length) : slice (a ++ b) i n = slice a i n := by
  unfold slice
  rw [List.drop_append_of_le_length (by omega), List.take_append_of_le_length (by rw [List.length_drop]; omega)]
theorem chain_read {i n : Nat} (h : i + n ≤ (manifestBytes aloneCkpt).length) : chainState.physRead (0x8000 + i) n = slice (manifestBytes aloneCkpt) i n := by
  have hp (k : Nat) : chainState.place k = k := rfl
  refine List.ext_getElem (by simp [State.physRead, slice]; omega) fun j h1 h2 => ?_
  simp only [State.physRead, List.getElem_map, List.getElem_range, hp, slice, List.getElem_take, List.getElem_drop]
  have hj : j < n := by simpa [State.physRead] using h1
  rw [show chainState.mem = Mem.store [] 0x8000 (manifestBytes aloneCkpt) by simp only [chainState, chainBase, State.setHostF, State.setHost, State.setDev], Mem.read_store _ [] 0x8000 Mem.wf_nil, if_pos ⟨by omega, by omega⟩,
    show 0x8000 + i + j - 0x8000 = i + j by omega, List.getD_eq_getElem?_getD, List.getElem?_eq_getElem (by omega), Option.getD_some]
theorem body_length : (manifestBody aloneCkpt).length = 0x180 := by decide +kernel
theorem chain_slice {i n : Nat} (h : i + n ≤ 0x180) : slice (manifestBytes aloneCkpt) i n = slice (manifestBody aloneCkpt) i n := slice_append (by rw [body_length]; exact h)
theorem chain_length : (manifestBytes aloneCkpt).length = 0x180 + sigLen := by
  unfold manifestBytes; rw [List.length_append, padTo_length, body_length]
theorem chain_nat {i n : Nat} (h : i + n ≤ 0x180) : chainState.physNat (0x8000 + i) n = leNat (slice (manifestBody aloneCkpt) i n) := by
  unfold State.physNat; rw [chain_read (by rw [chain_length]; omega), chain_slice h]
theorem chain_manifest : readManifest chainState 0x8000 = .ok ⟨manifestBytes aloneCkpt, true, 0, 0, 0, slice (manifestBody aloneCkpt) 0x40 32, slice (manifestBody aloneCkpt) 0x80 128, slice (manifestBody aloneCkpt) 0x100 128, []⟩ := by
  have h0 : chainState.physNat (0x8000 + 0x0C) 4 = 0 := by rw [chain_nat (by omega)]; decide +kernel
  have h1 : chainState.physNat 0x8000 4 = 0x4E4D4B43 := by rw [← Nat.add_zero 0x8000, chain_nat (by omega)]; decide +kernel
  have h2 : chainState.physNat (0x8000 + 4) 2 = 1 := by rw [chain_nat (by omega)]; decide +kernel
  have h3 : chainState.physNat (0x8000 + 6) 2 = 1 := by rw [chain_nat (by omega)]; decide +kernel
  have h4 : chainState.spanBad 0x8000 0x180 = false := by decide +kernel
  have h5 : chainState.spanPoison 0x8000 0x180 = false := by decide +kernel
  have h6 : chainState.spanBad 0x8000 (0x180 + sigLen) = false := by decide +kernel
  have h7 : chainState.spanPoison 0x8000 (0x180 + sigLen) = false := by decide +kernel
  have hb : chainState.physRead 0x8000 (0x180 + sigLen) = manifestBytes aloneCkpt := by
    rw [← Nat.add_zero 0x8000, chain_read (by rw [chain_length]; omega), slice, List.drop_zero, ← chain_length, List.take_length]
  have ht : (manifestBytes aloneCkpt).take 0x180 = manifestBody aloneCkpt := by
    rw [manifestBytes, List.take_append_of_le_length (by rw [body_length]), ← body_length, List.take_length]
  have hs : slice (manifestBytes aloneCkpt) 0x180 sigLen = padTo sigLen (Config.signature (manifestBody aloneCkpt)) := by
    rw [slice, manifestBytes, ← body_length, List.drop_left, List.take_of_length_le (by rw [padTo_length])]
  have hn {i n : Nat} (h : i + n ≤ 0x180) : sliceNat (manifestBytes aloneCkpt) i n = leNat (slice (manifestBody aloneCkpt) i n) := by rw [← chain_slice h]; rfl
  have hz {i n : Nat} (h : i + n ≤ 0x180) : zeroAt (manifestBytes aloneCkpt) i n = isZero (slice (manifestBody aloneCkpt) i n) := by rw [← chain_slice h]; rfl
  unfold readManifest
  rw [h4, h5, h0, h1, h2, h3]
  simp only [Nat.mul_zero, Nat.add_zero, h6, h7, hb, ht, hs, hn, hz, chain_slice, Nat.reduceAdd, Nat.reduceLeDiff, List.range_zero, List.map_nil, List.any_nil]
  rw [if_neg (by decide), if_neg (by decide), if_neg (by decide), if_neg (by decide +kernel), if_neg (by simp),
    show (leNat (slice (manifestBody aloneCkpt) 6 2) == 1) = true by decide +kernel, show leNat (slice (manifestBody aloneCkpt) 16 8) = 0 by decide +kernel,
    show leNat (slice (manifestBody aloneCkpt) 24 8) = 0 by decide +kernel, show leNat (slice (manifestBody aloneCkpt) 48 8) = 0 by decide +kernel]
/-- R337: the chain of one manifest is bound. -/
theorem witness_Restore : (chainBase.host 0x700048).toNat = 0x8000 ∧ ∃ u, restoreChain ((chainBase.setHostF 0x700050 15 8 0).setHostF 0x700050 62 62 0) 0 0x8000 = .ok u := by
  refine ⟨by decide +kernel, ?_⟩
  have h : (match restoreChain chainState 0 0x8000 with | .ok _ => true | .error _ => false) = true := by
    unfold restoreChain
    simp only [chain_manifest]
    decide +kernel
  split at h
  next u hu => exact ⟨u, hu⟩
  next => cases h

/-! The fabric. -/

def pkt (type len : Nat) (op : Byte) (data : List Byte) : Packet := ⟨7, type, 5, 0, 3, 0xFF00, 2 * (type / 3), 0, op, 9, len, 0, if type = 1 then (2 : BitVec 256) ^ 255 + 1 else 0, data⟩
/-- A window of 1 MiB at 0 over the DRAM at 2 MiB, all of it in the aperture; the oldest packet of port 35. -/
def target (p : Packet) (rdy : Bool) : State :=
  let s := withCtx fabState fun x => { x with xlat := ((x.xlat.set 2 0).set 3 0x100000).set 4 0x200000 }
  { ((((s.setHostF (aperOff 0 + 8) 43 16 1)).setHostF (aperOff 0 + 0x10) 1 0 3).modPort 35 fun x => { x with ingress := [p] }) with ready := if rdy then [(7, 0, true), (7, 5, true)] else [(7, 0, true)] }
abbrev aimed (s : State) (p : Packet) : Prop := ∃ x ∈ s.jobCtx p.job, apertureMiss s x.num p = false ∧ apertureKeys s x.num p = (s, some (.inl [(0x20FF00, p.len, 1)]))
def loadP : Packet := pkt 0 256 0 []
def storeP : Packet := pkt 1 256 0 ((zeros 255) ++ [7])
def addP : Packet := pkt 2 4 0x60 [1, 0, 0, 0]
def casP : Packet := pkt 2 16 0x97 ((zeros 8) ++ [9, 0, 0, 0, 0, 0, 0, 0])
theorem aimed_of {s : State} {p : Packet} (h : (match s.jobCtx p.job with | some x => decide (apertureMiss s x.num p = false ∧ apertureKeys s x.num p = (s, some (.inl [(0x20FF00, p.len, 1)]))) | none => false) = true) : aimed s p := by
  unfold aimed
  split at h
  next x hx => exact ⟨x, hx, of_decide_eq_true h⟩
  next => cases h
theorem plain_of {s : State} (h : s.mig = [] ∧ (s.ras.stkLive = none ∧ bitsOf (s.host 0x910018).toNat 63 61 ≠ 1 ∧ bitsOf (s.host 0x910018).toNat 63 61 ≠ 2) ∧
    ∀ x ∈ s.ctxs, x.ckpt.protect = [] ∧ x.logOn = false) : PlainMemory s := ⟨h.1, h.2.1, h.2.2⟩
/-- An atomic with an operation that is none, and one whose length is not its type's; a load that meets poison. -/
theorem witness_NegativeAnswers :
    (∀ p ∈ [{ addP with op := 0x6A }, { addP with len := 8 }], ingressHead (target p true) 35 0 [p.type] = some p ∧ aimed (target p true) p ∧ (target p true).poisoned 0x20FF00 p.len = false ∧
      PlainMemory (target p true) ∧ (10 ≤ (p.op &&& 0x0F).toNat ∨ p.len ≠ (if AOp.ofCode (p.op &&& 0x0F) = .cas then 2 else 1) * ((Ty.ofCode (p.op.extractLsb' 4 4)).bits / 8))) ∧
    (let s : State := { target loadP true with ras := { base.ras with poison := [0x20FFC0] } }; ingressHead s 35 0 [0] = some loadP ∧ aimed s loadP ∧ s.poisoned 0x20FF00 loadP.len = true) := by
  refine ⟨fun p hp => ?_, by decide +kernel, aimed_of (by decide +kernel), by decide +kernel⟩
  fin_cases hp <;> exact ⟨by decide +kernel, aimed_of (by decide +kernel), by decide +kernel, plain_of (by decide +kernel), by decide +kernel⟩
theorem witness_FabricRequests :
    (∀ p ∈ [loadP, storeP, addP, casP], ingressHead (target p true) 35 0 [p.type] = some p ∧ aimed (target p true) p ∧ (target p true).poisoned 0x20FF00 p.len = false ∧
      PlainMemory (target p true) ∧ (target p true).mem.wf = true) ∧
    storeP.data.length = storeP.len ∧ (addP.op &&& 0x0F).toNat < 10 ∧ Ty.ofCode (addP.op.extractLsb' 4 4) = .n32 ∧ AOp.ofCode (addP.op &&& 0x0F) = .add ∧
    addP.len = Ty.bits .n32 / 8 ∧ Ty.ofCode (casP.op.extractLsb' 4 4) = .b64 ∧ AOp.ofCode (casP.op &&& 0x0F) = .cas ∧ casP.len = 2 * (Ty.bits .b64 / 8) ∧
    (let p := { loadP with job := 8 }; ingressHead (target p true) 35 0 [0] = some p ∧ (target p true).jobCtx 8 = none) ∧
    (let p := { loadP with off := 0xFF01 }; ingressHead (target p true) 35 0 [0] = some p ∧ ∃ x ∈ (target p true).jobCtx 7, apertureMiss (target p true) x.num p = true) ∧
    (target loadP true).route 5 = some 35 ∧ (target loadP true).isReady 7 5 = true ∧ (target loadP false).isReady 7 5 = false := by
  refine ⟨?_, by decide +kernel, by decide +kernel, by decide, by decide, by decide, by decide, by decide, by decide, by decide +kernel, ⟨by decide +kernel, ?_⟩, by decide +kernel, by decide +kernel, by decide +kernel⟩
  · intro p hp
    fin_cases hp <;> exact ⟨by decide +kernel, aimed_of (by decide +kernel), by decide +kernel, plain_of (by decide +kernel), by decide +kernel⟩
  · exact ⟨((target { loadP with off := 0xFF01 } true).jobCtx 7).get (by decide +kernel), Option.get_mem _, by decide +kernel⟩
/-- The last element of an access, in the last thread; the answer that awaits it. -/
def awaits : FabOut := ⟨9, 4, 0, 0, 0, 7, 7, .ldf .b64 .four pl { n0 with a := .v 2, d := .v 8 }, 0x8000, 3, 0x50000⟩
def answer (type : Nat) : Packet := { pkt type 8 0 [1, 2, 3, 4, 5, 6, 7, 8] with dst := 0, len := if type = 3 then 8 else 0, data := if type = 3 then [1, 2, 3, 4, 5, 6, 7, 8] else [], status := if type = 3 then 0 else 1 }
def replied (type : Nat) : State := { target (answer type) true with fabOut := [awaits] }
theorem witness_FabricReplies : ∀ n ∈ [3, 4], ingressHead (replied n) 35 2 [(answer n).type] = some (answer n) ∧
    (replied n).fabOut.filter (fun x => x.tag == (answer n).tag && ((replied n).ctx x.ctx).jobId == (answer n).job) = [awaits] ∧
    (∃ c ∈ (replied n).crew? awaits.crew, awaits.tid < c.threads.length ∧ (c.thread awaits.tid).exited = false ∧ c.log = []) ∧ (answer n).type = n ∧
    (answer 3).status = 0 ∧ (memOf awaits.instr).isSome = true ∧ (∃ o m, memOf awaits.instr = some (o, m) ∧ o.dcount ≠ 0) ∧
    awaits.instr.fields? = some { n0 with a := .v 2, d := .v 8 } := by
  intro n hn
  fin_cases hn
  · exact ⟨by decide +kernel, by decide +kernel, ⟨((replied 3).crew? awaits.crew).get (by decide +kernel), Option.get_mem _, by decide +kernel⟩, by decide +kernel, by decide +kernel,
      by decide +kernel, ⟨_, _, rfl, by decide⟩, rfl⟩
  · exact ⟨by decide +kernel, by decide +kernel, ⟨((replied 4).crew? awaits.crew).get (by decide +kernel), Option.get_mem _, by decide +kernel⟩, by decide +kernel, by decide +kernel,
      by decide +kernel, ⟨_, _, rfl, by decide⟩, rfl⟩

def heldFor : State := { target loadP false with holdq := [{ loadP with dst := 5 }, { loadP with dst := 5, job := 8 }] }
/-- The last port, trained, failed a lane, or without a valid domain. -/
def untrained (v lanes : Nat) (spare : Bool) : State := ({ base with ports := base.ports.map fun (p : Port) => if p.num = 35 then { p with lanes := lanes, spareUsed := spare } else p }).setHostF 0x800030 12 12 v
theorem witness_FabricControl : (heldFor.route (5 : BitVec 12).toNat = some 35 ∧ (heldFor.port? 35).isSome = true) ∧ (∀ p ∈ base.ports, p.up = false) ∧ (∃ p ∈ heldFor.ports, p.up = true) ∧
    ∀ s ∈ [untrained 0 4 false, untrained 1 4 false, untrained 1 3 false, untrained 1 2 true], (35 : Nat) < 36 ∧ s.portDead 35 = false ∧ (s.port? 35).isSome = true ∧
      (s.hostF 0x800030 12 12 = 0 ∨ s.hostF 0x800030 12 12 = 1) := by decide +kernel

/-! Gang switches. -/

/-- Job 7 of context 0 switches at T = 5; the area is 2 pages at 1 MiB, of which the late part takes one. -/
def gangCmd (s : State) : State :=
  ((((s.setHostF 0x800000 23 8 7).setHost 0x800008 5).setHost 0x800010 6).setHostF 0x800018 51 12 0x100).setHostF 0x800020 63 52 1 |>.setHostF 0x800020 47 12 2
def gangAt (phase now : Nat) (s : State) : State := { gangCmd s with tbBase := now, gang := { Gang.idle with phase := phase, lateLen := 4096, lateOff := 4096 } }
def jobState : State := target loadP true
/-- The sweep has a packet of the job and one of another; its area has room for none. -/
def swept : State := gangAt 2 5 (jobState.modPort 35 fun x => { x with ingress := [loadP, { loadP with job := 8 }] })
def sweptFits : State := { swept with gang := { swept.gang with lateOff := 8192 } }
def closing (x : Ctx → Ctx) : State := withCtx { (gangAt 3 6 jobState) with gang := { (gangAt 3 6 jobState).gang with phase := 3 } } x
/-- An area that IN takes, and one of another job. -/
def saved (job : Nat) : State := stores (gangCmd jobState) [(0x100000, 0x47475346 + 2 ^ 32 + job * 2 ^ 48), (0x100028, 0)]
theorem witness_GangSwitchOut :
    (∀ s ∈ [gangCmd base, (gangCmd jobState).setHost 0x800010 5, (gangCmd jobState).setHostF 0x800020 63 52 2], s.hostF 0x800000 63 63 = 0 ∧
      (gangGrace s ≤ gangT s ∨ s.hostF 0x800020 47 12 ≤ s.hostF 0x800020 63 52 ∨ (gangNoctx s = false ∧ gangLocal s = none))) ∧
    (let s := gangAt 0 4 jobState; s.hostF 0x800000 63 63 = 0 ∧ gangT s < gangGrace s ∧ s.hostF 0x800020 63 52 < s.hostF 0x800020 47 12 ∧ s.timebase.toNat < gangT s ∧
      (∃ x ∈ gangLocal s, x.stop = none ∧ x.inPlace = false)) ∧
    (∀ now ∈ [4, 5], let s := (gangAt 0 now base).setHostF 0x800000 2 2 1; s.hostF 0x800000 63 63 = 0 ∧ gangT s < gangGrace s ∧ s.hostF 0x800020 63 52 < s.hostF 0x800020 47 12 ∧ gangNoctx s = true ∧
      (s.timebase.toNat < gangT s ↔ now = 4)) ∧ ((gangCmd base).setHostF 0x800000 63 63 1).hostF 0x800000 63 63 = 1 ∧
    (∀ s ∈ [gangAt 1 5 jobState, (gangAt 1 5 jobState).setHostF 0x800000 39 24 8], s.gang.phase = 1 ∧ gangT s ≤ s.timebase.toNat ∧ ∃ x ∈ gangLocal s, x.inPlace = false) := by
  refine ⟨by decide +kernel, ⟨by decide +kernel, by decide +kernel, by decide +kernel, by decide +kernel, ?_⟩, by decide +kernel, by decide +kernel, fun s hs => ?_⟩
  · exact ⟨(gangLocal (gangAt 0 4 jobState)).get (by decide +kernel), Option.get_mem _, by decide +kernel⟩
  · fin_cases hs
    · exact ⟨by decide +kernel, by decide +kernel, (gangLocal (gangAt 1 5 jobState)).get (by decide +kernel), Option.get_mem _, by decide +kernel⟩
    · exact ⟨by decide +kernel, by decide +kernel, (gangLocal ((gangAt 1 5 jobState).setHostF 0x800000 39 24 8)).get (by decide +kernel), Option.get_mem _, by decide +kernel⟩
theorem witness_GangSweepCloseIn :
    (∀ s ∈ [swept, sweptFits], s.gang.phase = 2) ∧ swept.gang.lateOff < 0x1000 + (recBytes (sweepAll swept (gangJob swept))).length ∧
    ¬(sweptFits.gang.lateOff < 0x1000 + (recBytes (sweepAll sweptFits (gangJob sweptFits))).length ∨ sweptFits.writeBad (gangArea sweptFits + 0x1000) (recBytes (sweepAll sweptFits (gangJob sweptFits))).length = true) ∧
    (let s := { swept with tbBase := 6 }; s.gang.phase = 2 ∧ gangGrace s ≤ s.timebase.toNat) ∧
    (∀ s ∈ [closing id, closing fun x => { x with stop := some ⟨2, 2, 0⟩ }, closing fun x => { x with inPlace := true }], s.gang.phase = 3 ∧ gangGrace s ≤ s.timebase.toNat ∧ (gangLocal s).isSome = true) ∧
    (saved 7).hostF 0x800000 63 63 = 0 ∧ areaRejected (saved 7) (gangArea (saved 7)) = false ∧ areaRejected (saved 8) (gangArea (saved 8)) = true ∧ (saved 7).gang.phase ≠ 5 ∧ inParts (saved 7) = [] ∧
    (let s : State := { saved 7 with gang := { Gang.idle with phase := 5 } }; s.gang.phase = 5 ∧ s.gang.inq = []) ∧
    ((saved 7).setHostF 0x800000 63 63 1).hostF 0x800000 63 63 = 1 := by decide +kernel

/-! Errors, rollback, scrubbing and fencing. -/

/-- The last line of the DRAM is dirty for a context, over bytes of 7. -/
def dirtyLine : Nat := Config.dramEnd - 128
def dirtyFor (n : Nat) (s : State) : State := { s with ras := { s.ras with dirty := [⟨dirtyLine, n, List.replicate 128 7⟩] } }
/-- Quad 159's vault is logical quad 0 of context 0. -/
def lastQuad (s : State) : State := withCtx s fun x => { x with quadMap := [159] }
theorem witness_UncorrectableErrors :
    (∀ n ∈ [0, 255], (dirtyFor n base).ras.dirty.find? (fun d => d.line == dirtyLine) = some ⟨dirtyLine, n, List.replicate 128 7⟩ ∧
      placeOut (dirtyFor n base) (homeSlice dirtyLine) (1023 : BitVec 10).toNat (15 : BitVec 4).toNat = false) ∧
    ((base.ctx 0).bound = true ∧ (base.ctx 0).trapStop = false ∧ (base.ctx 255).bound = false) ∧
    (dirtyLine % 128 = 0 ∧ base.cached dirtyLine = true ∧ (∀ d ∈ base.ras.dirty, d.line ≠ dirtyLine) ∧ placeOut base (homeSlice dirtyLine) (1023 : BitVec 10).toNat (15 : BitVec 4).toNat = false) ∧
    (isDram (dirtyLine + 64) = true ∧ (dirtyLine + 127) / 64 * 64 = dirtyLine + 64 ∧ base.retired (dirtyLine + 64) = false ∧ (∀ d ∈ base.ras.dirty, d.line ≠ (dirtyLine + 64) / 128 * 128) ∧ (freeRetire base).isSome = true) ∧
    ((159 : Nat) < 160 ∧ 2 ^ 23 - 1 < 2 ^ 23 ∧ (∀ x ∈ base.ctxs, x.bound = true → x.logicalQuad 159 = none) ∧
      ∃ x ∈ (lastQuad base).ctxs, (lastQuad base).ctxs = [x] ∧ x.bound = true ∧ x.trapStop = false ∧ x.logicalQuad 159 = some 0) ∧
    (∃ c ∈ base.crew? 0, (base.ctx c.ctx).bound = true ∧ (base.ctx c.ctx).trapStop = false ∧ runningReq c = none) ∧ ((3 : BitVec 4).toNat ≤ 3 ∧ (0 : BitVec 4).toNat ≤ 3) := by
  refine ⟨by decide +kernel, by decide +kernel, by decide +kernel, by decide +kernel, ⟨by decide, by decide, by decide +kernel, by decide +kernel⟩, ?_, by decide⟩
  exact ⟨(base.crew? 0).get (by decide +kernel), Option.get_mem _, by decide +kernel⟩
/-- Every unit that may read a granule; a request that waits, and one whose pass runs. -/
theorem witness_ErrorReaders :
    (∃ c ∈ (copying 0).crew? 0, ∃ x ∈ c.copies.getD 0 none, x.st = .running) ∧ (∃ c ∈ (moving (tldInstr .sp)).crew? 0, ∃ x ∈ c.transfers, x.id = (c.transfers.map (·.id)).headD 0) ∧
    ckPhase (ckpting 3 base) 0 = 3 ∧ (∃ m ∈ (migrating 0).mig, m.slot = 15) ∧ (migrating 0).retired 0x10000 = false ∧
    (∃ c ∈ queued.crew? 0, (queued.ctx c.ctx).bound = true ∧ (queued.ctx c.ctx).trapStop = false ∧ ∃ r ∈ c.liveReqs.find? (fun r => r.num == 0), r.st ≠ .running) ∧
    ∃ c ∈ granted.crew? 0, (granted.ctx c.ctx).bound = true ∧ (granted.ctx c.ctx).trapStop = false ∧ ∃ r ∈ runningReq c, c.liveReqs.find? (fun r => r.num == 0) = some r ∧ r.st = .running := by
  refine ⟨⟨((copying 0).crew? 0).get (by decide +kernel), Option.get_mem _, by decide +kernel⟩, ⟨((moving (tldInstr .sp)).crew? 0).get (by decide +kernel), Option.get_mem _, by decide +kernel⟩,
    by decide +kernel, by decide +kernel, by decide +kernel, ⟨(queued.crew? 0).get (by decide +kernel), Option.get_mem _, by decide +kernel⟩,
    ⟨(granted.crew? 0).get (by decide +kernel), Option.get_mem _, by decide +kernel⟩⟩
/-- The context waits for a rollback; its log stands at 1 MiB with entries of which the first is of line 0x8000. -/
def rolling (e ovf used : Nat) : State :=
  let s := withCtx base fun x => { x with rollWait := true }
  stores ((((s.setHostF (logOff 0) 0 0 e).setHostF (logOff 0) 1 1 ovf).setHost (logOff 0 + 8) 0x100000).setHost (logOff 0 + 0x18) (BitVec.ofNat 64 used)) [(0x8000, 5), (0x8078, 6), (0x100000, 0x8000), (0x100010, 9)]
theorem witness_Rollbacks : ((255 : Nat) < 256 ∧ (base.ctx 255).rollWait = false) ∧
    (∀ s ∈ [rolling 0 0 1, rolling 1 1 1, rolling 1 0 0, rolling 1 0 1], (s.ctx 0).rollWait = true ∧ s.spanBad (s.host (logOff 0 + 8)).toNat (144 * (s.host (logOff 0 + 0x18)).toNat) = false ∧
      s.spanPoison (s.host (logOff 0 + 8)).toNat (144 * (s.host (logOff 0 + 0x18)).toNat) = false ∧ (s.ctx 0).poisoned = [] ∧ s.still = true ∧ s.mem.wf = true ∧ ∀ x ∈ s.ctxs, x.ckpt.protect = []) ∧
    (rolling 0 0 1).hostF (logOff 0) 0 0 = 0 ∧ (rolling 1 1 1).hostF (logOff 0) 1 1 = 1 ∧ (rolling 1 0 1).hostF (logOff 0) 0 0 = 1 ∧ (rolling 1 0 1).hostF (logOff 0) 1 1 = 0 ∧
    lineKey ((rolling 1 0 1).physNat 0x100000 8) = 0x8000 := by decide +kernel
/-- Lost lines: one that the log does not hold, one that it holds, with a spare unit, and a vault line; a log where there is no memory. -/
def lost (a : Nat) (s : State) : State := (withCtx s fun x => { x with poisoned := [a] }).setHostF (logOff 0 + 0x20) 0 0 1
def logless : State := (rolling 1 0 1).setHost (logOff 0 + 8) (BitVec.ofNat 64 Config.dramEnd)
abbrev logRead (s : State) : Prop := (s.ctx 0).rollWait = true ∧ s.hostF (logOff 0) 0 0 = 1 ∧ s.hostF (logOff 0) 1 1 = 0 ∧ (s.host (logOff 0 + 0x18)).toNat = 1 ∧
  s.spanBad (s.host (logOff 0 + 8)).toNat 144 = false ∧ s.spanPoison (s.host (logOff 0 + 8)).toNat 144 = false
theorem witness_RollbackResults :
    (logRead (lost 0x9000 (rolling 1 0 1)) ∧ ((lost 0x9000 (rolling 1 0 1)).ctx 0).poisoned = [0x9000] ∧ lineKey (logEntry (lost 0x9000 (rolling 1 0 1)) 0 0).1 ≠ 0x9000) ∧
    (logRead (lost 0x8000 (rolling 1 0 1)) ∧ ((lost 0x8000 (rolling 1 0 1)).ctx 0).poisoned = [0x8000] ∧ lineKey (logEntry (lost 0x8000 (rolling 1 0 1)) 0 0).1 = 0x8000 ∧ isVault 0x8000 = false ∧
      (lost 0x8000 (rolling 1 0 1)).hostF (logOff 0 + 0x20) 0 0 = 1) ∧
    ((logless.ctx 0).rollWait = true ∧ logless.hostF (logOff 0) 0 0 = 1 ∧ logless.hostF (logOff 0) 1 1 = 0 ∧ (logless.ctx 0).poisoned = [] ∧
      logless.spanBad (logless.host (logOff 0 + 8)).toNat (144 * (logless.host (logOff 0 + 0x18)).toNat) = true) ∧
    (rolling 1 0 1).lateWrites = [] := by decide +kernel
/-- The scrubber of the last stack is on, at its first and at its last granule, and at one under a dirty line. -/
def scrubbing (i : Nat) (s : State) : State := (s.setDev (devAddr 24 0x200000) 1).setScrub ⟨11, i, none⟩
def overDirty : State := { (scrubbing 0 base) with ras := { (scrubbing 0 base).ras with dirty := [⟨scrubAddr 11 0 / 128 * 128, 0, zeros 128⟩] } }
theorem witness_ScrubSpareFence : (∀ s ∈ [scrubbing 0 base, scrubbing (scrubCount - 1) base, overDirty], (11 : Nat) < 12 ∧ (s.reg (devAddr (13 + 11) 0x200000)).getLsbD 0 = true ∧ (s.scrub 11).lock = none) ∧
    ((9 : Nat) < 10 ∧ (3 : Nat) < 4 ∧ ∀ c ∈ base.crews, c.core ≠ 64 * 9 + 16 * 3 + (15 : BitVec 4).toNat) ∧ ((9 : Nat) < 10 ∧ (0x200 : BitVec 10).getLsbD 9 = true) := by decide +kernel
/-- The fence of the last stack, to the start of the CXL window; the last granule. -/
def fencing (st copied : Nat) (backed : Bool) : State :=
  let s := ((base.setHostF 0x910018 63 61 st).setHostF 0x910018 7 4 11).setHost 0x910010 (BitVec.ofNat 64 Config.cxlBase)
  { s with ras := { s.ras with stkCopied := copied }, plat := { s.plat with cxl := if backed then [(Config.cxlBase, 0x1000000000)] else [] }, mem := [(8192 * 11, 3)] }
theorem witness_StackFence : fenceState base ≠ 1 ∧ fenceState base ≠ 2 ∧ fenceState (fencing 1 0 true) = 1 ∧ fenceState (fencing 2 0 true) = 2 ∧
    (∀ n ∈ [0, stackGranules - 1], fenceState (fencing 1 n true) = 1 ∧ (fencing 1 n true).ras.stkCopied = n ∧ (fencing 1 n true).mem.wf = true ∧
      (fencing 1 n true).spanBad (((fencing 1 n true).host 0x910010).toNat + 8192 * n) 8192 = false ∧ isCxl (((fencing 1 n true).host 0x910010).toNat + 8192 * n) = true) ∧
    fenceState (fencing 1 0 false) = 1 ∧ (fencing 1 0 false).mem.wf = true ∧ (fencing 1 0 false).spanBad ((fencing 1 0 false).host 0x910010).toNat 8192 = true := by decide +kernel

/-! Sorrel. -/

/-- Kernel descriptor at 0x300000: code at 0x8000 and a priority map at 0x10000, through a window to the DRAM at 2 MiB. -/
def putBytes (s : State) (a : Nat) (b : List Byte) : State := { s with mem := s.mem.store a b }
def kernelDesc : List Byte := leBytes 8 0x8000 ++ leBytes 4 0x1000 ++ zeros 4 ++ leBytes 8 0x20000 ++ zeros 8 ++ shapeBytes sh ++ zeros 8 ++ zeros 16 ++ zeros 4 ++ leBytes 2 1 ++ zeros 2 ++ leBytes 8 0x10000 ++ zeros 32
/-- A launch template: descriptor, context, class, groups, private size; 2 constants. -/
def template (g desc : Nat) : List Byte := leBytes 8 desc ++ [0, 1] ++ leBytes 2 g ++ leBytes 4 8192 ++ leBytes 8 0 ++ [2, 0] ++ zeros 6 ++ leBytes 8 0x600000 ++ zeros 24 ++ leBytes 8 11 ++ leBytes 8 12
/-- Queue 63: window 3 is 256 bytes at 0x400000, and may be written. -/
def kernels : State :=
  let s := withCtx base fun x => { x with xlat := ((x.xlat.set 2 0).set 3 0x100000).set 4 0x200000 }
  putBytes (putBytes (putBytes s 0x300000 kernelDesc) 0x210000 (leBytes 8 0x8000 ++ [])) 0x400000 (template 1 0x300000)
def launched (st num : Nat) : Launch := ⟨num, 0, 1, 1, 8192, 0, List.replicate 64 0, 0x700000, false, 0x300000, some ker, st⟩
def nodeOf (cond : Option Nat) : Node := ⟨launched 0 65536, 63, 5, 1, zeros 8, [1], cond⟩
def packet (k : List Quad) (deps : List Word) (cond : Option Nat) : Sorrel := ⟨63, 63, 0, 1, (List.range 16).map (BitVec.ofNat 32), List.replicate 32 0, 0, 255, k, none, [], deps, cond, 0, 5⟩
def serving (p : Sorrel) : State :=
  { ((((kernels.setHost (queueOff 63 + 0x70) 0x400003).setHostF (queueOff 63 + 0x78) 31 0 256).setHostF (queueOff 63 + 0x10) 8 8 1).setHostF (queueOff 63 + 0x10) 4 0 4) with sorrel := some p, nextLaunch := 65537, disp := [(1, 0)] }
def pk : Sorrel := packet [248, 0, 1, 252, 5, 6, 7, 8] [] none
abbrev sv : State := serving pk
theorem witness_SorrelBytecodes :
    (sv.sorrel = some pk ∧ pk.steps < 256 ∧ pk.loop = none ∧ pk.pc + 1 + 30 < pk.prog.length ∧ pk.ring < 64 ∧ pk.queue < 64) ∧
    sorrelAddr sv pk (pk.reg 0) 3 0 8 = some 0x4000F8 ∧ sorrelAddr sv pk (pk.reg 3) 3 0 4 = some 0x4000FC ∧ (pk.deps.length < 8 ∧ depNames sv ((pk.reg 2).setWidth 32).toNat = true) ∧
    ((qWin sv pk.queue (3 : BitVec 2).toNat).2.2.1 = true ∧ sv.writesBlocked [0x4000F8] = false) ∧
    sorrelAddr sv pk (pk.reg 3) 3 4 8 = none ∧ depNames sv ((pk.reg 0).setWidth 32).toNat = false ∧ templateOf sv pk 3 192 sv.nextLaunch = none ∧ pk.reg 1 = 0 ∧ pk.reg 2 ≠ 0 := by decide +kernel
/-- What an `emit` gets: a launch to accept, or a node. -/
def emitOk (s : State) (p : Sorrel) (q : Launch → Kernel → Bool) : Bool := match templateOf s p 3 0 s.nextLaunch with
  | some l => match loadKernel { s with nextLaunch := nextNum s.nextLaunch } l.ctx l.kdesc with | some k => q l k | none => false
  | none => false
theorem emit_of {s : State} {p : Sorrel} {q : Launch → Kernel → Bool} (h : emitOk s p q = true) :
    ∃ l k, templateOf s p 3 0 s.nextLaunch = some l ∧ loadKernel { s with nextLaunch := nextNum s.nextLaunch } l.ctx l.kdesc = some k ∧ q l k = true := by
  unfold emitOk at h
  split at h
  next l hl => split at h
               next k hk => exact ⟨l, k, hl, hk, h⟩
               next => cases h
  next => cases h
def nodePk (n : Bool) : Sorrel := packet [248, 0, 1, 252, 5, 6, 7, 8] (if n then [1] else []) (if n then none else some 0x4000FC)
/-- Queue 63 with its window over a descriptor that asks for too much, or over none. -/
def badKernel (desc : Nat) : State := { sv with mem := sv.mem.store 0x400000 (template 1 desc) }
/-- Context 0 logs and has a launch of its own. -/
def logged (s : State) : State := { s.setHostF (logOff 0) 0 0 1 with launches := [launched 2 1] }
def counted (s : State) : State := { s with nextLaunch := nextNum s.nextLaunch }
theorem witness_SorrelEmit :
    (pk.deps = [] ∧ pk.cond = none ∧ logHolds (counted sv) 0 = false ∧ ∃ l k, templateOf sv pk 3 0 sv.nextLaunch = some l ∧ loadKernel { sv with nextLaunch := nextNum sv.nextLaunch } l.ctx l.kdesc = some k ∧
      (placeable { sv with nextLaunch := nextNum sv.nextLaunch } k.shape l.g && l.ctx == 0) = true) ∧
    (∃ l, templateOf (logged sv) pk 3 0 sv.nextLaunch = some l ∧ logHolds (counted (logged sv)) l.ctx = true) ∧
    (∃ l, templateOf (badKernel 0x380000) pk 3 0 sv.nextLaunch = some l ∧ logHolds (counted (badKernel 0x380000)) l.ctx = false ∧ loadKernel (counted (badKernel 0x380000)) l.ctx l.kdesc = none) ∧
    (∀ n ∈ [true, false], (serving (nodePk n)).sorrel = some (nodePk n) ∧ (nodePk n).steps < 256 ∧ ((nodePk n).deps ≠ [] ∨ (nodePk n).cond.isSome = true) ∧ (serving (nodePk n)).nodes.length < 256 ∧
      (templateOf (serving (nodePk n)) (nodePk n) 3 0 (serving (nodePk n)).nextLaunch).isSome = true ∧ (Sorrel.goOn (nodePk n) 0).pc < (nodePk n).prog.length) ∧
    (let y : Node := { nodeOf none with deps := (nodePk true).deps }; y.ready (counted (serving (nodePk true))) = true ∧ y.ready (counted { serving (nodePk true) with disp := [] }) = false) ∧
    (let s : State := { serving (nodePk true) with nodes := List.replicate 256 (nodeOf none) };
      256 ≤ s.nodes.length ∧ (templateOf s (nodePk true) 3 0 s.nextLaunch).isSome = true) := by
  refine ⟨⟨rfl, rfl, by decide +kernel, emit_of (by decide +kernel)⟩, ⟨(templateOf (logged sv) pk 3 0 sv.nextLaunch).get (by decide +kernel), (Option.some_get _).symm, by decide +kernel⟩,
    ⟨(templateOf (badKernel 0x380000) pk 3 0 sv.nextLaunch).get (by decide +kernel), (Option.some_get _).symm, by decide +kernel, by decide +kernel⟩, by decide +kernel, by decide +kernel, by decide +kernel⟩
/-- The last bytecode of a packet; the end of the body of a `rep`, with and without another turn; a store to a protected page whose pool is empty, and one through a window that may only be read. -/
def lastPk : Sorrel := { pk with pc := 31 }
def loopPk (n : Nat) : Sorrel := { pk with loop := some (0, 1, n) }
def blockedStw : State := withCtx sv fun x => { x with ckpt := { x.ckpt with protect := [.page 7 0x400000] } }
def readOnly : State := sv.setHostF (queueOff 63 + 0x70) 1 1 0
def fullPk : Sorrel := packet pk.k (List.replicate 8 1) none
theorem witness_SorrelEdges :
    (lastPk.prog.length ≤ (Sorrel.goOn { lastPk with steps := lastPk.steps + 1 } 0).pc ∧ lastPk.ring < 64 ∧ lastPk.steps < 256) ∧
    (∀ n ∈ [1, 2], (loopPk n).loop = some (0, 1, n) ∧ (loopPk n).pc + 1 + 0 = 1 ∧ (loopPk n).pc + 1 + 1 ≠ 1) ∧
    ((qWin blockedStw 63 3).2.2.1 = true ∧ sorrelAddr blockedStw pk (pk.reg 0) 3 0 8 = some 0x4000F8 ∧ blockedStw.writesBlocked [0x4000F8] = true) ∧
    (qWin readOnly 63 3).2.2.1 = false ∧ (8 ≤ fullPk.deps.length ∧ (serving fullPk).sorrel = some fullPk) ∧ decodeSorrel 0x61000003 ≠ none := by decide +kernel
/-- A packet before its first bytecode. -/
theorem witness_SorrelRep : 1 ≤ (31 : BitVec 5).toNat ∧ pk.pc + 1 < pk.prog.length := by decide

/-! Queues, nodes and launches. -/

/-- Queue 63's program of one bytecode at 0x500000; a program that breaks a rule is empty. -/
def programmed (w : Nat) : State := putBytes (base.setHost (queueOff 63 + 0x28) 0x500001) 0x500000 (leBytes 4 w)
/-- Queue 63 is enabled with a ring of 2^16 slots at 0x600000 and is due; its last slot has a lap. -/
def ringed (lap : Nat) : State :=
  let s := (((((base.setHost (queueOff 63) 0x600000).setHostF (queueOff 63 + 0x10) 8 8 1).setHostF (queueOff 63 + 0x10) 4 0 16).setHost (queueOff 63 + 0x20) 0xFFFF).setHost (queueOff 63 + 0x18) 0x10000)
  { putBytes s (0x600000 + 64 * 0xFFFF) (leBytes 4 lap) with due := [63], queueProg := [(63, [0x61000003])] }
theorem witness_Queues : (63 : Nat) < 64 ∧ qEn (ringed 1) (qLeader (ringed 1) 63) = true ∧ qEn (programmed 0x61000003) 63 = false ∧ (1 ≤ (16 : BitVec 5).toNat ∧ (16 : BitVec 5).toNat ≤ 16 ∧ 16 < (17 : BitVec 5).toNat) ∧
    (match qProgram ((programmed 0x61000003).setHostF (queueOff 63 + 0x10) 4 0 16) 63 with | .ok p => p == [0x61000003] | .error _ => false) = true ∧
    (match qProgram ((programmed 0xFFFFFFFF).setHostF (queueOff 63 + 0x10) 4 0 1) 63 with | .ok _ => false | .error i => i == 0) = true ∧
    (∀ n ∈ [0, 1], (ringed n).sorrel = none ∧ nextQueue (ringed n) = some 63 ∧ qEn (ringed n) 63 = true ∧ qRings (ringed n) 63 = [63] ∧ qHead (ringed n) 63 < qTail (ringed n) 63) ∧
    published (ringed 0) 63 = false ∧ published (ringed 1) 63 = true ∧
    (∀ s ∈ [(ringed 1).setHostF (queueOff 63 + 0x10) 8 8 0, (ringed 1).setHost (queueOff 63 + 0x18) 0xFFFF], s.sorrel = none ∧ nextQueue s = some 63 ∧ (qEn s 63 = false ∨ (qRings s 63 = [63] ∧ qTail s 63 ≤ qHead s 63))) := by decide +kernel
/-- A node that depends on a launch that ended as d, or has a condition. -/
def waiting (d : Nat) (cond : Option Nat) : State := { kernels with nodes := [⟨launched 0 65536, 63, 5, 1, zeros 8, [1], cond⟩], disp := [(1, d)], nextLaunch := 65537 }
theorem witness_Nodes :
    (∀ x ∈ [(1, none), (0, some 0x4000FC), (0, none)], (waiting x.1 x.2).nodes[0]? = some (nodeOf x.2) ∧ (nodeOf x.2).ready (waiting x.1 x.2) = true) ∧
    (nodeOf none).deps.any (depFailed (waiting 1 none)) = true ∧ (nodeOf none).deps.any (depFailed (waiting 0 none)) = false ∧
    (waiting 0 (some 0x4000FC)).spanBad 0x4000FC 4 = false ∧ (waiting 0 (some 0x4000FC)).spanPoison 0x4000FC 4 = false ∧ (waiting 0 (some 0x4000FC)).physNat 0x4000FC 4 = 0 ∧
    (let u : State := { (waiting 0 none) with nodes := [] }; logHolds u 0 = false ∧ (match loadKernel u 0 0x300000 with | some k => placeable u k.shape 1 | none => false) = true) ∧
    (let u : State := { logged (waiting 0 none) with nodes := [] }; logHolds u 0 = true) ∧
    (let u : State := { (waiting 0 none) with nodes := [], mem := (waiting 0 none).mem.store 0x300000 (zeros 64) }; logHolds u 0 = false ∧ loadKernel u 0 0x300000 = none) := by decide +kernel
/-- A crew of launch 0xFFFFFFFF for context 255 on the last core's last slot. -/
def bq0 : Quad := 0x87F8000000000000
def bq1 : Quad := 0xFFFFFFFF00000000
def binding (known : Bool) : State := { State.reset.setHostF 0xE00000 3 0 4 with launches := if known then [{ launched 1 0xFFFFFFFF with ctx := 255 }] else [] }
/-- The record's slot is taken. -/
def bound639 : State := (binding true).setDev (bindAddr 639 31) (2 ^ 63)
theorem witness_BindRecords : ((639 : Nat) < 640 ∧ (31 : Nat) < 32 ∧ bq0 &&& 0xBFFFFFFFFFE00000 = bq0 ∧ bq0.getLsbD 63 = true ∧ bq1 &&& 0xFFFFFFFFFFFFFFE0 = bq1 ∧ bitsOf bq1.toNat 63 32 = 0xFFFFFFFF ∧
      bitsOf bq0.toNat 58 51 = 255 ∧ bitsOf bq0.toNat 50 28 = 0) ∧ (∀ b ∈ [true, false], (binding b).devD (bindAddr 639 31) 0 = 0 ∧ (binding b).devD (bindAddr 639 31 + 8) 0 = 0) ∧
    (binding false).launch? 0xFFFFFFFF = none ∧ (∃ l ∈ (binding true).launch? 0xFFFFFFFF, l.kernel = some ker ∧
      commitOk ((binding true).setDev (bindAddr 639 31 + 8) bq1) l ker 639 255 0 (basesOf bq0 bq1) = true ∧
      (let q : Quad := bq0 + 0x10000000; q &&& 0xBFFFFFFFFFE00000 = q ∧ q.getLsbD 63 = true ∧ bitsOf q.toNat 50 28 = 1 ∧
        commitOk ((binding true).setDev (bindAddr 639 31 + 8) bq1) l ker 639 255 1 (basesOf q bq1) = false)) ∧ (bound639.devD (bindAddr 639 31) 0).getLsbD 63 = true := by
  exact ⟨by decide +kernel, by decide +kernel, by decide +kernel, ⟨((binding true).launch? 0xFFFFFFFF).get (by decide +kernel), Option.get_mem _, by decide +kernel, by decide +kernel, by decide +kernel⟩, by decide +kernel⟩
/-- A launch whose one crew is committed, or of which one is missing; one whose crew is done. -/
def committed (g : Nat) : State := { base with launches := [{ launched 1 7 with g := g }], crews := base.crews.map fun c => { c with launch := 7, started := false } }
def finished : State := { base with launches := [launched 2 7], crews := base.crews.map fun c => { c with launch := 7, threads := c.threads.map fun t => { t with exited := true }, warps := c.warps.map fun w => { w with entries := [] } } }
/-- A launch that has started, and one whose start is asked for; a crew of no launch (R335) that is done. -/
def restartedLaunch : State := { committed 1 with launches := [launched 2 7] }
def pendingStart : State := { committed 2 with startPend := [7] }
def finished0 : State := { finished with launches := [], crews := finished.crews.map fun c => { c with launch := 0 } }
theorem witness_LaunchesStartAndEnd : base.launch? (7 : Word).toNat = none ∧ (∀ g ∈ [1, 2], (committed g).launch? (7 : Word).toNat = some { launched 1 7 with g := g } ∧ (7 : Word).toNat ∉ (committed g).startPend) ∧
    (restartedLaunch.launch? (7 : Word).toNat = some (launched 2 7) ∧ pendingStart.launch? (7 : Word).toNat = some { launched 1 7 with g := 2 } ∧ (7 : Word).toNat ∈ pendingStart.startPend) ∧
    allCommitted (committed 1) (launched 1 7) = true ∧ allCommitted (committed 2) { launched 1 7 with g := 2 } = false ∧
    (finished.launch? (7 : Word).toNat = some (launched 2 7) ∧ groupDone finished 0 7 = true ∧ (launched 2 7).comp ≠ 0 ∧ finished.writeBad 0x700000 32 = false ∧ finished.lateWrites = [] ∧ finished.noLog ∧
      finished.still = true ∧ finished.mem.wf = true ∧ ∀ x ∈ finished.ctxs, x.ckpt.protect = []) ∧
    finished0.launch? 0 = none ∧ (finished0.ctxs.find? (fun x => x.bound && groupDone finished0 x.num 0)).isSome = true := by decide +kernel

/-! Platform events. -/

def staged0 : State := State.reset
/-- An image of class 5 is pending. -/
def pending (cls : Nat) : State := base.setHostF 0xE00008 (8 + cls) (8 + cls) 1
def hot (x : Nat) (down : List (Nat × Nat)) : State := { base with plat := { base.plat with temps := [(0, x), (24, x)], freqDown := down } }
theorem witness_PlatformEvents : stage staged0 = 0 ∧ (∀ cls ∈ List.range 6, cls < 6 ∧ cls < base.plat.fw.length ∧ (pending cls).hostF 0xE00008 (8 + cls) (8 + cls) = 1 ∧ switchPoint (pending cls) cls = true) ∧
    (∀ s ∈ [hot 840 [], hot 1000 [(63, 2)]], (63 : Nat) < 64 ∧ 840 ≤ s.temp (islandSocket 63)) ∧
    (Config.devBase ≤ devAddr 0 (xlatOff 255) ∧ devAddr 0 (xlatOff 255) < Config.paEnd ∧ devAddr 0 (xlatOff 255) % 8 = 0 ∧ base.dieFenced (devAddr 0 (xlatOff 255)) = false) ∧
    (Config.devBase ≤ devAddr 3 0xFFFFFC ∧ devAddr 3 0xFFFFFC < Config.paEnd ∧ devAddr 3 0xFFFFFC % 4 = 0 ∧ dieReserved (devAddr 3 0xFFFFFC) = false ∧
      dieReserved (devAddr 3 0xFFFFFC / 8 * 8) = false ∧ regFields (devAddr 3 0xFFFFFC / 8 * 8) = none) ∧
    (({ base with plat := { base.plat with fenced := [3] } }).dieFenced (devAddr 3 0x100000) = true ∧ dieReserved (devAddr 3 0x100000) = false) ∧
    (∀ a ∈ [devAddr 25 0, devAddr 45 0xFFFFFC], Config.devBase ≤ a ∧ a < Config.paEnd ∧ a % 4 = 0 ∧ dieReserved a = true ∧ dieReserved (a / 8 * 8) = true) := by decide +kernel

/-! Resets. -/

/-- Everything a reset may touch is in use. -/
def busy : State :=
  { finished with l1 := [⟨0, 0x8000, 1, 1, zeros 128⟩], tlb := [⟨0, none, 0, 1, 4, 0, none⟩, ⟨1, some 64, 0, 1, 4, 0x200000000060001F, some 0x8000⟩], nodes := [nodeOf none], sorrel := some pk, due := [63], nextLaunch := 65537
                  chans := (channel 0 1).chans, mem := [(0x8000, 1), (vaultKey 0 0, 5), (vaultKey 16 0, 6), (hostKey 3, 7)], ports := jobState.ports, routes := jobState.routes
                  merge := [mergeE 1 (some 3)], prgFree := [1], plat := { finished.plat with temps := [(24, 920)], cxl := [(Config.cxlBase, 0x1000)] } }
theorem witness_Resets : ((255 : Nat) < 256 ∧ (639 : Nat) < 640 ∧ (159 : Nat) < 160 ∧ (44 : Nat) < 64 ∧ 3 ≤ 44 % 32 ∧ 44 % 32 ≤ 12 ∧ (11 : Nat) < 12 ∧ (35 : Nat) < 36) ∧ (∀ c ∈ busy.crews, c.usesCore 639 = false) ∧
    (busy.crew? 0).isSome = true ∧ (∀ c ∈ busy.crews, quadOf c.core = 0) ∧ (busy.port? 35).isSome = true ∧ busy.noLog ∧ busy.mem.wf = true ∧ (24 : Nat) < 25 ∧ 920 ≤ busy.temp 24 ∧ (busy.nodes = [nodeOf none] ∧ launchAge busy (nodeOf none).launch.num ≤ 65536) := by decide +kernel

/-! The loader. -/

/-- R54: the addresses of the worked example. -/
theorem test_placeWords : placeWords 0x1000 [8, 12, 16, 8, 12, 16] = ([0x1000, 0x1008, 0x1020, 0x1030, 0x1040, 0x1060], 0x1070) := by decide
/-- R78, R79: a `nop`, a unit with XW 11, a `bra` two instructions back, and eight bytes of data. -/
def omlynSample : List Byte :=
  shapeBytes ⟨8, 16, 8, 0, 0, 8, 0, 1, 1⟩ ++ leBytes 4 4 ++ leBytes 4 0xFFFFFFFF ++ leBytes 4 0xFFFFFFFF ++ leBytes 4 0 ++ leBytes 4 0x60 ++ leBytes 4 1 ++ leBytes 4 0x68 ++ leBytes 4 8 ++ leBytes 8 0
    ++ leBytes 8 0x000FFFFFFFFF7F01 ++ leBytes 8 0xC000000000000000 ++ leBytes 8 0x400FFFFFFFFF8202 ++ leBytes 8 0xFFFFFFFE ++ leBytes 8 (1 + 7 * 2 ^ 32) ++ leBytes 8 0x1122334455667788
/-- R54, R62, R79, R112: the `bra` moves to the next block and goes 32 bytes back, with the header of the worked encoding. -/
theorem test_omload : (omload omlynSample 0x1000 0x2000 0x3000).map (fun x => (x.code.drop 32).take 12) = some (leBytes 8 0x003FFFFFFFFE0809 ++ leBytes 4 0xFFFFFFF8) := by decide +kernel

end Sys2Proof.Tests
end

section
/-! PROOF. Integer arithmetic (R99): a result is the exact integer, wrapped to the low n bits or clamped to the range of its type. -/
namespace Sys2Proof.Machine

/-! ### The two readings of n bits, as bit vectors -/

theorem wrapN_eq_toNat_ofInt (n : Nat) (x : Int) : wrapN n x = (BitVec.ofInt n x).toNat := (BitVec.toNat_ofInt x).symm
theorem sInt_eq_toInt_ofNat (n x : Nat) : sInt n x = (BitVec.ofNat n x).toInt := by
  rw [BitVec.toInt_eq_toNat_cond, BitVec.toNat_ofNat, sInt]
  cases n with
  | zero => simp [Nat.mod_one]
  | succ k => simp only [Nat.add_one_ne_zero, if_false, Nat.add_sub_cancel, Nat.pow_succ']; congr 1; exact propext ⟨by omega, by omega⟩
theorem wrapN_lt (n : Nat) (x : Int) : wrapN n x < 2 ^ n := wrapN_eq_toNat_ofInt n x ▸ (BitVec.ofInt n x).isLt
theorem cast_wrapN (n : Nat) (x : Int) : (wrapN n x : Int) = x % 2 ^ n := by
  rw [wrapN, Int.toNat_of_nonneg (Int.emod_nonneg _ (by positivity))]; push_cast; rfl

/-! ### The range of a type -/

theorem Ty.bits_pos (t : Ty) : 0 < t.bits := by cases t <;> decide
theorem Ty.bits_le (t : Ty) : t.bits ≤ 64 := by cases t <;> decide
theorem loOf_le_hiOf (t : Ty) : loOf t ≤ hiOf t := by cases t <;> decide
theorem neg_le_loOf (t : Ty) : -(2 : Int) ^ 128 ≤ loOf t := by cases t <;> decide
theorem hiOf_le (t : Ty) : hiOf t ≤ (2 : Int) ^ 128 := by cases t <;> decide
/-- R28: the clamp of the model is the clamp between the bounds of the type. -/
theorem satInt_eq_clamp (t : Ty) (x : Int) : satInt t.bits t.signed x = max (loOf t) (min (hiOf t) x) := by
  have h := loOf_le_hiOf t
  have e : satInt t.bits t.signed x = if x < loOf t then loOf t else if hiOf t < x then hiOf t else x := by
    simp only [satInt, loOf, hiOf]; push_cast; rfl
  rw [e]; omega
/-- An integer in the range of a type is read back from its bits. -/
theorem intOf_wrapN {t : Ty} {x : Int} (hlo : loOf t ≤ x) (hhi : x ≤ hiOf t) : intOf t (wrapN t.bits x) = x := by
  unfold loOf at hlo; unfold hiOf at hhi; unfold intOf
  cases hs : t.signed with
  | true =>
    rw [hs] at hlo hhi
    rw [if_pos rfl, sInt_eq_toInt_ofNat, wrapN_eq_toNat_ofInt, BitVec.ofNat_toNat, BitVec.setWidth_eq]
    exact BitVec.toInt_ofInt_eq_self (Ty.bits_pos t) hlo (Int.lt_of_le_sub_one hhi)
  | false =>
    rw [hs] at hlo hhi
    rw [if_neg Bool.false_ne_true, cast_wrapN]
    exact Int.emod_eq_of_lt hlo (Int.lt_of_le_sub_one hhi)
/-- R28, R99: what `arith` gives is the result of the exact value. -/
theorem isResult_arith (t : Ty) (sat : Bool) (x : Int) : IsResult t sat x (arith t sat x) := by
  refine ⟨wrapN_lt _ _, ?_⟩
  cases sat with
  | true =>
    simp only [arith, if_true, satInt_eq_clamp]
    exact intOf_wrapN (le_max_left _ _) (max_le (loOf_le_hiOf t) (min_le_left _ _))
  | false => simp only [arith, Bool.false_eq_true, if_false, cast_wrapN, Int.emod_emod_of_dvd, dvd_refl]

/-! ### Instructions that write one result a lane -/

/-- An instruction whose meaning is to write `g` in every executing lane yields what stands in `p` to the operands. -/
theorem yields_of_issue {i : Instr} {s : State} {e : Env} {t : Ty} {p : Thread → Nat → Prop} (g : Env → Thread → Nat)
    (hi : exec i s = issue i s (aluBody t g)) (hp : ∀ th, p th (g e th)) : Yields i s e t p :=
  fun h => ⟨g e, hi.trans (issue_aluBody h t g), hp⟩

/-- Settles O10: each form writes `arith` of its exact value. -/
theorem integerArithmetic : Obligations.IntegerArithmetic := by
  unfold Obligations.IntegerArithmetic
  intro t sat f s e
  refine ⟨yields_of_issue (evalAdd t sat) rfl fun th => isResult_arith .., yields_of_issue (evalSub t sat) rfl fun th => isResult_arith ..,
    yields_of_issue (evalMin t sat) rfl fun th => isResult_arith .., yields_of_issue (evalMax t sat) rfl fun th => isResult_arith ..,
    yields_of_issue (evalAbs t sat) rfl fun th => ?_, yields_of_issue (evalNeg t sat) rfl fun th => isResult_arith ..,
    yields_of_issue (evalMul t sat) rfl fun th => isResult_arith .., yields_of_issue (evalMulh t) rfl fun th => isResult_arith t false _,
    yields_of_issue (evalMad t sat) rfl fun th => isResult_arith ..⟩
  rw [Int.abs_eq_natAbs]
  exact isResult_arith ..

end Sys2Proof.Machine
end

section
/-! PROOF. Logic and shifts (R100, R101, R103 `brev`, R105): the bits of a result, one by one, and shift counts of any size. -/
namespace Sys2Proof.Machine

/-! ### Bits -/

theorem testBit_notBits (t : Ty) (x i : Nat) : (notBits t x).testBit i = (decide (i < t.bits) && !x.testBit i) := by
  have h : x % 2 ^ t.bits < 2 ^ t.bits := Nat.mod_lt _ (by positivity)
  rw [notBits, Nat.sub_sub, Nat.add_comm 1, Nat.testBit_two_pow_sub_succ h, Nat.testBit_mod_two_pow]
  by_cases hi : i < t.bits <;> simp [hi]
/-- R103: bit i of the reversal is bit n - 1 - i. -/
theorem testBit_brevN (n x i : Nat) : (brevN n x).testBit i = (decide (i < n) && x.testBit (n - 1 - i)) := by
  induction n generalizing x i with
  | zero => simp [brevN]
  | succ n ih =>
    have hlt : brevN n (x / 2) < 2 ^ n := Nat.lt_pow_two_of_testBit _ fun j hj => by simp [ih, Nat.not_lt.2 hj]
    rw [brevN, Nat.mul_comm, Nat.testBit_two_pow_mul_add _ hlt, ih, ← Nat.testBit_add_one, Nat.add_sub_cancel]
    rcases Nat.lt_trichotomy i n with h | rfl | h
    · rw [if_pos h, show n - 1 - i + 1 = n - i by omega]; simp [h, Nat.lt_succ_of_lt h]
    · simp
    · rw [if_neg (Nat.lt_asymm h), show i - n = i - n - 1 + 1 by omega, Nat.testBit_add_one, show x % 2 / 2 = 0 by omega]
      simp [show ¬ i < n + 1 by omega]
/-- R101: a rotation by k moves bit i - k, counted modulo n, to bit i. -/
theorem testBit_rotate {n k a : Nat} (hk : k < n) (ha : a < 2 ^ n) (i : Nat) :
    ((a * 2 ^ k + a / 2 ^ (n - k)) % 2 ^ n).testBit i = (decide (i < n) && a.testBit ((i + n - k) % n)) := by
  have hlow : a / 2 ^ (n - k) < 2 ^ k := Nat.div_lt_of_lt_mul (by rwa [← Nat.pow_add, Nat.sub_add_cancel hk.le])
  rw [Nat.testBit_mod_two_pow, Nat.mul_comm, Nat.testBit_two_pow_mul_add _ hlow]
  by_cases hi : i < n
  · by_cases h : i < k
    · rw [if_pos h, Nat.testBit_div_two_pow, Nat.mod_eq_of_lt (by omega), show i + (n - k) = i + n - k by omega]
    · rw [if_neg h, show i + n - k = i - k + n by omega, Nat.add_mod_right, Nat.mod_eq_of_lt (by omega)]
  · simp [hi]

/-! ### The size of a source -/

/-- R27, R58: the bits of a source of an integer or bit type lie below its width. -/
theorem srcBits_lt {t : Ty} (ht : Ty.whole t = true) (w : Warp) (th : Thread) (o : Opd) : srcBits w th t o < 2 ^ t.bits := by
  have hpos : 0 < 2 ^ t.bits := by positivity
  cases o with
  | v n =>
    simp only [srcBits]
    split
    · rename_i h; rw [h]; exact (th.pair n.toNat).isLt
    · exact Nat.mod_lt _ hpos
  | s n => exact Nat.mod_lt _ hpos
  | k n =>
    have hwide : 2 ^ 6 ≤ 2 ^ t.bits := Nat.pow_le_pow_right (by decide) (by cases t <;> decide)
    have hnot : ¬ (t.isFloat || t.packed) = true := by
      simp only [Ty.whole, Bool.and_eq_true, Bool.not_eq_true'] at ht
      simp [ht.1, ht.2]
    simp only [srcBits, smallConst, if_neg hnot]
    exact n.isLt.trans_le hwide
  | l _ | t _ | z | p _ => exact hpos
/-- The integer that bits of a type stand for is smaller than the largest power a shift counts with. -/
theorem intOf_bounds {t : Ty} {x : Nat} (hx : x < 2 ^ t.bits) : -(2 : Int) ^ 128 ≤ intOf t x ∧ intOf t x < 2 ^ 128 := by
  have hle := Ty.bits_le t
  have hpow : (2 : Int) ^ (t.bits - 1) ≤ 2 ^ 128 := pow_le_pow_right₀ (by decide) (by omega)
  unfold intOf
  split
  · rw [sInt_eq_toInt_ofNat]
    exact ⟨(neg_le_neg hpow).trans (BitVec.le_toInt _), BitVec.toInt_lt.trans_le hpow⟩
  · have : x < 2 ^ 128 := hx.trans_le (Nat.pow_le_pow_right (by decide) (by omega))
    exact ⟨by omega, by exact_mod_cast this⟩

/-! ### Counts of any size -/

/-- R101: a number below 2^m is shifted out by any count from m on, to 0 or to -1. -/
theorem ediv_two_pow_min {x : Int} {m : Nat} (hlo : -2 ^ m ≤ x) (hhi : x < 2 ^ m) (c : Nat) : x / 2 ^ min c m = x / 2 ^ c := by
  rcases Nat.le_total c m with h | h
  · rw [Nat.min_eq_left h]
  · have hp : (2 : Int) ^ m ≤ 2 ^ c := pow_le_pow_right₀ (by decide) h
    rw [Nat.min_eq_right h]
    rcases lt_or_ge x 0 with hx | hx
    · have minus_one (p : Int) (h : -p ≤ x) : x / p = -1 := (Int.ediv_eq_iff_of_pos (by omega)).2 ⟨by omega, by omega⟩
      rw [minus_one _ hlo, minus_one _ (by omega)]
    · rw [Int.ediv_eq_zero_of_lt hx hhi, Int.ediv_eq_zero_of_lt hx (hhi.trans_le hp)]
/-- A value that is congruent and clamps alike has the same results. -/
theorem IsResult.congr {t : Ty} {sat : Bool} {x y : Int} {r : Nat} (h : IsResult t sat y r) (hm : y % 2 ^ t.bits = x % 2 ^ t.bits)
    (hc : max (loOf t) (min (hiOf t) y) = max (loOf t) (min (hiOf t) x)) : IsResult t sat x r := by
  simpa only [IsResult, hm, hc] using h
/-- R101: shifted by 128 or more, a number leaves no bit in the type, and is 0 or beyond its range on its own side. -/
theorem isResult_shl (t : Ty) (sat : Bool) (x : Int) (c : Nat) : IsResult t sat (x * 2 ^ c) (arith t sat (x * 2 ^ min c 128)) := by
  rcases Nat.le_total c 128 with h | h
  · rw [Nat.min_eq_left h]; exact isResult_arith ..
  · have hlo := neg_le_loOf t
    have hhi := hiOf_le t
    have hp : (2 : Int) ^ 128 ≤ 2 ^ c := pow_le_pow_right₀ (by decide) h
    rw [Nat.min_eq_right h]
    refine (isResult_arith t sat _).congr ?_ ?_
    · have hdvd (k : Nat) (hk : 128 ≤ k) : x * 2 ^ k % 2 ^ t.bits = 0 :=
        Int.emod_eq_zero_of_dvd (Dvd.dvd.mul_left (pow_dvd_pow 2 ((Ty.bits_le t).trans (by omega))) x)
      rw [hdvd 128 le_rfl, hdvd c h]
    · rcases lt_trichotomy x 0 with hx | rfl | hx
      · have below (p : Int) (h128 : 2 ^ 128 ≤ p) : max (loOf t) (min (hiOf t) (x * p)) = loOf t :=
          max_eq_left ((min_le_right _ _).trans (by nlinarith))
        rw [below _ le_rfl, below _ hp]
      · simp only [zero_mul]
      · have above (p : Int) (h128 : 2 ^ 128 ≤ p) : min (hiOf t) (x * p) = hiOf t := min_eq_left (by nlinarith)
        rw [above _ le_rfl, above _ hp]

/-! ### The results -/

section
variable {t : Ty} (ht : Ty.whole t = true) (e : Env) (th : Thread)
include ht

theorem testBit_evalRot (i : Nat) : (evalRot t e th).testBit i =
    (decide (i < t.bits) && (bitsA t e th).testBit ((i + t.bits - cntB e th % t.bits) % t.bits)) :=
  testBit_rotate (Nat.mod_lt _ (Ty.bits_pos t)) (srcBits_lt ht e.w th e.f.a) i
theorem intA_bounds : -(2 : Int) ^ 128 ≤ intA t e th ∧ intA t e th < 2 ^ 128 := intOf_bounds (srcBits_lt ht e.w th e.f.a)
theorem evalShr_eq : evalShr t e th = bitsA t e th / 2 ^ cntB e th := by
  have h : bitsA t e th < 2 ^ 128 :=
    (srcBits_lt ht e.w th e.f.a).trans_le (Nat.pow_le_pow_right (by decide) ((Ty.bits_le t).trans (by decide)))
  have := ediv_two_pow_min (x := bitsA t e th) (m := 128) (by omega) (by exact_mod_cast h) (cntB e th)
  unfold evalShr
  exact_mod_cast this
theorem isResult_evalSar : IsResult t false (intA t e th / 2 ^ cntB e th) (evalSar t e th) := by
  obtain ⟨hlo, hhi⟩ := intA_bounds ht e th
  rw [← ediv_two_pow_min hlo hhi]
  exact isResult_arith t false _
end

theorem testBit_evalAndn (t : Ty) (e : Env) (th : Thread) (i : Nat) : (evalAndn t e th).testBit i =
    ((bitsA t e th).testBit i && decide (i < t.bits) && !(srcB e th t).testBit i) := by
  rw [Bool.and_assoc, ← testBit_notBits]
  exact Nat.testBit_land ..

/-- Settles O11: the results bit by bit; the shifts by the cut of their counts. -/
theorem bitwiseAndShiftResults : Obligations.BitwiseAndShiftResults := by
  unfold Obligations.BitwiseAndShiftResults
  intro t sat f s e ht
  refine ⟨?and, ?or, ?xor, ?andn, ?not, ?brev, ?rot, ?mov, ?sel, ?shl, ?shr, ?sar⟩
  case and => exact yields_of_issue (evalAnd t) rfl fun th => Nat.testBit_land _ _
  case or => exact yields_of_issue (evalOr t) rfl fun th => Nat.testBit_or _ _
  case xor => exact yields_of_issue (evalXor t) rfl fun th => Nat.testBit_xor _ _
  case andn => exact yields_of_issue (evalAndn t) rfl fun th => testBit_evalAndn t e th
  case not => exact yields_of_issue (evalNot t) rfl fun th => testBit_notBits t _
  case brev => exact yields_of_issue (evalBrev t) rfl fun th => testBit_brevN t.bits _
  case rot => exact yields_of_issue (evalRot t) rfl fun th => testBit_evalRot ht e th
  case mov => exact yields_of_issue (evalMov t) rfl fun th => rfl
  case sel => exact yields_of_issue (evalSel t) rfl fun th => rfl
  case shl => exact yields_of_issue (evalShl t sat) rfl fun th => isResult_shl t sat _ _
  case shr => exact yields_of_issue (evalShr t) rfl fun th => evalShr_eq ht e th
  case sar => exact yields_of_issue (evalSar t) rfl fun th => isResult_evalSar ht e th

end Sys2Proof.Machine
end

section
/-! PROOF. Fields, counts, constants and conversions (R102, R103, R106, R107). -/
namespace Sys2Proof.Machine

/-! ### Fields: R102 -/

/-- The low l bits read as two's complement and written to n bits: from bit l on, every bit is the sign. -/
theorem testBit_wrapN_sInt (n l x i : Nat) :
    (wrapN n (sInt l x)).testBit i = (decide (i < n) && if i < l then x.testBit i else decide (0 < l) && x.testBit (l - 1)) := by
  have h : wrapN n (sInt l x) = ((BitVec.ofNat l x).signExtend n).toNat := by
    rw [wrapN_eq_toNat_ofInt, sInt_eq_toInt_ofNat, BitVec.signExtend]
  rw [h, BitVec.testBit_toNat, BitVec.getLsbD_signExtend, BitVec.msb_eq_getLsbD_last, BitVec.getLsbD_ofNat, BitVec.getLsbD_ofNat]
  by_cases hi : i < l
  · simp [hi]
  · simp [hi, show l - 1 < l ↔ 0 < l by omega]
/-- The l bits of a number from bit p on. -/
theorem testBit_field (a p l i : Nat) : (a / 2 ^ p % 2 ^ l).testBit i = (decide (i < l) && a.testBit (p + i)) := by
  rw [Nat.testBit_mod_two_pow, Nat.testBit_div_two_pow, Nat.add_comm]
/-- The l bits of a number from bit p on, replaced by the low bits of another. -/
theorem testBit_insertField (a c p l i : Nat) :
    (a - a / 2 ^ p % 2 ^ l * 2 ^ p + c % 2 ^ l * 2 ^ p).testBit i = if p ≤ i ∧ i < p + l then c.testBit (i - p) else a.testBit i := by
  have hsplit : a - a / 2 ^ p % 2 ^ l * 2 ^ p + c % 2 ^ l * 2 ^ p = 2 ^ p * (2 ^ l * (a / 2 ^ p / 2 ^ l) + c % 2 ^ l) + a % 2 ^ p := by
    have hlow := Nat.div_add_mod a (2 ^ p)
    have hhigh := congrArg (2 ^ p * ·) (Nat.div_add_mod (a / 2 ^ p) (2 ^ l))
    simp only [Nat.mul_add] at hhigh ⊢
    rw [Nat.mul_comm _ (2 ^ p), Nat.mul_comm _ (2 ^ p)]
    omega
  have hp : a % 2 ^ p < 2 ^ p := Nat.mod_lt _ (by positivity)
  have hl : c % 2 ^ l < 2 ^ l := Nat.mod_lt _ (by positivity)
  rw [hsplit, Nat.testBit_two_pow_mul_add _ hp]
  by_cases h1 : i < p
  · rw [if_pos h1, if_neg (by omega), Nat.testBit_mod_two_pow]
    simp [h1]
  · rw [if_neg h1, Nat.testBit_two_pow_mul_add _ hl]
    by_cases h2 : i - p < l
    · rw [if_pos h2, if_pos (by omega), Nat.testBit_mod_two_pow]
      simp [h2]
    · rw [if_neg h2, if_neg (by omega), Nat.testBit_div_two_pow, Nat.testBit_div_two_pow, show i - p - l + l + p = i by omega]
theorem testBit_evalBfx (t : Ty) (e : Env) (th : Thread) (i : Nat) (hi : i < t.bits) :
    (evalBfx t e th).testBit i = if i < fieldLen t (cntB e th) then (bitsA t e th).testBit (fieldPos t (cntB e th) + i)
      else t.signed && decide (0 < fieldLen t (cntB e th)) && (bitsA t e th).testBit (fieldPos t (cntB e th) + fieldLen t (cntB e th) - 1) := by
  simp only [evalBfx]
  generalize fieldLen t (cntB e th) = l
  generalize fieldPos t (cntB e th) = p
  cases t.signed with
  | true =>
    rw [if_pos rfl, testBit_wrapN_sInt, testBit_field, testBit_field]
    by_cases h : i < l
    · simp [h, hi]
    · by_cases hl : 0 < l
      · simp [h, hi, hl, show p + (l - 1) = p + l - 1 by omega]
      · simp [h, hl]
  | false =>
    rw [if_neg Bool.false_ne_true, testBit_field]
    by_cases h : i < l <;> simp [h]

/-! ### Counts: R103 -/

/-- The 1 bits among the low n, from the lowest: `onesOf` for every n. -/
def onesBelow (n x : Nat) : List Nat := (List.range n).filter fun i => x.testBit i
theorem onesOf_eq (t : Ty) (x : Nat) : onesOf t x = onesBelow t.bits x := rfl
/-- The list by its lowest bit, as the counts that halve their number recur. -/
theorem onesBelow_succ (n x : Nat) :
    onesBelow (n + 1) x = if x % 2 = 1 then 0 :: (onesBelow n (x / 2)).map Nat.succ else (onesBelow n (x / 2)).map Nat.succ := by
  have h : (fun i => x.testBit i) ∘ Nat.succ = fun i => (x / 2).testBit i := funext fun i => Nat.testBit_add_one x i
  rw [onesBelow, List.range_succ_eq_map, List.filter_cons, List.filter_map, h, Nat.testBit_zero]
  by_cases hx : x % 2 = 1 <;> simp [hx, onesBelow]
/-- The list by its highest bit. -/
theorem onesBelow_concat (n x : Nat) : onesBelow (n + 1) x = if x.testBit n then onesBelow n x ++ [n] else onesBelow n x := by
  rw [onesBelow, List.range_succ, List.filter_append]
  cases h : x.testBit n <;> simp [h, onesBelow]
theorem popcount_eq_length (n x : Nat) : popcount n x = (onesBelow n x).length := by
  induction n generalizing x with
  | zero => rfl
  | succ n ih =>
    rw [popcount, onesBelow_succ, ih]
    split
    · rename_i h; rw [List.length_cons, List.length_map, h, Nat.add_comm]
    · rw [List.length_map]; omega
theorem ctzN_eq_head? (n x : Nat) : ctzN n x = (onesBelow n x).head?.getD n := by
  induction n generalizing x with
  | zero => rfl
  | succ n ih =>
    rw [ctzN, onesBelow_succ, ih]
    split
    · rfl
    · rw [List.head?_map]; cases (onesBelow n (x / 2)).head? <;> simp [Nat.add_comm]
theorem fnthN_eq_getElem? (n p x i : Nat) : fnthN n p x i = (onesBelow n x)[i]?.map (p + ·) := by
  induction n generalizing p x i with
  | zero => rfl
  | succ n ih =>
    have hp : ((p + ·) ∘ Nat.succ : Nat → Nat) = (p + 1 + ·) := funext fun k => by simp only [Function.comp_apply]; omega
    rw [fnthN, onesBelow_succ, ih, ih]
    split
    · cases i with
      | zero => rfl
      | succ i => simp [hp]
    · simp [hp]
/-- The highest 1 of the low n bits is their binary logarithm. -/
theorem getLast?_onesBelow (n x : Nat) : (onesBelow n x).getLast? = if x % 2 ^ n = 0 then none else some (Nat.log2 (x % 2 ^ n)) := by
  induction n with
  | zero => simp [onesBelow, Nat.mod_one]
  | succ n ih =>
    have hlt : x % 2 ^ n < 2 ^ n := Nat.mod_lt _ (by positivity)
    rw [onesBelow_concat, Nat.mod_pow_succ, ← Nat.toNat_testBit]
    cases x.testBit n with
    | true =>
      have hlog : Nat.log2 (x % 2 ^ n + 2 ^ n) = n := (Nat.log2_eq_iff (by omega)).2 ⟨by omega, by omega⟩
      simp [hlog]
    | false => simpa using ih
theorem clzN_eq_getLast? (n x : Nat) : clzN n x = match (onesBelow n x).getLast? with | some i => n - 1 - i | none => n := by
  rw [getLast?_onesBelow, clzN]
  split <;> rfl
theorem evalFnth_eq (t : Ty) (e : Env) (th : Thread) : evalFnth t e th = ((onesOf t (bitsA t e th))[cntB e th]?).getD 0xFFFFFFFF := by
  rw [evalFnth, fnthN_eq_getElem?, onesOf_eq]
  simp

/-- Settles O12: fields by their bits, counts by the list of 1 bits. -/
theorem fieldAndCountResults : Obligations.FieldAndCountResults := by
  unfold Obligations.FieldAndCountResults
  intro t td sat x f s e _
  refine ⟨?bfx, ?bfi, ?popc, ?clz, ?ctz, ?fnth, ?moviB32, ?moviB64I, ?moviB64W, ?cvt⟩
  case bfx => exact yields_of_issue (evalBfx t) rfl fun th i hi => testBit_evalBfx t e th i hi
  case bfi => exact yields_of_issue (evalBfi t) rfl fun th => testBit_insertField _ _ _ _
  case popc => exact yields_of_issue (evalPopc t) rfl fun th => popcount_eq_length _ _
  case clz => exact yields_of_issue (evalClz t) rfl fun th => clzN_eq_getLast? _ _
  case ctz => exact yields_of_issue (evalCtz t) rfl fun th => ctzN_eq_head? _ _
  case fnth => exact yields_of_issue (evalFnth t) rfl fun th => evalFnth_eq t e th
  case moviB32 => exact yields_of_issue (fun e _ => immBits .b32 (e.f.imm.getD 0)) rfl fun _ => Nat.mod_eq_of_lt (BitVec.isLt _)
  case moviB64I => exact yields_of_issue (fun e _ => immBits .b64 (e.f.imm.getD 0)) rfl fun _ => rfl
  case moviB64W => exact yields_of_issue (fun _ _ => x.toNat) rfl fun _ => rfl
  case cvt => exact yields_of_issue (evalCvt td t sat) rfl fun th => isResult_arith ..

end Sys2Proof.Machine
end

section
/-! PROOF. Compare and predicate instructions (R104, R108, R109). -/
namespace Sys2Proof.Machine

/-- An instruction whose meaning is to write the predicate `g` in every executing lane yields what `g` decides. -/
theorem yieldsP_of_issue {i : Instr} {s : State} {e : Env} {p : Thread → Prop} (g : Env → Thread → Bool)
    (hi : exec i s = issue i s (predBody g)) (hp : ∀ th, g e th = true ↔ p th) : YieldsP i s e p :=
  fun h => ⟨g e, by rw [hi, issue_of_ready h]; rfl, hp⟩

/-! ### Packing: R109 -/

/-- A number built from the bits that a predicate picks. -/
theorem testBit_foldl_setBits (q : Nat → Bool) (m i : Nat) :
    ((List.range m).foldl (fun x i => if q i then x + 2 ^ i else x) 0).testBit i = (decide (i < m) && q i) := by
  induction m generalizing i with
  | zero => simp
  | succ m ih =>
    rw [List.range_succ, List.foldl_append]
    generalize (List.range m).foldl (fun x i => if q i then x + 2 ^ i else x) 0 = y at ih
    have hlt : y < 2 ^ m := Nat.lt_pow_two_of_testBit _ fun j hj => by simp [ih, Nat.not_lt.2 hj]
    simp only [List.foldl_cons, List.foldl_nil]
    cases hq : q m with
    | true =>
      rw [if_pos rfl, show y + 2 ^ m = 2 ^ m * 1 + y by omega, Nat.testBit_two_pow_mul_add _ hlt, ih]
      rcases Nat.lt_trichotomy i m with h | rfl | h
      · simp [h, Nat.lt_succ_of_lt h]
      · simp [hq]
      · simp [show ¬ i < m by omega, show ¬ i < m + 1 by omega, Nat.testBit_lt_two_pow (show 1 < 2 ^ (i - m) from Nat.one_lt_two_pow (by omega))]
    | false =>
      rw [if_neg Bool.false_ne_true, ih]
      by_cases h : i = m
      · subst h; simp [hq]
      · simp [show i < m + 1 ↔ i < m by omega]
theorem testBit_predGroup (sh : Shape) (grp : BitVec 2) (th : Thread) (i : Nat) : (predGroup sh grp th).testBit i =
    (decide (i < 32) && decide (32 * grp.toNat + i < sh.preds) && th.pred (32 * grp.toNat + i)) := by
  rw [Bool.and_assoc]
  exact testBit_foldl_setBits (fun i => decide (32 * grp.toNat + i < sh.preds) && th.pred (32 * grp.toNat + i)) 32 i

/-! ### Unpacking: R109 -/

/-- The first m bits of x in the predicates from `base` on, as far as they are below `preds`: what `punpack` does to a thread. -/
def unpackBits (base preds x m : Nat) (t : Thread) : Thread :=
  (List.range m).foldl (fun t i => if base + i < preds then t.setPred (base + i) (x.testBit i) else t) t
theorem pred_unpackBits {preds : Nat} (hp : preds ≤ 96) (base x m : Nat) (t : Thread) (n : Nat) :
    (unpackBits base preds x m t).pred n = if base ≤ n ∧ n < base + m ∧ n < preds then x.testBit (n - base) else t.pred n := by
  induction m with
  | zero => rw [if_neg (by omega)]; rfl
  | succ m ih =>
    have hstep : unpackBits base preds x (m + 1) t =
        if base + m < preds then (unpackBits base preds x m t).setPred (base + m) (x.testBit m) else unpackBits base preds x m t := by
      rw [unpackBits, List.range_succ, List.foldl_append]; rfl
    rw [hstep]
    by_cases h : base + m < preds
    · rw [if_pos h, Thread.pred_setPred _ _ _ (by omega), ih]
      by_cases hn : n = base + m
      · subst hn; rw [if_pos rfl, if_pos (by omega), Nat.add_sub_cancel_left]
      · rw [if_neg hn]; exact if_congr (by omega) rfl rfl
    · rw [if_neg h, ih]; exact if_congr (by omega) rfl rfl
/-- Threads changed in turn, each by its number: a predicate that each change sets, or that none of them touches, has the value of the change in
the threads listed, and is as it was in every other. -/
theorem Crew.pred_thread_foldl_modThread (G : Nat → Thread → Thread) (n : Nat) (C : Prop) [Decidable C] (b : Nat → Bool)
    (hG : ∀ k t, (G k t).pred n = if C then b k else t.pred n) (ls : List (Nat × Nat)) : ∀ (c : Crew) (k : Nat), k < c.threads.length →
      ((ls.foldl (fun c l => c.modThread l.2 (G l.2)) c).thread k).pred n = if C ∧ k ∈ ls.map (·.2) then b k else (c.thread k).pred n := by
  induction ls with
  | nil => intro c k _; simp
  | cons l ls ih =>
    intro c k hk
    have hlen : (c.modThread l.2 (G l.2)).threads.length = c.threads.length := List.length_modify ..
    rw [List.foldl_cons, ih _ k (hlen ▸ hk), Crew.thread_modThread]
    by_cases h : k = l.2
    · subst h; by_cases hC : C <;> simp [hk, hG, hC]
    · simp only [List.map_cons, List.mem_cons, h, false_and, false_or, if_false]
theorem Crew.id_foldl_modThread (G : Nat → Thread → Thread) (ls : List (Nat × Nat)) :
    ∀ c : Crew, (ls.foldl (fun c l => c.modThread l.2 (G l.2)) c).id = c.id := by
  induction ls with
  | nil => exact fun _ => rfl
  | cons l ls ih => exact fun c => ih _
theorem State.thread_modCrew {s : State} {id : Nat} {c : Crew} (hc : s.crew? id = some c) {g : Crew → Crew} (hg : ∀ c, (g c).id = c.id)
    (tid : Nat) : (s.modCrew id g).thread id tid = (g c).thread tid := by
  rw [State.thread, State.crew?_modCrew _ _ _ fun c h => (hg c).trans h, if_pos rfl, hc]; rfl
/-- A change of a crew that keeps its threads changes no thread of any crew. -/
theorem State.thread_modCrew_of_threads_eq (s : State) (id : Nat) {g : Crew → Crew} (hg : ∀ c, (g c).id = c.id)
    (ht : ∀ c, (g c).threads = c.threads) (k tid : Nat) : (s.modCrew id g).thread k tid = s.thread k tid := by
  rw [State.thread, State.crew?_modCrew _ _ _ fun c h => (hg c).trans h, State.thread]
  by_cases h : k = id
  · rw [if_pos h]
    cases s.crew? k with
    | none => rfl
    | some c => simp only [Option.map_some, Crew.thread, ht]
  · rw [if_neg h]
/-- Moving past the word changes no thread. -/
theorem thread_done (e : Env) (t : State) (id tid : Nat) : (done e t).thread id tid = t.thread id tid := by
  rw [done_eq, Env.advance, State.thread_modCrew_of_threads_eq _ _ (fun c => c.modWarp_id _ _) fun c => c.modWarp_threads _ _]
  rfl
/-- The crew that an instruction runs in is found by its number. -/
theorem crew?_of_envOf {i : Instr} {s : State} {e : Env} (h : envOf i s = some e) : s.crew? e.c.id = some e.c := by
  obtain ⟨u, -, hc, -⟩ := envOf_spec h
  rwa [State.crew?_id hc]
/-- What `punpack` does to a thread of the crew. -/
def Env.unpack (e : Env) (grp : BitVec 2) (tid : Nat) (t : Thread) : Thread :=
  unpackBits (32 * grp.toNat) e.sh.preds (srcBits e.w (e.th tid) .n32 e.f.a) 32 t
theorem pred_unpack {e : Env} (hp : e.sh.preds ≤ 96) (grp : BitVec 2) (n tid : Nat) (t : Thread) : (e.unpack grp tid t).pred n =
    if 32 * grp.toNat ≤ n ∧ n < 32 * grp.toNat + 32 ∧ n < e.sh.preds then
      (srcBits e.w (e.th tid) .n32 e.f.a).testBit (n - 32 * grp.toNat)
    else t.pred n :=
  pred_unpackBits hp ..
theorem exec_punpack {grp : BitVec 2} {f : Fields} {s : State} {e : Env} (h : Ready (.punpack grp f) s e) :
    exec (.punpack grp f) s = .next (done e (s.modCrew e.c.id fun c => e.lanes.foldl (fun c l => c.modThread l.2 (e.unpack grp l.2)) c)) := by
  have hi : exec (.punpack grp f) s = issue (.punpack grp f) s fun e s =>
      .go (s.modCrew e.c.id fun c => e.lanes.foldl (fun c l => c.modThread l.2 (e.unpack grp l.2)) c) := rfl
  rw [hi, issue_of_ready h]; rfl
/-- R109: the predicates of an executing lane after `punpack`. -/
theorem pred_punpack {grp : BitVec 2} {f : Fields} {s : State} {e : Env} (h : Ready (.punpack grp f) s e) (hp : e.sh.preds ≤ 96)
    {l : Nat × Nat} (hl : l ∈ e.lanes) (hlt : l.2 < e.c.threads.length) (n : Nat) :
    ((done e (s.modCrew e.c.id fun c => e.lanes.foldl (fun c l => c.modThread l.2 (e.unpack grp l.2)) c)).thread e.c.id l.2).pred n =
      if 32 * grp.toNat ≤ n ∧ n < 32 * grp.toNat + 32 ∧ n < e.sh.preds then
        (srcBits e.w (e.th l.2) .n32 e.f.a).testBit (n - 32 * grp.toNat)
      else (e.th l.2).pred n := by
  rw [thread_done, State.thread_modCrew (crew?_of_envOf (ready_env h)) (Crew.id_foldl_modThread _ _),
    Crew.pred_thread_foldl_modThread _ n _ _ (pred_unpack hp grp n) _ _ _ hlt]
  simp only [List.mem_map_of_mem (f := (·.2)) hl, and_true]
  rfl

/-! ### Results -/

/-- R104: the six conditions. -/
theorem evalCmp_iff (t : Ty) (c : Cond) (e : Env) (th : Thread) : evalCmp t c e th = true ↔ match c with
    | .eq => intA t e th = intB t e th
    | .ne => intA t e th ≠ intB t e th
    | .lt => intA t e th < intB t e th
    | .le => intA t e th ≤ intB t e th
    | .gt => intB t e th < intA t e th
    | _ => intB t e th ≤ intA t e th := by
  cases c <;> simp [evalCmp]
/-- R108: a source inverted where FN says so. -/
theorem predA_iff (n : Bool) (e : Env) (th : Thread) : predA n e th = true ↔ predOf th e.f.a ≠ n := bne_iff_ne
theorem predB_iff (n : Bool) (e : Env) (th : Thread) : predB n e th = true ↔ predOf th e.f.b ≠ n := bne_iff_ne

/-- Settles O13: comparisons and logic by cases, packing bit by bit, unpacking thread by thread. -/
theorem predicateResults : Obligations.PredicateResults := by
  unfold Obligations.PredicateResults
  intro t c f s e na nb grp
  refine ⟨?cmp, ?pand, ?por, ?pxor, ?pnot, ?pmov, ?ppack, ?punpack⟩
  case cmp => exact yieldsP_of_issue (evalCmp t c) rfl fun th => evalCmp_iff t c e th
  case pand =>
    refine yieldsP_of_issue (fun e th => predA na e th && predB nb e th) rfl fun th => ?_
    rw [Bool.and_eq_true, predA_iff, predB_iff]
  case por =>
    refine yieldsP_of_issue (fun e th => predA na e th || predB nb e th) rfl fun th => ?_
    rw [Bool.or_eq_true, predA_iff, predB_iff]
  case pxor =>
    refine yieldsP_of_issue (fun e th => predA na e th != predB nb e th) rfl fun th => ?_
    rw [bne_iff_ne, ← predA_iff, ← predB_iff, ← Bool.eq_iff_iff]
  case pnot =>
    refine yieldsP_of_issue (fun e th => predA true e th) rfl fun th => ?_
    rw [predA_iff, ne_eq, Bool.not_eq_true]
  case pmov =>
    refine yieldsP_of_issue (fun e th => predA false e th) rfl fun th => ?_
    rw [predA_iff, ne_eq, Bool.not_eq_false]
  case ppack => exact yields_of_issue (fun e th => predGroup e.sh grp th) rfl fun th => testBit_predGroup e.sh grp th
  case punpack => exact fun h hp => ⟨_, exec_punpack h, fun l hl hlt n => pred_punpack h hp hl hlt n⟩

end Sys2Proof.Machine
end
